-- ==== Sys2Proof/Word.lean ====
section
/-! DEFINITION. The plainest types of the model: bytes, sparse tables, byte memories, and the name of a
virtual tile. Their operations stand in `Sys2Proof/Machine/Tbl.lean` and `Sys2Proof/Machine/Ops.lean`. -/

namespace Sys2Proof

/-- A byte of scratchpad, Cavern, host memory or a packet. -/
abbrev Byte := BitVec 8

/-- A sparse table: (key, value) pairs with rising keys and no entry equal to the table's default. -/
abbrev Tbl (α : Type) := List (Nat × α)

/-- A byte memory in the canonical form of a table whose default is the byte 0. -/
abbrev Memory := List Host.Cell

/-- A virtual tile: a compute die CD0-CD7 and a virtual tile index (R12). The index may name no bound tile. -/
structure Site where
  die : Fin 8
  vt  : Fin 256
  deriving DecidableEq, Repr

/-- The number that keys a tile in the machine's tables: die x 256 + virtual tile index. -/
abbrev Site.key (x : Site) : Nat := x.die.val * 256 + x.vt.val

end Sys2Proof
end

