-- ==== Sys2Proof/Syntax.lean ====
section
/-! DEFINITION. The commands of the block: one constructor per row of spec/opcode_table.json, with the operands its
rule gives it. -/

namespace Sys2Proof

/-- The bytes of an 8 B register that an access takes: all, the lower or upper 4 B, or fewer from a byte on. -/
inductive Part where
  | whole | lower | upper
  | bytes (at_ : Fin 8) (two : Bool)
  deriving DecidableEq, Repr

/-- The commands. Tile instructions name their tile and carry the fields of their encoding; every other command is a
happening on a pin, a bus, a link or a timer. -/
inductive Instr where
  -- Control slot (R132-R139)
  | cnop (x : Site)
  | cset (x : Site) (cnt : BitVec 4) (imm : BitVec 20)
  | cjmp (x : Site) (tgt : BitVec 13)
  | cloop (x : Site) (cnt : BitVec 4) (tgt : BitVec 13)
  | cwait (x : Site) (n : BitVec 16)
  /-- the wait of a CWAIT runs out -/
  | cwaitExpiry (x : Site)
  | skipidle (x : Site) (midx : BitVec 10) (tgt : BitVec 13)
  | stepb (x : Site) (tgt : BitVec 13)
  | cend (x : Site)
  -- Memory-move slot (R91-R99, R258)
  | dnop (x : Site)
  | dset (x : Site) (md : BitVec 5) (sel : BitVec 3) (imm : BitVec 32)
  | dreg (x : Site) (region : BitVec 4) (rop : BitVec 2) (base size : BitVec 14)
  | dmov (x : Site) (src dst : BitVec 5) (rowlen : BitVec 11) (rows : BitVec 12) (sinc dinc : BitVec 1)
      (pace : BitVec 6)
  | dmovx (x : Site) (src dst : BitVec 5) (rowlen : BitVec 11) (rows : BitVec 12) (sinc dinc : BitVec 1)
      (pace : BitVec 6) (gcnt : BitVec 5)
  | dtrn (x : Site) (src dst : BitVec 5) (hw : BitVec 1) (blocks : BitVec 12) (sinc dinc : BitVec 1)
  | dgath (x : Site) (dop : BitVec 2) (kind : BitVec 1) (md hd : BitVec 5) (layer : BitVec 6) (ntok : BitVec 9)
      (pace : BitVec 6) (gcnt : BitVec 5) (pin rinc stripe : BitVec 1)
  -- Matrix slot (R158-R166)
  | mnop (x : Site)
  | mload (x : Site) (kind : BitVec 2) (fmt : BitVec 1) (cb : BitVec 2) (cseg : BitVec 4) (ren : BitVec 1)
      (src : BitVec 14) (vlast : BitVec 5) (zb : BitVec 2)
  | mswap (x : Site)
  | mstream (x : Site) (abank acc ren : BitVec 1) (rows : BitVec 20) (src : BitVec 14)
  | mgemv (x : Site) (abank acc : BitVec 1) (nout : BitVec 7) (cb : BitVec 2) (cseg bank0 : BitVec 4)
      (loff : BitVec 10)
  | mdrain (x : Site) (bank : BitVec 1) (dest : BitVec 2) (zc : BitVec 1) (rlast : BitVec 5) (qpt : BitVec 6)
      (csline dline : BitVec 14)
  | mclr (x : Site) (banks : BitVec 2)
  | mcbload (x : Site) (cb : BitVec 2) (seg0 : BitVec 4) (nseg : BitVec 5) (src : BitVec 14)
  -- Vector slot (R232-R236)
  | vnop (x : Site)
  | vcfg (x : Site) (cfg : BitVec 4) (src : BitVec 14)
  | vlut (x : Site) (seg0 : BitVec 4) (nseg : BitVec 5) (src : BitVec 14)
  | vrun (x : Site) (cfg : BitVec 4) (rows : BitVec 11) (mkeep : BitVec 1) (aoff boff doff : BitVec 14)
  -- Network slot (R336-R340)
  | nnop (x : Site)
  | nsend (x : Site) (rd : BitVec 4) (ch : BitVec 3) (ren : BitVec 1) (src : BitVec 14) (nl : BitVec 11)
      (scnt : BitVec 5)
  | nmcast (x : Site) (rd : BitVec 4) (ch : BitVec 3) (ren : BitVec 1) (src : BitVec 14) (nl : BitVec 11)
      (scnt : BitVec 5)
  | nred (x : Site) (rd : BitVec 4) (ch : BitVec 3) (ren : BitVec 1) (src : BitVec 14) (nl : BitVec 11)
      (scnt : BitVec 5)
  | nrecv (x : Site) (ch : BitVec 3) (ren : BitVec 1) (dst : BitVec 14) (nl : BitVec 11) (gcnt : BitVec 5)
  | ngate (x : Site) (cnt : BitVec 5) (val : BitVec 14) (timeout : BitVec 24)
  /-- every gate of a held die is satisfied -/
  | gateOpen (die : Fin 8)
  /-- a gate's count reaches its timeout -/
  | gateTimeout (die : Fin 8)
  /-- a beat bound for a tile lands: transaction, beat (R69) -/
  | arrivalWrite (id b : Nat)
  /-- a beat reaches a Cavern stack, or a tile it reads: transaction, beat (R78) -/
  | remoteAccess (id b : Nat)
  /-- a response or acknowledgement lands at its tile: transaction, beat (R98) -/
  | remoteResponse (id b : Nat)
  /-- a line of an off-die send is read: send-queue entry -/
  | offdieSendRead (x : Site) (entry : Fin 8)
  /-- line `i` of those between dies arrives -/
  | lineArrival (i : Nat)
  /-- acknowledgement `i` of those returning lands -/
  | sendAck (i : Nat)
  /-- contribution `i` of those waiting at the combiner is added -/
  | reductionCombine (i : Nat)
  /-- request `i` of those waiting at a die's page manager is accepted -/
  | pmRequest (die : Fin 8) (i : Nat)
  | pmGuestRelease (die : Fin 8) (i : Nat)
  | patrolRead (die : Fin 8) (stack : Fin 4)
  | sequencerFetch (x : Site)
  -- Fabric (12); `i` names a delivered packet of the inbox, unless it names a waiting packet or request
  /-- the bytes of a link frame, whether FEC decodes it, and whether its words are poisoned -/
  | linkFrame (p : Fin 16) (frame : List Byte) (fec poison : Bool)
  | linkNak (p : Fin 16) (seq : Fin 4096)
  | linkReplayTimer (p : Fin 16)
  /-- lanes with which the port retrains; 0 when it fails -/
  | portRetrain (p : Fin 16) (lanes : Fin 5)
  | packetRoute (i : Nat)
  | fabricInject (i : Nat)
  | nack (i : Nat)
  | response (i : Nat)
  | transactionTimeout (tag : Nat)
  | portTrained (p : Fin 16) (lanes : Fin 5)
  | portSignalLost (p : Fin 16)
  | portTrainRetry (p : Fin 16) (lanes : Fin 5)
  /-- cage of P15 (true) or P14 -/
  | osfpInsert (twin : Bool) (lanes : Fin 5)
  | join (i : Nat)
  | drainPoll
  | drainCountRequest (i : Nat)
  | load (i : Nat)
  | loaded (i : Nat)
  | handshakeDone (i : Nat)
  | handshakeTimeout (mid : Nat)
  | abort (i : Nat)
  -- Bridges: what becomes of the frame (0 accepted, 1 negative acknowledgement, 2 lost), symbols in error per lane
  | bridgeFrame (b : Fin 16) (dir : Fin 2) (res : Fin 3) (syms : List Nat)
  | bridgeReplayTimer (b : Fin 16) (dir : Fin 2) (syms : List Nat)
  | bridgeRetrain (b : Fin 16) (dir : Fin 2) (ok : Bool)
  -- Time (13)
  | tickAdvance
  | timeSend
  | time (i : Nat)
  | delayExchangeTimer (p : Fin 16)
  | delayReq (i : Nat)
  | delayResp (i : Nat)
  | parentTimeout
  | tsync
  -- Serving instructions (R281-R287) and the serving engine
  | slanes (x : Site) (sel : BitVec 1) (midx : BitVec 10) (lane : BitVec 5) (dline : BitVec 14)
  | semit (x : Site) (src : BitVec 14) (nl : BitVec 11) (pace : BitVec 6)
  | sstop (x : Site) (midx : BitVec 10) (lane : BitVec 5) (code : BitVec 8)
  /-- slice `i` of those on their way -/
  | semitSlice (i : Nat)
  | gauntletFeed (midx : BitVec 10) (lane : BitVec 5) (pidx : BitVec 4)
  | promptFetch (slot : Fin 65536)
  | promptFetchRetry (slot : Fin 65536)
  | parkWriteoutDone (slot : Fin 65536)
  | restoreReadinDone (slot : Fin 65536)
  | parkExpiryCheck
  -- Rings (R472-R480)
  | completionEntryWrite (q : Fin 64)
  | eventRecordWrite
  /-- a completion ring, or the event ring (64) -/
  | msixSignalTimer (ring : Fin 65)
  /-- 0 submission ring, 1 completion ring, 2 event ring, 3 prompt fetch, 4 park write-out, 5 park read-in, 6 export
  record; the ring or the slot -/
  | hostMemoryAccessError (kind : Fin 7) (index : Fin 65536)
  -- Echo (R392-R398)
  | localArrival (g : Fin 8)
  | arrive (i : Nat)
  | cut (i : Nat)
  | frequencyChange (g : Fin 8)
  | done (i : Nat)
  | arm (i : Nat)
  | echoRelease (g die : Fin 8)
  | echoSlowTimer (g : Fin 8)
  -- Clocks (14)
  /-- every REF input is within its limits -/
  | refMonitor (ok : Bool)
  /-- crossings found out of alignment, and by how much they moved -/
  | crossingDetect (die : Fin 8) (xing : BitVec 16) (move : Nat)
  /-- slack of each monitor of a region -/
  | marginSample (region : Fin 24) (slacks : List (BitVec 8))
  | pllLockTimeout (die : Fin 8)
  | freqApplyIdle
  -- Power (15)
  /-- inputs in 0.1 W and 0.01 V -/
  | powerMeasure (pA pB vA vB : BitVec 16)
  | capWindow
  /-- source, sensor, reading in 0.1 °C -/
  | thermalSample (readings : List (Nat × Nat × BitVec 16))
  | thermalEase
  /-- 1 s averages: 0.1 °C, 0.1 °C, 0.01 L/min -/
  | coolantCheck (inlet outlet flow : BitVec 16)
  /-- 1 + n for the regulator die under CDn, 9 stage A, 10 stage B, 11 ALERT# -/
  | regAlert (src : Fin 12)
  | alertEase
  | marginEase
  | lockClear
  | throttleAnnounce (g : Fin 8)
  | throttle (i : Nat)
  | jobfreq (i : Nat)
  | storageGateDelay
  -- Twin failover (16)
  | pair (i : Nat)
  | pairExchangeTimeout
  | entry (i : Nat)
  | frame (i : Nat)
  | pointEnd (i : Nat)
  | pointInstall (g : Fin 8)
  | notice (i : Nat)
  | forward (i : Nat)
  | forwardReplyTimeout (n : Nat)
  | heartbeatSend
  | heartbeat (i : Nat)
  | heartbeatMissed
  | depart (i : Nat)
  | fence (i : Nat)
  | guestRelease (i : Nat)
  /-- `io`: the host read succeeds -/
  | imageReq (i : Nat) (io : Bool)
  | imageChunk (i : Nat)
  | imageEnd (i : Nat)
  | twinImageTimeout
  -- Host commands (17): the ring whose head packet the command engine takes; `io`: its host accesses succeed
  | identify (q : Fin 64)
  | getConfig (q : Fin 64) (io : Bool)
  | loadImage (q : Fin 64) (io : Bool)
  | unloadImage (q : Fin 64)
  | mapGrid (q : Fin 64)
  | run (q : Fin 64)
  | stop (q : Fin 64)
  | armEcho (q : Fin 64)
  | submit (q : Fin 64)
  | cancel (q : Fin 64)
  | park (q : Fin 64)
  | restore (q : Fin 64)
  | queryRequest (q : Fin 64) (io : Bool)
  | setPower (q : Fin 64)
  | setJobFreq (q : Fin 64)
  | pagePoolCfg (q : Fin 64)
  | prefixPin (q : Fin 64)
  | fabricPlan (q : Fin 64) (io : Bool)
  | fabricStatus (q : Fin 64) (io : Bool)
  | epochSwitch (q : Fin 64)
  | twinCfg (q : Fin 64)
  | adopt (q : Fin 64)
  | readMem (q : Fin 64) (io : Bool)
  | writeMem (q : Fin 64) (io : Bool)
  | getStats (q : Fin 64) (io : Bool)
  | clearStats (q : Fin 64)
  | retire (q : Fin 64)
  | unretire (q : Fin 64)
  | fwUpdate (q : Fin 64) (io : Bool)
  -- Supply inputs, resets and start-up (15, 18, 21); starts carry SLOT_ID and BOARD_ID as the straps stand
  /-- input A, or B -/
  | inputPresent (b : Bool) (slot board : Fin 8)
  | inputLost (b : Bool)
  | pwrOkAssert (slot board : Fin 8)
  | pwrOkDeassert
  | perstAssert
  | perstDeassert (slot board : Fin 8)
  | resetAssert
  | resetDeassert (slot board : Fin 8)
  | functionLevelReset
  | hotReset
  | fwBootTimeout
  | staggerEnd
  /-- RESIDs of the resources that fail, and the dies whose PLL, regulator or spine fails -/
  | selfTestDone (fails : List Nat) (dies : BitVec 8)
  | trainingBound
  /-- `io`: the read of a held plan succeeds -/
  | identBound (io : Bool)
  | neighbourId (i : Nat) (io : Bool)
  | noIdTimer (p : Fin 16) (io : Bool)
  | tickAlignmentTimeout
  | standbyPowerUp (slot : Fin 8)
  -- SMBus (21): a byte written, with its packet error check right if it has one, or a read
  | identity (w : Option (BitVec 8)) (pec : Bool)
  | debugEn (w : Option (BitVec 8)) (pec : Bool)
  | smbStatus
  | smbTemp
  | smbPower
  | smbCoolant
  | lastoff
  | serial
  -- Debug port (19): a TAP instruction with the value scanned into its data register
  | tapReset
  | extest (v : Nat)
  | idcode
  | samplePreload (v : Nat)
  | bypass
  | jreg (v : BitVec 50)
  | jaddr (v : BitVec 64)
  | jdata (v : BitVec 72)
  | debugAccess
  /-- a write of DBG_CTL with its command -/
  | halt (scope : Fin 4) (die : Fin 8) (vtile : Fin 256)
  | resume (scope : Fin 4) (die : Fin 8) (vtile : Fin 256)
  | step (scope : Fin 4) (die : Fin 8) (vtile : Fin 256)
  | stepComplete (die : Fin 8)
  -- BAR0 (20): a write carries its data with each byte at its place in the register; an access without data is a read
  | ceMode (p : Part) (data : BitVec 64)
  | ceSqCfg (n : Fin 64) (p : Part) (data : BitVec 64)
  | ceCqCfg (n : Fin 64) (p : Part) (data : BitVec 64)
  | ceEvCfg (p : Part) (data : BitVec 64)
  | ceSqTail (n : Fin 64) (p : Part) (data : BitVec 64)
  | ceCqHead (n : Fin 64) (p : Part) (data : BitVec 64)
  | ceEvHead (p : Part) (data : BitVec 64)
  | hcTblData (p : Part) (data : Option (BitVec 64))
  | hcTblCommit (p : Part) (data : BitVec 64)
  | hcGtData (p : Part) (data : Option (BitVec 64))
  | hcGtCommit (p : Part) (data : BitVec 64)
  | fbStageData (p : Part) (data : Option (BitVec 64))
  | tmTickLo
  /-- a read of the 8 B word `word` of BAR0 -/
  | registerHalfRead (word : Fin 131072) (p : Part)
  | ckMarginMin (m : Fin 3) (p : Part)
  | ckRegionMode (p : Part) (data : BitVec 64)
  | pwCeil (p : Part) (data : BitVec 64)
  | pwCap (p : Part) (data : BitVec 64)
  | pwTherm (p : Part) (data : BitVec 64)
  | pwDieOff (p : Part) (data : BitVec 64)
  | erLogSel (p : Part) (data : BitVec 64)
  | erLogData (w : Fin 4) (p : Part)
  /-- a write of the 8 B word `word` of BAR0 -/
  | registerWrite (word : Fin 131072) (p : Part) (data : BitVec 64)
  deriving DecidableEq, Repr

end Sys2Proof
end

