-- ==== Sys2Proof/Config.lean ====
section
/-! DEFINITION. The free values: constants without a body, applied to the counter of the state or to what they depend
on (log 2). Nothing can evaluate them, so what is proved holds whatever they are. -/

namespace Sys2Proof.Config

/-- The answer of a peer module that is asked for a guest frame: bit 31 grants it, [27:25] DIE, [24:18] GEN,
[17:0] FRAME (R248, R254; log 9). -/
opaque peerGrant : Nat → BitVec 32

/-- What the time loop does with f (a step of at most 0.01 ppm) and with s (its size) on a message (R382; log 12). -/
opaque loopF : Nat → BitVec 8
opaque loopS : Nat → BitVec 8

/-- By how much the f that the step of R387 sets misses the measured slope, within 0.02 ppm (R518; log 12). -/
opaque slopeErr : Nat → BitVec 8

/-- A byte of a frame that the park image of a request without frames takes: by the reading, and by its place (log 15). -/
opaque noByte : Nat → Nat → BitVec 8

/-- Whether the next prefill grant of a shadow's continuation begins with LAST, which its 128 B do not tell (log 16). -/
opaque ownFirst : Nat → Bool

/-- What qnt8 returns for x, s and z where x / s is a NaN or a division by zero: the INT8 pattern, and in bit 8 whether it
counts as clipped (R180; log 123). -/
opaque qntOpen : BitVec 32 → BitVec 32 → BitVec 8 → BitVec 9

/-- WPROP, WACC and WGR in the places of E15 after a grant that WGR, already 255, cannot count (log 17). -/
opaque windowOver : Nat → BitVec 32

/-- POS of a PARKED or RESTORED record (log 18). -/
opaque recordPos : Nat → BitVec 24

/-- What a usage map names, whose layout the manual does not give (log 20): the banks of a virtual tile of a die, its code
region (first 4 KiB page in [7:0], pages in [15:8]), the sub-arrays of a die (bit 128 s + 64 l + u). -/
opaque mapBanks : List Byte → Nat → Nat → BitVec 16
opaque mapCode : List Byte → Nat → Nat → BitVec 16
opaque mapSubs : List Byte → Nat → BitVec 512

/-- What manufacture fuses for a firmware key slot: the SHA-384 of its public key, and whether it is revoked (R500;
log 25). -/
opaque fusedHash : Nat → BitVec 384
opaque keyRevoked : Nat → Bool

/-- A byte of the host buffer of a READ_MEM that met an uncorrectable word: by the reading, and by its place (R498;
log 26). -/
opaque faultByte : Nat → Nat → BitVec 8

/-- VTILE and BUNDLE of DBG_CAUSE for a halt that names no tile (log 27). -/
opaque haltPlace : Nat → BitVec 21

/-- What Capture-DR takes from the pins into the boundary-scan register, whose layout the BSDL file gives (log 28). -/
opaque pinCapture : Nat → Nat

/-- The data of a debug read that met an uncorrectable word (Table 19-2; log 26). -/
opaque ueData : Nat → BitVec 64

/-- Whether a fallback has not finished, for a cause within 1 µs of it (R417, R418; log 67). -/
opaque fbUnfinished : Nat → Bool

/-- Whether the tiles of a group on the other modules have all ended when this module's have (R139, log 54). -/
opaque othersEnded : Nat → Bool

end Sys2Proof.Config
end

