-- ==== Sys2Proof/Machine/Tbl.lean ====
section
/-! DEFINITION. Operations on sparse tables, byte lists and bit fields. -/

namespace Sys2Proof.Machine

/-- The value a table holds at a key, `d` where it lists none. -/
def tget {α : Type} (d : α) : Tbl α → Nat → α
  | [], _ => d
  | (j, v) :: t, k => if j = k then v else tget d t k

/-- Insert or replace one entry, keeping the keys rising. -/
def tins {α : Type} (k : Nat) (v : α) : Tbl α → Tbl α
  | [] => [(k, v)]
  | (j, w) :: t =>
    if k < j then (k, v) :: (j, w) :: t else if j = k then (k, v) :: t else (j, w) :: tins k v t

/-- Drop a key's entry. -/
def tdel {α : Type} (k : Nat) (t : Tbl α) : Tbl α := t.filter (fun e => e.1 != k)

/-- Write a key; writing the default drops the entry. -/
def tset {α : Type} [DecidableEq α] (d : α) (t : Tbl α) (k : Nat) (v : α) : Tbl α :=
  if v = d then tdel k t else tins k v t

/-- Change the value at one key. -/
def tmod {α : Type} [DecidableEq α] (d : α) (t : Tbl α) (k : Nat) (f : α → α) : Tbl α :=
  tset d t k (f (tget d t k))

/-- Keys rise strictly and lie above `lo`, and no entry equals the default. -/
def twfFrom {α : Type} [DecidableEq α] (d : α) : Nat → Tbl α → Bool
  | _, [] => true
  | lo, (k, v) :: t => decide (lo ≤ k) && decide (v ≠ d) && twfFrom d (k + 1) t

/-- The canonical form of a table. -/
def twf {α : Type} [DecidableEq α] (d : α) (t : Tbl α) : Bool := twfFrom d 0 t

/-- One byte of a memory; an unlisted byte reads as 0 (DESIGN CHOICE, log 3). -/
def mget (m : Memory) (a : Nat) : Byte := tget 0 m a

/-- Write one byte of a memory. -/
def mset (m : Memory) (a : Nat) (b : Byte) : Memory := tset 0 m a b

/-- The canonical form of a memory. -/
def Memory.wf (m : Memory) : Bool := twf (0 : Byte) m

/-- Write consecutive bytes from an address up. -/
def mputs (m : Memory) (a : Nat) : List Byte → Memory
  | [] => m
  | b :: bs => mputs (mset m a b) (a + 1) bs

/-- The bytes from an address up. -/
def mgets (m : Memory) (a : Nat) : Nat → List Byte
  | 0 => []
  | n + 1 => mget m a :: mgets m (a + 1) n

/-- Drop every byte of a range, so that it reads as an unlisted byte does. -/
def mclear (m : Memory) (lo len : Nat) : Memory := m.filter (fun c => decide (c.1 < lo) || decide (lo + len ≤ c.1))

/-- A little-endian byte list as a number (R5). -/
def leNat : List Byte → Nat
  | [] => 0
  | b :: bs => b.toNat + 256 * leNat bs

/-- The low `n` bytes of a number, little-endian (R5). -/
def leBytes : Nat → Nat → List Byte
  | 0, _ => []
  | n + 1, v => BitVec.ofNat 8 v :: leBytes n (v / 256)

/-- `len` bytes of a list from `off`, as a little-endian number; bytes past the end read as 0. -/
def fieldAt (bs : List Byte) (off len : Nat) : Nat := leNat ((bs.drop off).take len)

/-- Pad with zeros or cut to `n` bytes. -/
def padTo (n : Nat) (bs : List Byte) : List Byte := (bs ++ List.replicate n 0).take n

/-- Bits [hi:lo] of a number (R5, R23). -/
def bits (v hi lo : Nat) : Nat := v / 2 ^ lo % 2 ^ (hi + 1 - lo)

/-- One bit of a number. -/
def bit (v i : Nat) : Bool := v / 2 ^ i % 2 == 1

/-- A `w`-bit field read as a two's-complement integer. -/
def signedOf (w v : Nat) : Int := if v % 2 ^ w < 2 ^ (w - 1) then (v % 2 ^ w : Nat) else (v % 2 ^ w : Nat) - (2 ^ w : Nat)

/-- An integer as a `w`-bit two's-complement pattern. -/
def unsignedOf (w : Nat) (i : Int) : Nat := (i % (2 ^ w : Nat)).toNat

/-- A number with bits [lo+w-1:lo] replaced by `x`. -/
def setBits (v lo w x : Nat) : Nat := v - v / 2 ^ lo % 2 ^ w * 2 ^ lo + x % 2 ^ w * 2 ^ lo

/-- 1 for true. -/
def b2n (b : Bool) : Nat := if b then 1 else 0

/-- The members of `0 … n-1` that satisfy a test. -/
def numsWhere (n : Nat) (p : Nat → Bool) : List Nat := (List.range n).filter p

/-- The number of set bits among the low `n`. -/
def popCount (v n : Nat) : Nat := ((List.range n).filter (bit v)).length

/-- The mask that sets exactly the listed bits. -/
def maskOf (l : List Nat) : Nat := l.foldl (fun m i => if bit m i then m else m + 2 ^ i) 0

/-- Replace the element at an index of a list. -/
def setNth {α : Type} (l : List α) (i : Nat) (f : α → α) : List α :=
  l.mapIdx (fun j a => if j = i then f a else a)

/-- Drop the element at an index of a list. -/
def dropNth {α : Type} (l : List α) (i : Nat) : List α := l.take i ++ l.drop (i + 1)

/-- Lists as finite sets of numbers. -/
def addOnce (l : List Nat) (a : Nat) : List Nat := if l.contains a then l else l ++ [a]

/-- Insert into a sorted list, after the elements that it does not precede. -/
def insertBy {α : Type} (lt : α → α → Bool) (a : α) : List α → List α
  | [] => [a]
  | b :: l => if lt a b then a :: b :: l else b :: insertBy lt a l

/-- A stable sort. -/
def sortBy {α : Type} (lt : α → α → Bool) (l : List α) : List α := l.foldl (fun acc a => insertBy lt a acc) []

end Sys2Proof.Machine
end

