-- ==== Sys2Proof/Machine/Fp.lean ====
section
/-! DEFINITION. FP32 and BF16 arithmetic and the numeric helpers of Numerics and Quantisation (R168-R182, R194-R197),
and the functions of the FN stage (R214-R216). Every FP32 value is its 32-bit pattern. -/

namespace Sys2Proof.Machine

/-- An FP32 bit pattern. -/
abbrev F32 := BitVec 32

namespace Fp

/-- The canonical NaN (R170). -/
def nan : F32 := 0x7FC00000
def posInf : F32 := 0x7F800000
/-- −∞, the empty-attention sentinel (R32). -/
def negInf : F32 := 0xFF800000
def one : F32 := 0x3F800000
def zero : F32 := 0
def negZero : F32 := 0x80000000
/-- Largest finite magnitude. -/
def maxFinite : F32 := 0x7F7FFFFF
/-- 2^−126, the smallest normal. -/
def minNormal : F32 := 0x00800000

def sign (x : F32) : Bool := x.toNat / 2 ^ 31 == 1
def expo (x : F32) : Nat := x.toNat / 2 ^ 23 % 256
def frac (x : F32) : Nat := x.toNat % 2 ^ 23
def isNan (x : F32) : Bool := expo x == 255 && frac x != 0
def isInf (x : F32) : Bool := expo x == 255 && frac x == 0
/-- Zero, or a subnormal, which reads as zero (R169). -/
def isZero (x : F32) : Bool := expo x == 0
def isFinite (x : F32) : Bool := expo x != 255
def neg (x : F32) : F32 := x ^^^ 0x80000000
def abs (x : F32) : F32 := x &&& 0x7FFFFFFF
def withSign (s : Bool) (x : F32) : F32 := if s then abs x ||| 0x80000000 else abs x

/-- A finite value times 2^149, an integer (subnormals read as 0). -/
def scaled (x : F32) : Int :=
  let m : Nat := if expo x = 0 then 0 else (2 ^ 23 + frac x) * 2 ^ (expo x - 1)
  if sign x then -(m : Int) else m

/-- ⌊log2 (n / d)⌋ for positive n and d, with an offset of 1000 so that it is a natural number. -/
def log2Ratio (n d : Nat) : Nat :=
  let l := n.log2 + 1000 - d.log2
  if n * 2 ^ 1000 ≥ d * 2 ^ l then l else l - 1

/-- Round the positive rational n / d to FP32 under R169: 24 bits, ties to even, below 2^−126 to zero, past the
largest finite value to infinity. -/
def roundRatio (s : Bool) (n d : Nat) : F32 :=
  if n = 0 then withSign s zero else
  let e := log2Ratio n d
  -- significand q of 24 bits: n / d = q * 2^(e - 1023)
  let num := n * 2 ^ 1023
  let den := d * 2 ^ e
  let q := num / den
  let r := num % den
  let q := if 2 * r > den ∨ (2 * r = den ∧ q % 2 = 1) then q + 1 else q
  let (q, e) := if q = 2 ^ 24 then (2 ^ 23, e + 1) else (q, e)
  if e < 874 then withSign s zero
  else if e > 1127 then withSign s posInf
  else withSign s (BitVec.ofNat 32 ((e - 873) * 2 ^ 23 + (q - 2 ^ 23)))

/-- Round the integer `i` divided by 2^k. -/
def roundScaled (i : Int) (k : Nat) : F32 := roundRatio (decide (i < 0)) i.natAbs (2 ^ k)

/-- x + y (R169, R170). -/
def add (x y : F32) : F32 :=
  if isNan x || isNan y then nan
  else if isInf x then if isInf y && sign x != sign y then nan else withSign (sign x) posInf
  else if isInf y then withSign (sign y) posInf
  else
    let i := scaled x + scaled y
    if i = 0 then if isZero x && isZero y && sign x && sign y then negZero else zero
    else roundScaled i 149

/-- x − y. -/
def sub (x y : F32) : F32 := if isNan y then nan else add x (neg y)

/-- x × y. -/
def mul (x y : F32) : F32 :=
  let s := sign x != sign y
  if isNan x || isNan y then nan
  else if isInf x || isInf y then if isZero x || isZero y then nan else withSign s posInf
  else roundRatio s ((scaled x).natAbs * (scaled y).natAbs) (2 ^ 298)

/-- x / y. -/
def div (x y : F32) : F32 :=
  let s := sign x != sign y
  if isNan x || isNan y then nan
  else if isInf x then if isInf y then nan else withSign s posInf
  else if isInf y then withSign s zero
  else if isZero y then if isZero x then nan else withSign s posInf
  else if isZero x then withSign s zero
  else roundRatio s (scaled x).natAbs (scaled y).natAbs

/-- An infinity replaced by the largest finite value of its sign (R179, R180). -/
def clampInf (x : F32) : F32 := if isInf x then withSign (sign x) maxFinite else x

/-- The order of values with −0 below +0; subnormals read as zero. -/
def orderKey (x : F32) : Int :=
  let m : Nat := if isZero x then 0 else (abs x).toNat
  if sign x then -(m : Int) - 1 else m

/-- A subnormal read as zero of its sign. -/
def flush (x : F32) : F32 := if isZero x then withSign (sign x) zero else x

/-- fmax (R171). -/
def fmax (x y : F32) : F32 :=
  if isNan x then (if isNan y then nan else flush y)
  else if isNan y then flush x
  else if orderKey x < orderKey y then flush y else flush x

/-- fmin (R171). -/
def fmin (x y : F32) : F32 :=
  if isNan x then (if isNan y then nan else flush y)
  else if isNan y then flush x
  else if orderKey y < orderKey x then flush y else flush x

/-- x < y for non-NaN values, −0 and +0 equal. -/
def lt (x y : F32) : Bool :=
  !isNan x && !isNan y &&
    (if isInf x || isInf y then decide (orderKey x < orderKey y) else decide (scaled x < scaled y))

/-- rne of the rational i / 2^k (R174). -/
def rneScaled (i : Int) (k : Nat) : Int :=
  let n := i / (2 ^ k : Nat)
  let r := i % (2 ^ k : Nat)
  if 2 * r > (2 ^ k : Nat) then n + 1 else if 2 * r < (2 ^ k : Nat) then n
  else if n % 2 = 0 then n else n + 1

/-- rne of a finite value (R174). -/
def rne (x : F32) : Int := rneScaled (scaled x) 149

/-- floor of a finite value. -/
def floor (x : F32) : Int := scaled x / (2 ^ 149 : Nat)

/-- cvt_f32 (R175). -/
def ofInt (i : Int) : F32 := if i = 0 then zero else roundScaled i 0

/-- f32_to_bf16 (R172). -/
def toBf16 (u : F32) : BitVec 16 :=
  if isNan u then 0x7FC0
  else if expo u = 0 then (if sign u then 0x8000 else 0)
  else BitVec.ofNat 16 ((u.toNat + 0x7FFF + u.toNat / 2 ^ 16 % 2) / 2 ^ 16)

/-- bf16_to_f32 (R172). -/
def ofBf16 (b : BitVec 16) : F32 :=
  let e := b.toNat / 2 ^ 7 % 256
  if e = 255 ∧ b.toNat % 128 ≠ 0 then nan
  else if e = 0 then (if b.toNat / 2 ^ 15 = 1 then negZero else zero)
  else BitVec.ofNat 32 (b.toNat * 2 ^ 16)

/-! #### Functions of the FN stage. Each transcendental result is computed to several hundred bits, far past the
closest approach of any FP32 argument's result to a rounding boundary, and rounded once. DEDUCED (log 8). -/

/-- ⌊√n⌋, bit by bit. -/
def isqrt (n : Nat) : Nat :=
  (List.range 600).foldl (fun r i => let r' := r + 2 ^ (599 - i); if r' * r' ≤ n then r' else r) 0

/-- Fraction bits of the fixed-point work. -/
def fx : Nat := 512

/-- e^y in fixed point for y = i / 2^fx, |y| < 1: a Taylor series. -/
def expSeries (i : Int) : Int :=
  ((List.range 90).foldl (fun (p : Int × Int) n =>
    let t := p.1 * i / (2 ^ fx : Nat) / ((n + 1 : Nat) : Int)
    (t, p.2 + t)) ((2 ^ fx : Nat), (2 ^ fx : Nat))).2

/-- e^x of a finite value between −128 and 128, in fixed point: the argument is divided by 256 and the result
squared eight times. -/
def expFx (x : F32) : Int :=
  let i := scaled x * (2 ^ (fx - 149 - 8) : Nat)
  (List.range 8).foldl (fun v _ => v * v / (2 ^ fx : Nat)) (expSeries i)

/-- EXP of Table 7-4. -/
def exp (x : F32) : F32 :=
  if isNan x then nan
  else if isZero x then one
  else if isInf x then (if sign x then zero else posInf)
  else if lt (0x42C80000 : F32) x then posInf            -- x > 100
  else if lt x (0xC2C80000 : F32) then zero              -- x < −100
  else roundRatio false (2 * (expFx x).toNat + 1) (2 ^ (fx + 1))

/-- 2·atanh(n / d) in fixed point, for 0 ≤ n / d ≤ 1/3. -/
def atanh2 (n d : Nat) : Nat :=
  let z := n * 2 ^ fx / d
  let z2 := z * z / 2 ^ fx
  ((List.range 180).foldl (fun (p : Nat × Nat) k =>
    (p.1 * z2 / 2 ^ fx, p.2 + 2 * p.1 / (2 * k + 1))) (z, 0)).2

/-- LN of Table 7-4. -/
def ln (x : F32) : F32 :=
  if isNan x then nan
  else if isZero x then negInf
  else if sign x then nan
  else if isInf x then posInf
  else if x = one then zero
  else
    let m := 2 ^ 23 + frac x
    let lnM : Int := atanh2 (m - 2 ^ 23) (m + 2 ^ 23)
    let v : Int := lnM + ((expo x : Int) - 127) * atanh2 1 3
    roundRatio (decide (v < 0)) (2 * v.natAbs + 1) (2 ^ (fx + 1))

/-- RECIP of Table 7-4. -/
def recip (x : F32) : F32 := div one x

/-- RSQRT of Table 7-4. -/
def rsqrt (x : F32) : F32 :=
  if isNan x then nan
  else if isZero x then withSign (sign x) posInf
  else if sign x then nan
  else if isInf x then zero
  else
    let n := (scaled x).natAbs
    let q := 2 ^ (149 + 800) / n
    let r := isqrt q
    roundRatio false (if r * r * n = 2 ^ (149 + 800) then 2 * r else 2 * r + 1) (2 ^ 401)

/-- SILU (R215). -/
def silu (x : F32) : F32 :=
  if isNan x then nan
  else if x = negInf then negZero else mul (flush x) (recip (add one (exp (neg x))))

/-- π in fixed point, by Machin's formula. -/
def piFx : Nat :=
  let atanInv (d : Nat) : Int := ((List.range 230).foldl (fun (p : Nat × Int) k =>
    (p.1 / (d * d), p.2 + (if k % 2 = 0 then (1 : Int) else -1) * ((p.1 / (2 * k + 1) : Nat) : Int)))
      (2 ^ fx / d, 0)).2
  (16 * atanInv 5 - 4 * atanInv 239).toNat

/-- Σ over n of (−1)^n t^(2n+1) / (2^n n! (2n+1)) in fixed point, for t = k / 32. -/
def erfSeries (k : Nat) : Int :=
  ((List.range 360).foldl (fun (p : Int × Int) n =>
    (-(p.1 * ((k * k : Nat) : Int)) / 2048 / ((n + 1 : Nat) : Int), p.2 + p.1 / ((2 * n + 1 : Nat) : Int)))
      (((k * 2 ^ fx / 32 : Nat) : Int), 0)).2

/-- g[k] = Φ(−8 + k/32) correctly rounded (R215). -/
def geluTable (k : Nat) : F32 :=
  let a := if k < 256 then 256 - k else k - 256
  -- (Φ(a/32) − 1/2) = series / √(2π)
  let root := isqrt (2 * piFx * 2 ^ fx)
  let h := (erfSeries a).toNat * 2 ^ fx / root
  let v := if k < 256 then 2 ^ (fx - 1) - h else 2 ^ (fx - 1) + h
  if k = 256 then 0x3F000000 else roundRatio false (2 * v + 1) (2 ^ (fx + 1))

/-- GELU (R215). -/
def gelu (x : F32) : F32 :=
  if isNan x then nan
  else if !lt x (0x41000000 : F32) then x
  else if !lt (0xC1000000 : F32) x then negZero
  else
    let u := mul (add x (0x41000000 : F32)) (0x42000000 : F32)
    let i := min (floor u).toNat 511
    let f := sub u (ofInt i)
    let phi := add (geluTable i) (mul f (sub (geluTable (i + 1)) (geluTable i)))
    mul (flush x) phi

/-- A table entry as LUT and LUTI read it (R216). -/
def lutEntry (t : Tbl (BitVec 32)) (i : Nat) : F32 :=
  let v := tget 0 t i
  if isNan v then nan else flush v

/-- LUT and LUTI (R216). -/
def lut (t : Tbl (BitVec 32)) (ls lb : F32) (interp : Bool) (x : F32) : F32 :=
  let u := add (mul x ls) lb
  if isNan u then nan
  else if interp then
    let uc := fmin (fmax u zero) (ofInt 255)
    let i := min (floor uc).toNat 254
    let f := sub uc (ofInt i)
    add (lutEntry t i) (mul f (sub (lutEntry t (i + 1)) (lutEntry t i)))
  else
    let i : Nat := if lt u zero then 0 else if lt (ofInt 255) u then 255 else min (rne u).toNat 255
    lutEntry t i

/-- The FN stage (Table 7-4). NONE passes the element on unchanged (R198); codes 9-15 are refused before they reach it
(R228). -/
def fn (t : Tbl (BitVec 32)) (ls lb : F32) (code : Nat) (x : F32) : F32 :=
  match code with
  | 1 => exp x
  | 2 => ln x
  | 3 => rsqrt x
  | 4 => recip x
  | 5 => silu x
  | 6 => gelu x
  | 7 => lut t ls lb false x
  | 8 => lut t ls lb true x
  | _ => x

end Fp

/-! #### Integer helpers (R173) -/

/-- sat8: the clamped integer and whether it clamped. -/
def sat8 (i : Int) : Int × Bool := if i < -128 then (-128, true) else if i > 127 then (127, true) else (i, false)

/-- sat32. -/
def sat32 (i : Int) : Int × Bool :=
  if i < -(2 ^ 31 : Nat) then (-(2 ^ 31 : Nat), true)
  else if i > (2 ^ 31 : Nat) - 1 then ((2 ^ 31 : Nat) - 1, true) else (i, false)

/-- add40 (R141). -/
def add40 (s a : Int) : Int := (a + s + (2 ^ 39 : Nat)) % (2 ^ 40 : Nat) - (2 ^ 39 : Nat)

/-- A byte read as INT8. -/
def sext8 (b : Byte) : Int := b.toInt

/-! #### Quantisation helpers (R179-R182) -/

/-- quant_params (R179). -/
def quantParams (lo hi : F32) (h : Nat) : F32 × Int :=
  let m := Fp.add Fp.one (Fp.div (Fp.ofInt h) (Fp.ofInt 16))
  let lo2 := Fp.clampInf (Fp.mul (Fp.fmin lo Fp.zero) m)
  let hi2 := Fp.clampInf (Fp.mul (Fp.fmax hi Fp.zero) m)
  let r := Fp.clampInf (Fp.sub hi2 lo2)
  if Fp.isZero r then (Fp.one, 0) else
    let s := Fp.div r (Fp.ofInt 255)
    let s := if Fp.isZero s then Fp.minNormal else s
    (s, (sat8 (-128 - Fp.rne (Fp.clampInf (Fp.div lo2 s)))).1)

/-- qnt8 (R180). Where x / s is a NaN or a division by zero, which the rule leaves open, the result is a free value
(DESIGN CHOICE, log 123). -/
def qnt8 (x s : F32) (z : Int) : Int × Bool :=
  if Fp.isNan x then (z, true)
  else if x = Fp.posInf then (127, true)
  else if x = Fp.negInf then (-128, true)
  else
    let t := Fp.div x s
    if Fp.isNan t || Fp.isZero s then
      let v := Config.qntOpen x s (BitVec.ofInt 8 z)
      ((v.extractLsb' 0 8).toInt, v.getLsbD 8)
    else sat8 (Fp.rne (Fp.clampInf t) + z)

/-- deq_acc and deq8 (R181). -/
def deqAcc (a : Int) (sa sw : F32) : F32 := Fp.mul (Fp.mul (Fp.ofInt a) sa) sw
def deq8 (q z : Int) (s : F32) : F32 := Fp.mul (Fp.ofInt (q - z)) s

/-! #### Parking in class B (R188) -/

/-- The shift of Table 6-7. -/
def requantShift (a : Nat) : Nat :=
  if a ≤ 7 then 0 else if a ≤ 14 then 1 else if a ≤ 28 then 2 else if a ≤ 56 then 3 else if a ≤ 112 then 4 else 5

/-- requant4 (R188). -/
def requant4 (q : List Int) (s : F32) : List Int × F32 :=
  let a := q.foldl (fun m v => max m v.natAbs) 0
  let sh := requantShift a
  (q.map (fun v => Fp.rneScaled v sh), Fp.clampInf (Fp.mul s (Fp.ofInt (2 ^ sh : Nat))))

end Sys2Proof.Machine
end

