-- ==== Sys2Proof/Machine/State.lean ====
section
/-! DEFINITION. The state of the block: every register, buffer, counter, mode and pin the spec gives the module, the
queue of waiting commands, and the counter that numbers the free values. `State.reset` is the state after reset. -/

namespace Sys2Proof.Machine

/-- There is no fault: every happening the spec describes, a tile's fault included, is an effect on the state. -/
inductive Fault where
  /-- Raised by nothing in this model; a run that stopped so would be safe. -/
  | none_
  deriving DecidableEq, Repr

/-- Reasons for which a command has no meaning. -/
inductive Refusal where
  /-- Raised by an arm of `exec` whose command has no meaning yet; safe, since the run stops. -/
  | notModelled (mnemonic : String)
  deriving DecidableEq, Repr

/-! ### One tile: Table 2-1 -/

/-- What the sequencer of a tile is doing (TSTATE of Table 19-4, R136, R138, R139). -/
inductive Seq where
  /-- TSTATE 5: loaded and awaiting the first release. -/
  | awaiting
  /-- Released; the first bundle issues when the die's cyc count reaches `at_`. -/
  | starting (at_ : Nat)
  /-- TSTATE 0: issues one bundle per cyc. -/
  | issuing
  /-- TSTATE 3: a CWAIT with this many cyc left. -/
  | waiting (left : Nat)
  /-- TSTATE 1: STEPB issued; `tgt` issues after the release. -/
  | inStepb (tgt : Nat)
  /-- TSTATE 2: CEND issued. -/
  | ended
  /-- TSTATE 4: faulted. -/
  | faulted
  /-- TSTATE 6: stopped by STOP. -/
  | stopped
  deriving DecidableEq, Repr

/-- What the bundle of the present cyc makes the sequencer do at its end (R103, R107, R136, R138, R139). -/
inductive Pend where
  | none
  /-- A taken control transfer: the delay slot issues next, then the target. -/
  | branch (tgt : Nat)
  | wait (n : Nat)
  | stepb (tgt : Nat)
  | cend
  deriving DecidableEq, Repr

/-- A circular region descriptor (Table 3-1). -/
structure Region where
  en   : Bool := false
  base : Nat := 0
  size : Nat := 0
  head : Nat := 0
  tail : Nat := 0
  fill : Nat := 0
  deriving DecidableEq, Repr

/-- A move descriptor MD0-MD31 (R92). -/
structure MoveDesc where
  addr   : BitVec 48 := 0
  stride : BitVec 24 := 0
  rctl   : BitVec 6 := 0
  deriving DecidableEq, Repr

/-- A receive channel CH0-CH7 (Table 11-3), with the delivery it is taking (R331). -/
structure Chan where
  en     : Bool := false
  ren    : Bool := false
  region : Nat := 0
  base   : Nat := 0
  left   : Nat := 0
  nl     : Nat := 0
  gcnt   : Nat := 0
  dlv    : Option Nat := none
  deriving DecidableEq, Repr

/-- One line of a delivery on its way to a tile's channel (R330). -/
structure NxLine where
  dst    : Site
  ch     : Nat
  k      : Nat
  nl     : Nat
  data   : List Byte
  poison : Bool
  /-- the delivery the line belongs to -/
  dlv    : Nat
  /-- the off-die send that awaits its acknowledgement, and its issuing tile -/
  send   : Option (Nat × Nat)
  /-- a fabric request to acknowledge instead: source module, tag, generation -/
  req    : Option (Nat × Nat × Nat)
  /-- the die it comes from over the bridges: 0-7 a compute die, 8-11 an I/O die (R323) -/
  node   : Nat
  deriving DecidableEq, Repr

/-- Where the copies of an off-die send go (R337, R338). -/
inductive SendTo where
  /-- a tile of another die of this module -/
  | tile (x : Site)
  /-- a packet to another module: destination identifier, header tile fields, path, virtual channel -/
  | fabric (dst slotted : Nat) (die tile path vch : Nat)
  /-- an Oliene multicast of group `mgrp` to a rectangle -/
  | mcast (mgrp diemask rect vch : Nat)
  /-- a contribution to a reduction group -/
  | reduce (mgrp npart vch : Nat)
  deriving DecidableEq, Repr

/-- A send-queue entry (R329, R333). -/
structure Send where
  id     : Nat
  ch     : Nat
  src    : Nat
  nl     : Nat
  scnt   : Nat
  dests  : List SendTo
  /-- lines already read from scratchpad -/
  nread  : Nat
  /-- first cyc in which the next line may be read (R333) -/
  readAt : Nat := 0
  /-- acknowledgements still due -/
  due    : Nat
  bundle : Nat
  dlv    : Nat
  /-- lines of an NRED read so far -/
  got    : List (List Byte) := []
  npart  : Nat := 0
  deriving DecidableEq, Repr

/-- An MX plane with its tag (Table 5-1). -/
structure Plane where
  /-- 1: activation set; 0: weight block -/
  kind  : Bool := false
  /-- 1: W4; 0: W8 -/
  fmt   : Bool := false
  vlast : Nat := 0
  /-- expanded weight of input k and output n at key 32 k + n -/
  w     : Tbl Int := []
  /-- byte of the activation set -/
  set   : Tbl Byte := []
  deriving DecidableEq, Repr

/-- The MX state of a tile (Table 5-1). -/
structure Mx where
  active : Plane := {}
  shadow : Plane := {}
  /-- 40-bit sum of bank b, row r, column c at key 1024 b + 32 r + c -/
  acc    : Tbl Int := []
  /-- ZP0 at keys 0-31, ZP1 at keys 32-63 -/
  zp     : Tbl Byte := []
  /-- entry e of codebook c at key 256 c + e -/
  cb     : Tbl (BitVec 10) := []
  /-- ramp state: cyc of the last entry, if any since it was made idle -/
  last   : Option Nat := none
  /-- cyc of the first entry since the array last left idle -/
  first  : Nat := 0
  /-- entries made since then -/
  count  : Nat := 0
  deriving DecidableEq, Repr

/-- The attention partial S (R219). -/
structure Partial where
  m   : BitVec 32 := 0xFF800000
  l   : BitVec 32 := 0
  acc : Tbl (BitVec 32) := []
  deriving DecidableEq, Repr

/-- A quantisation point record (Table 6-8). -/
structure QPoint where
  thresh  : Nat := 0
  win     : Nat := 0
  wsteps  : Nat := 0
  mvalid  : Bool := false
  model   : Nat := 0
  wclip   : Nat := 0
  wtotal  : Nat := 0
  clipped : Nat := 0
  total   : Nat := 0
  deriving DecidableEq, Repr

/-- An FTQ entry: a finished bank, the member that pushed it, the cyc from which it is readable (R60). -/
structure FtqEntry where
  vals    : Tbl Int
  member  : Nat
  readyAt : Nat
  /-- key of the tile that pushed it, and the cyc of the push -/
  src     : Nat
  pushAt  : Nat
  deriving DecidableEq, Repr

/-- A breakpoint (Table 19-7). -/
structure Breakpt where
  en    : Bool := false
  index : Nat := 0
  count : Nat := 0
  deriving DecidableEq, Repr

/-- A watchpoint (Table 19-8). -/
structure Watchpt where
  en    : Bool := false
  rd    : Bool := false
  wr    : Bool := false
  arr   : Bool := false
  vm    : Bool := false
  count : Nat := 0
  base  : Nat := 0
  limit : Nat := 0
  value : Nat := 0
  vmask : Nat := 0
  deriving DecidableEq, Repr

/-! ### Work under way in a tile (R105, R109)

An instruction that takes more than its issue leaves a job: what it fixed at issue, how far it has come, and what it
has read and not yet written. Every cyc of the die takes each job one cyc further (Machine/Tick.lean). -/

/-- The slots of a bundle in the order of R101; `other` is for a fault that no own instruction caused (R107). -/
inductive Slot where
  | ct | mv | nx | mx | vx | other
  deriving DecidableEq, Repr

/-- Causes of TILE_FAULT (Table 17-15). -/
inductive Cause where
  | regionFull | regionEmpty | noTile | ftqFull | ftqEmpty | bankConflict | codeWrite | cavernBudget | address
  | noPeer | bankOff | uncorrectable | cavernUe | fetch | unitBusy | strict | mxMode | gang | vxCfg | noPage
  | staleFrame | linkConflict | channel | outboxFull | gate | encoding
  deriving DecidableEq, Repr

/-- A fault raised in the present cyc and reported at its end (R107, R108). -/
structure TFault where
  slot   : Slot
  cause  : Cause
  bundle : Nat
  ga     : Nat
  deriving DecidableEq, Repr

/-- A word with its poison. -/
abbrev PWord := List Byte × Bool

/-- MLOAD (R160). A line read in one cyc is written at the end of the next. -/
structure LoadJob where
  kind  : Nat
  fmt   : Nat
  cb    : Nat
  cseg  : Nat
  vlast : Nat
  zb    : Nat
  /-- word offsets of the lines still to be read -/
  lines : List (List Nat)
  /-- number of the next line -/
  next  : Nat := 0
  /-- the line read in this cyc, and the one read in the cyc before: number, place and value of each element -/
  got   : Option (Nat × List (Nat × Int)) := none
  held  : Option (Nat × List (Nat × Int)) := none
  deriving DecidableEq, Repr

/-- MSTREAM or MGEMV (R162, R163). -/
structure PassJob where
  gemv  : Bool
  abank : Nat
  acc   : Bool
  cb    : Nat := 0
  cseg  : Nat := 0
  /-- MSTREAM: bytes of a row; MGEMV: vectors of the set -/
  e     : Nat
  /-- W4 set, for MGEMV -/
  w4    : Bool := false
  /-- byte ranges of the rows or records still to be read -/
  srcs  : List (List (Nat × Nat))
  /-- number of the next entry, and its cyc -/
  next  : Nat := 0
  at_   : Nat
  /-- ramp state of the next entry (R153) -/
  first : Nat
  count : Nat
  /-- contributions on their way: cyc in which each is added, sums by accumulator key (R143) -/
  due   : List (Nat × List (Nat × Int)) := []
  deriving DecidableEq, Repr

/-- MDRAIN (R164). -/
structure DrainJob where
  bank  : Nat
  dest  : Nat
  rlast : Nat
  qpt   : Nat
  dline : Nat
  /-- the sums and zero points as they stood at issue -/
  acc   : Tbl Int
  zp    : Tbl Byte
  /-- column-sum lines still to be read, and their bytes so far -/
  zc    : Bool
  lines : List Nat
  cs    : List Byte := []
  lat   : Nat
  deriving DecidableEq, Repr

/-- MCBLOAD or VLUT (R166, R235): a line read in one cyc is visible two cyc later. -/
structure TabJob where
  /-- codebook of an MCBLOAD; none for a VLUT -/
  cb    : Option Nat
  seg0  : Nat
  nseg  : Nat
  lines : List Nat
  next  : Nat := 0
  got   : Option (Nat × List Byte) := none
  held  : Option (Nat × List Byte) := none
  deriving DecidableEq, Repr

/-- VCFG (R234). -/
structure CfgJob where
  cfg   : Nat
  lines : List Nat
  bytes : List Byte := []
  deriving DecidableEq, Repr

/-- A stream descriptor (Table 7-7). -/
structure Stream where
  base : Nat
  inc  : Nat
  fmt  : Nat
  lb   : Bool
  vg   : Nat
  rstr : Int
  vstr1 : Int
  vstr2 : Int
  hoff : Nat
  ren  : Bool
  region : Nat
  resv : Bool
  deriving DecidableEq, Repr

/-- A chain configuration as it stands at the VRUN's issue (R200): header and streams (Tables 7-6, 7-7). -/
structure VCfg where
  h : Nat
  a : Stream
  b : Stream
  w : Stream
  p : Stream
  d : Stream
  o : Stream
  deriving DecidableEq, Repr

/-- A row record (Table 7-3); the default is that of R208. -/
structure RowRec where
  valid : Bool := true
  hline : Nat := 0x3FFF
  len   : Nat := 4095
  kpos  : Nat := 0
  x1    : BitVec 32 := 0
  x0    : BitVec 32 := 0x3F800000
  pos   : Nat := 0
  zp    : Int := 0
  scale : BitVec 32 := 0x3F800000
  deriving DecidableEq, Repr

/-- A row that a VRUN works on. -/
structure VRow where
  r    : Nat
  rec_ : RowRec
  /-- history lines read (R221), by line -/
  hist : Tbl (List Byte) := []
  /-- the pair (s, z) of the row, once it is known -/
  pair : Option (BitVec 32 × Int) := none
  deriving DecidableEq, Repr

/-- A vector that has been read and has not reached FN: its elements entering FN and their masks. -/
structure VRead where
  j    : Nat
  pre  : List (BitVec 32)
  mask : List Bool
  /-- old elements of D, for ADDTO -/
  old  : List (BitVec 32)
  /-- B in lane 0 -/
  b0   : BitVec 32
  deriving DecidableEq, Repr

/-- A vector past FN, kept until its row is done. -/
structure VEls where
  j    : Nat
  els  : List (BitVec 32)
  mask : List Bool
  old  : List (BitVec 32)
  b0   : BitVec 32
  deriving DecidableEq, Repr

/-- VRUN (R236). -/
structure RunJob where
  c     : VCfg
  mkeep : Bool
  aoff  : Nat
  boff  : Nat
  doff  : Nat
  rows  : Nat
  /-- region positions of A, B and D as fixed at issue -/
  ra    : Region
  rb    : Region
  rd    : Region
  /-- operand latches of FTQ pops, by key 32 r + c; that of B once it is popped -/
  la    : Tbl Int
  lb    : Option (Tbl Int) := none
  /-- for PREDICTED: the history records, by HLINE, as they stood at issue (R185) -/
  hist0 : Tbl (List Byte) := []
  /-- rows in work -/
  row   : List VRow := []
  /-- lanes 0-15 of the vector being read, with PACE2: raw A, B and W -/
  half  : List (List Nat) := []
  reads : List VRead := []
  els   : List VEls := []
  /-- history entries this VRUN has recorded: row, HLINE, entry, value (R221) -/
  fwd   : List (Nat × Nat × Nat × Nat) := []
  /-- row results of SUM, MAX and MIN -/
  reds  : List (Nat × BitVec 32) := []
  /-- output elements of ONLINE and MERGE, and X0 and X1 of their O record -/
  out   : List (BitVec 32) := []
  outX  : BitVec 32 × BitVec 32 := (0, 0)
  /-- the transaction of an ATOMADD -/
  txn   : Option Nat := none
  deriving DecidableEq, Repr

/-- Kinds of an end of a move: own scratchpad, Cavern of the die, off the die. -/
inductive EndKind where
  | own | cavern | far
  deriving DecidableEq, Repr

/-- One beat of a move: the words it reads and the words it writes, one by one (R93). -/
structure MvBeat where
  src : List Nat
  dst : List Nat
  deriving DecidableEq, Repr

/-- A beat on its way: the cyc at whose end it is written, where to, its data, and whether a word of Cavern was
uncorrectable. -/
structure MvAir where
  land : Nat
  dst  : List Nat
  data : List PWord
  ue   : Bool := false
  deriving DecidableEq, Repr

/-- DMOV or DMOVX (R97, R98). -/
structure MoveJob where
  src   : EndKind
  dst   : EndKind
  /-- beats in 16 cyc -/
  pace  : Nat
  beats : List MvBeat
  /-- number of the next beat -/
  next  : Nat := 0
  air   : List MvAir := []
  /-- GA of the far end without its offset -/
  far   : Nat := 0
  txn   : Option Nat := none
  deriving DecidableEq, Repr

/-- DTRN (R99). -/
structure TrnJob where
  /-- source and destination offset of row 0 of block 0, and the strides in bytes -/
  src   : Nat
  dst   : Nat
  srcS  : Int
  dstS  : Int
  m     : Nat
  blocks : Nat
  /-- rows read of a block: block, row, its 32 bytes -/
  rows  : List (Nat × Nat × List Byte) := []
  deriving DecidableEq, Repr

/-- A DGATH accepted by the MV slot and not yet by its page manager (R247, R258). -/
structure Gath where
  tile  : Nat
  bundle : Nat
  dop   : Nat
  kind  : Nat
  layer : Nat
  ntok  : Nat
  pin   : Bool
  head  : Nat
  pos0  : Nat
  limit : Nat
  spos  : Nat
  midx  : Nat
  /-- where each row and each scale lies in the tile's scratchpad, as (offset, length) pieces -/
  rows  : List (List (Nat × Nat))
  scls  : List Nat
  /-- data of a PUT, with its poison -/
  rowData : List (List Byte × Bool)
  sclData : List (List Byte × Bool)
  /-- the transaction that answers it -/
  txn   : Nat
  gcnt  : Nat
  deriving DecidableEq, Repr

/-- DGATH until its request goes to the page manager (R258, R260). -/
structure GathJob where
  hd    : Nat
  /-- the new POS0 that RINC writes in cyc 1 -/
  pos0  : Option (List Byte)
  req   : Gath
  pace  : Nat
  /-- pieces that the beats of a PUT read, beat by beat, and the number of the next -/
  beats : List (List (Nat × Nat))
  next  : Nat := 0
  /-- bytes read: offset, byte, poison -/
  got   : List (Nat × List Byte × Bool) := []
  sent  : Bool := false
  /-- no sooner than this cyc is it over (R261) -/
  due   : Nat := 0
  deriving DecidableEq, Repr

/-- NSEND, NMCAST or NRED with destinations on the die (R337). A line is the byte ranges it lies in: one of a region
wraps word by word (R72). -/
structure SendJob where
  lines : List (List (Nat × Nat))
  next  : Nat := 0
  ch    : Nat
  nl    : Nat
  dlv   : Nat
  own   : List Nat
  /-- the send-queue entry whose off-die copies these reads carry (R333) -/
  send  : Option Nat
  scnt  : Nat
  hmax  : Nat
  deriving DecidableEq, Repr

/-- SLANES (R282): the lines still to be written. -/
structure LanesJob where
  lines : List (Nat × List Byte)
  deriving DecidableEq, Repr

/-- SEMIT (R283). -/
structure EmitJob where
  src   : Nat
  lines : List Nat
  next  : Nat := 0
  pace  : Nat
  data  : List Byte := []
  txn   : Nat
  deriving DecidableEq, Repr

/-- What a job does. -/
inductive Work where
  | load (w : LoadJob)
  | pass (w : PassJob)
  | drain (w : DrainJob)
  | tab (w : TabJob)
  | cfg (w : CfgJob)
  | run (w : RunJob)
  | move (w : MoveJob)
  | trn (w : TrnJob)
  | gath (w : GathJob)
  | send (w : SendJob)
  | lanes (w : LanesJob)
  | emit (w : EmitJob)
  /-- MSWAP: the planes are exchanged at the end of its cyc (R161) -/
  | swap
  /-- MCLR (R165) -/
  | clear (banks : Nat)
  /-- DREG: the new descriptor governs from the next cyc (R96) -/
  | region (r : Nat) (rop base size : Nat)
  /-- NRECV: the channel takes lines from the next cyc (R339) -/
  | post (ch : Nat) (c : Chan)
  deriving DecidableEq, Repr

/-- An instruction under way: its slot, the cyc and the bundle of its issue, the cyc by which it is over. -/
structure Job where
  slot   : Slot
  t0     : Nat
  bundle : Nat
  fin    : Nat
  work   : Work
  deriving DecidableEq, Repr

/-- Everything a tile holds besides its scratchpad bytes (Table 2-1). The default is the state after
LOAD_IMAGE where the image loads nothing (R46). -/
structure Tile where
  seq      : Seq := .awaiting
  pend     : Pend := .none
  /-- bundle index that issues next (R100, Table 19-4) -/
  pc       : Nat := 0
  /-- slots of the present bundle that have issued or whose turn is past: those of lower rank (R101) -/
  passed   : Nat := 0
  /-- the target that issues after the delay slot now due -/
  branchTo : Option Nat := none
  /-- a fault was raised in the present cyc -/
  faultNow : Bool := false
  /-- faults raised and not yet reported (R108) -/
  faults   : List TFault := []
  /-- FAULT of Table 19-4 -/
  fault    : Nat := 0
  /-- cyc of the first bundle after the last release, from which even cyc count (R102) -/
  origin   : Nat := 0
  /-- the code line that bundles issue from: its first bundle index and its bytes (R45) -/
  line     : Option (Nat × List Byte) := none
  /-- the code line fetched for the next even cyc -/
  nextLine : Option (Nat × List Byte) := none
  /-- the sequencer fetches a code line in the present cyc (R45) -/
  fetch    : Bool := false
  ctr      : Tbl (BitVec 20) := []
  regions  : Tbl Region := []
  /-- banks that accesses outside the schedule have taken in the present cyc (R68, R69) -/
  used     : List Nat := []
  /-- bytes popped from each region in the present cyc (R73) -/
  popped   : Tbl Nat := []
  md       : Tbl MoveDesc := []
  rd       : Tbl Nat := []
  ch       : Tbl Chan := []
  ac       : Tbl (BitVec 16) := []
  sendq    : List Send := []
  holding  : List NxLine := []
  mx       : Mx := {}
  /-- chain configurations: byte b of configuration i at key 128 i + b -/
  vxcfg    : Tbl Byte := []
  lut      : Tbl (BitVec 32) := []
  part     : Partial := {}
  qp       : Tbl QPoint := []
  ftq      : List FtqEntry := []
  /-- FTQ entries popped in the present cyc, still reserved (R61) -/
  ftqGone  : Nat := 0
  /-- pushes of the present cyc are refused (R61) -/
  ftqOver  : Bool := false
  bp       : Tbl Breakpt := []
  wp       : Tbl Watchpt := []
  bphit    : Nat := 0
  wphit    : Nat := 0
  /-- first cyc at which each unit resource is free (R106) -/
  busy     : Tbl Nat := []
  /-- cyc at which every instruction issued has passed its latency (R120) -/
  quietAt  : Nat := 0
  /-- transactions started off the die and not complete (R120) -/
  outst    : Nat := 0
  /-- instructions under way, in the order of their issue (R105) -/
  jobs     : List Job := []
  deriving DecidableEq, Repr

/-- A gate that holds its die (R334, R335). -/
structure Gate where
  vt      : Nat
  cnt     : Nat
  val     : Nat
  timeout : Nat
  count   : Nat
  bundle  : Nat
  deriving DecidableEq, Repr

/-- Why a compute die does not issue, beyond its gates. -/
structure DieStop where
  /-- stopped by a fault until STOP or LOAD_IMAGE (R107) -/
  fault  : Bool := false
  /-- a fault raised in this cyc stops the die at the bundle boundary -/
  atEnd  : Bool := false
  /-- halted by the debug port (R533) -/
  halted : Bool := false
  /-- halts at the end of the present cyc -/
  haltEnd : Bool := false
  /-- cyc of issue left of a STEP (R536) -/
  step   : Option Nat := none
  /-- stopped by CLOCK_FAULT(REF) (R405) -/
  ref    : Bool := false
  /-- stopped by CLOCK_FAULT(XING) (R409) -/
  xing   : Bool := false
  /-- stopped by FENCE (R466) -/
  fenced : Bool := false
  deriving DecidableEq, Repr

/-- A line on the die mesh (R318): its source tile, the issue that sent it, what it carries, the cyc of its read and
the tiles it still goes to. -/
structure MeshLine where
  src    : Nat
  t0     : Nat
  bundle : Nat
  ch     : Nat
  k      : Nat
  nl     : Nat
  data   : List Byte
  poison : Bool
  dlv    : Nat
  at_    : Nat
  dests  : List Nat
  deriving DecidableEq, Repr

/-- A Cavern beat admitted in a cyc (R77, R78): its cyc, stack, whether it writes, its sub-array, whether it is affine,
and whether it took a slot that scheduled beats left unused. -/
structure CvBeat where
  at_    : Nat
  stack  : Nat
  wr     : Bool
  sub    : Nat
  affine : Bool
  spare  : Bool
  deriving DecidableEq, Repr

/-- Per-die control state. -/
structure Die where
  cyc     : Nat := 0
  /-- lines on the die mesh (R318) -/
  mesh    : List MeshLine := []
  /-- Cavern beats of the last 16 cyc (R77) -/
  beats   : List CvBeat := []
  stop    : DieStop := {}
  gates   : List Gate := []
  /-- gates that were satisfied in the present cyc (R334) -/
  gatesDone : List Gate := []
  /-- the die is held by its gates (R110) -/
  held    : Bool := false
  /-- idle mask, bit m for resident model m (R137) -/
  idle    : Nat := 0
  /-- DBG_CAUSE: cause, virtual tile, bundle index (Table 19-6) -/
  dbgCause : Nat × Nat × Nat := (0, 0, 0)
  deriving DecidableEq, Repr

/-! ### Memories (R67, R75, R84) -/

/-- The error status of an 8 B word, where it is not plain (R88, R90). -/
inductive WordErr where
  /-- a single-bit error, corrected in what is delivered -/
  | single
  /-- an uncorrectable error -/
  | double
  /-- poisoned: every read reports it uncorrectable until the whole word is written -/
  | poisoned
  deriving DecidableEq, Repr

/-- Scratchpad, Cavern and host memory. A scratchpad byte has key (die x 256 + vt) x 2^20 + offset, a Cavern byte
die x 2^32 + offset, a host byte its host address. -/
structure Mem where
  spad    : Memory := []
  cav     : Memory := []
  host    : Memory := []
  /-- status of scratchpad words, by byte key div 8 -/
  spadErr : Tbl WordErr := []
  cavErr  : Tbl WordErr := []
  /-- last corrected word of each bank, key (tile key) x 16 + bank: 1 + word key (R89) -/
  spadCe  : Tbl Nat := []
  /-- last corrected word of each sub-array, key die x 512 + offset [31:23] (R89) -/
  cavCe   : Tbl Nat := []
  /-- Cavern words queued for rewrite by the patrol (R89) -/
  rewrite : List Nat := []
  /-- patrol position (word index) and passes of stack s of die d at key 4 d + s (Table 19-5) -/
  patrol  : Tbl Nat := []
  passes  : Tbl Nat := []
  /-- offset of the last corrected word of stack s of die d (LASTCE) -/
  lastCe  : Tbl Nat := []
  deriving DecidableEq, Repr

/-! ### The loaded image (R129, R130) -/

/-- What LOAD_IMAGE fixes until the next load or unload (R56). -/
structure Image where
  loaded   : Bool := false
  /-- 1 TP1, 2 TP2 (R125) -/
  profile  : Nat := 0
  nUsed    : Bool := false
  serving  : Bool := false
  id       : Nat := 0
  /-- GRID of each die: 0 unused, 1 reduced, 2 standard (Table 2-3) -/
  grid     : Tbl Nat := []
  /-- G2 and G4 masks per die -/
  g2       : Tbl Nat := []
  g4       : Tbl Nat := []
  /-- stagger value by tile key (R63) -/
  stagger  : Tbl Nat := []
  /-- mask of skipped physical columns by die x 16 + row (R48) -/
  skip     : Tbl Nat := []
  /-- group of each die plus 1; 0 none (R118) -/
  groupOf  : Tbl Nat := []
  jgid     : Tbl Nat := []
  models   : Tbl Nat := []
  jobModules : Nat := 0
  jobRacks : Nat := 0
  twin     : Bool := false
  /-- GROUP_MODULES of groups 0-7 -/
  gmods    : Tbl Nat := []
  /-- code region of each tile: first 4 KiB page plus 1 (0 none) and pages (R45) -/
  codeBase : Tbl Nat := []
  codeLen  : Tbl Nat := []
  /-- banks the usage map names, mask by tile key (R86) -/
  banks    : Tbl Nat := []
  /-- named sub-arrays: 1 at die x 512 + offset [31:23] -/
  subs     : Tbl Nat := []
  /-- absent sub-arrays, and the addressed sub-array bound to a spare: key die x 16 + stack x 4 + layer x 2 + spare,
  value 1 + SUB (R80) -/
  absent   : Tbl Nat := []
  spares   : Tbl Nat := []
  /-- DEFMAP of the load (R487) -/
  defmap   : Nat := 0
  /-- extents of its segments: KIND, die, tile, first byte, length -/
  segs     : List (Nat × Nat × Nat × Nat × Nat) := []
  /-- host address and bytes of the last successful LOAD_IMAGE from host memory (R521) -/
  hostAddr : Nat := 0
  hostSize : Nat := 0
  deriving DecidableEq, Repr

/-! ### Errors and retirement (16) -/

/-- A windowed counter (R446). -/
structure ECount where
  count  : Nat := 0
  wstart : Nat := 0
  deriving DecidableEq, Repr

/-- An error-log record (Table 16-4). -/
structure LogRec where
  tick   : Nat := 0
  kind   : Nat := 0
  flags  : Nat := 0
  cause  : Nat := 0
  resid  : Nat := 0
  addr   : Nat := 0
  count  : Nat := 0
  bundle : Nat := 0
  vtile  : Nat := 0
  die    : Nat := 0
  isRead : Bool := false
  deriving DecidableEq, Repr

/-- Counters, the retired set and the error log. -/
structure Errors where
  counters : Tbl ECount := []
  /-- the retired set in the order of entry, at most 4,096 (R448) -/
  retired  : List Nat := []
  /-- retirements held only until the next cold start (R448) -/
  volatile_ : List Nat := []
  /-- THRESH and WIN (ms) of bank, sub-array, lane, port (Table 16-2) at keys 2-5 -/
  thresh   : Tbl Nat := [(2, 16), (3, 16), (4, 64), (5, 64)]
  win      : Tbl Nat := [(2, 60000), (3, 60000), (4, 1000), (5, 1000)]
  scrub    : Nat := 16
  /-- the log ring by index, and the records written since PERST# -/
  log      : Tbl LogRec := []
  head     : Nat := 0
  lost     : Nat := 0
  /-- ER_LOG_SEL and the record it captured, with its ring index while it may be marked read -/
  sel      : Nat := 0
  captured : LogRec := {}
  capIdx   : Option Nat := none
  deriving DecidableEq, Repr

/-! ### Command engine (17) -/

/-- A submission ring (Table 17-3). -/
structure SqRing where
  en   : Bool := false
  base : Nat := 0
  size : Nat := 0
  cq   : Nat := 0
  prio : Nat := 0
  head : Nat := 0
  tail : Nat := 0
  /-- the reply of the previous command has not been written (R476) -/
  busy : Bool := false
  deriving DecidableEq, Repr

/-- A 32 B completion entry that waits to be written, with the ring it stalls and whether it signals at once. -/
structure CqEntry where
  bytes : List Byte
  irq   : Bool
  sq    : Option Nat
  deriving DecidableEq, Repr

/-- A completion ring. -/
structure CqRing where
  en    : Bool := false
  base  : Nat := 0
  size  : Nat := 0
  wb    : Nat := 0
  vec   : Nat := 0
  mcnt  : Nat := 1
  mtime : Nat := 0
  head  : Nat := 0
  tail  : Nat := 0
  wait  : List CqEntry := []
  /-- CE_CQ_STALL (R478) -/
  stall : Nat := 0
  /-- entries written and not yet signalled (R479) -/
  unsig : Nat := 0
  deriving DecidableEq, Repr

/-- An event record before it is written (Table 17-13). -/
structure EvRec where
  tick  : Nat
  code  : Nat
  cause : Nat
  seq   : Nat
  data  : List Byte
  deriving DecidableEq, Repr

/-- The event ring (R480). -/
structure EvRing where
  en    : Bool := false
  base  : Nat := 0
  size  : Nat := 0
  wb    : Nat := 0
  vec   : Nat := 0
  mcnt  : Nat := 1
  mtime : Nat := 0
  head  : Nat := 0
  tail  : Nat := 0
  wait  : List EvRec := []
  unsig : Nat := 0
  /-- the ring has been enabled since reset -/
  opened : Bool := false
  /-- CE_EV_LOST, and the losses EVENT_LOST has not yet reported -/
  lost    : Nat := 0
  lostNew : Nat := 0
  /-- events raised since PERST# (SEQ) -/
  seq   : Nat := 0
  deriving DecidableEq, Repr

/-- Module states (Table 17-7). -/
inductive ModState where
  | starting | empty | loading | loaded | running | ended
  deriving DecidableEq, Repr

/-- What a withheld reply waits for. -/
inductive Await where
  /-- STOP: the transactions the tiles started (R490) -/
  | stopQuiet
  /-- FABRIC_PLAN: the cabling check (R496) -/
  | plan
  /-- TWIN_CFG: the PAIR exchange (R453) -/
  | pair
  /-- CANCEL, PARK, RESTORE: the twin's WACK (R461), by forward number -/
  | forward (n : Nat)
  /-- LOAD_IMAGE: the twin's image (R521) -/
  | twinImage
  /-- FW_UPDATE: the staging of a firmware image (R500) -/
  | fwStage
  deriving DecidableEq, Repr

/-- A command whose reply is withheld: its ring, tag, opcode, flags, and the reply it will get. -/
structure HeldReply where
  why    : Await
  sq     : Nat
  tag    : Nat
  opcode : Nat
  irq    : Bool
  status : Nat
  detail : Nat
  result : List Byte
  deriving DecidableEq, Repr

/-- A load from the twin in progress (R521): the bytes received, in order; the end of the range asked for; the length
of the image, once known; whether the last request has been answered. -/
structure TwinLoad where
  buf   : Memory := []
  got   : Nat := 0
  ask   : Nat := 0
  size  : Option Nat := none
  heard : Bool := false
  deriving DecidableEq, Repr

/-- The command engine, its rings and MSI-X. -/
structure Ce where
  state  : ModState := .starting
  strict : Bool := false
  sq     : Tbl SqRing := []
  cq     : Tbl CqRing := []
  ev     : EvRing := {}
  held   : List HeldReply := []
  /-- the opcode of a running exclusive command (R485) -/
  excl   : Option Nat := none
  load   : Option TwinLoad := none
  /-- MSI-X Enable and Function Mask of the endpoint's configuration space, which no command of the table writes (log 47) -/
  msixEn : Bool := true
  fnMask : Bool := false
  /-- the ring served last, of each priority (R476) -/
  turn   : Tbl Nat := []
  /-- MSI-X table words, pending bits, and vectors signalled (R471, R479) -/
  msix   : Tbl Nat := []
  msixPend : Nat := 0
  irqs   : Tbl Nat := []
  /-- explicit skip sets of MAP_GRID: key (die x 16 + row) x 4 + grid, value 1 + mask (R489) -/
  maps   : Tbl Nat := []
  /-- step numbers CE_STEP_G0-G7 (R119) -/
  step   : Tbl Nat := []
  deriving DecidableEq, Repr

/-! ### Firmware (R500, R501) -/

/-- The two firmware banks and what the fuses hold. -/
structure Firmware where
  version : Nat := 0
  svn     : Nat := 0
  /-- 0 or 1: the bank that runs -/
  bank    : Nat := 0
  /-- the staged image in the other bank, valid or none: VERSION and SVN -/
  staged  : Option (Nat × Nat) := none
  /-- a STAGE in progress: host address and length of its image (R500, R505) -/
  staging : Option (Nat × Nat) := none
  /-- ACTIVATE marked the staged bank -/
  marked  : Bool := false
  /-- VERSION and SVN of the bank that does not run, while it could be booted -/
  other   : Nat × Nat := (0, 0)
  /-- the marked bank boots: FW_ACTIVATED is due -/
  booting : Bool := false
  /-- a NEW activation awaits its first READY -/
  fresh   : Bool := false
  fusedSvn : Nat := 0
  deriving DecidableEq, Repr

/-! ### Debug port (19) -/

/-- The TAP and the debug controls (Table 19-1, Table 19-6). -/
structure Debug where
  ir      : Nat := 1
  /-- the data register last captured -/
  dr      : Nat := 0
  /-- JREG: WRITE, OFFSET, DATA -/
  jreg    : Nat := 0
  jga     : Nat := 0
  jwrite  : Bool := false
  jinc    : Bool := false
  jdata   : Nat := 0
  jstatus : Nat := 0
  /-- a memory access is pending: address, write, data -/
  pendAcc : Option (Nat × Bool × Nat) := none
  bscan   : Nat := 0
  /-- the sideband outputs EXTEST drives, while it drives them -/
  extest  : Option Nat := none
  /-- debug enable, set over SMBus (R525) -/
  enabled : Bool := false
  scope   : Nat := 0
  die     : Nat := 0
  vtile   : Nat := 0
  stepN   : Nat := 0
  /-- upper halves latched by reads through JREG: 1 + value, by register offset (R544) -/
  latch   : Tbl Nat := []
  deriving DecidableEq, Repr

/-! ### Traffic between dies (11, R98, R225) -/

/-- What a beat does at its target. -/
inductive BeatOp where
  | write | read | add
  deriving DecidableEq, Repr

/-- Where a beat stands. -/
inductive BeatSt where
  /-- on its way to the target -/
  | out
  /-- response or acknowledgement on its way back, with the fault it brings (0 none) -/
  | back (cause : Nat)
  | done
  deriving DecidableEq, Repr

/-- One beat of a transaction: at most a line between local scratchpad and an off-die address. -/
structure Beat where
  op     : BeatOp
  /-- global address of the off-die end (R81) -/
  ga     : Nat
  /-- scratchpad offset at the issuer that a read lands at -/
  loc    : Nat
  len    : Nat
  data   : List Byte
  poison : Bool
  st     : BeatSt
  /-- a scatter-add: the WR cyc of its element (R225) -/
  at_    : Nat := 0
  deriving DecidableEq, Repr

/-- Who started a transaction. -/
inductive TxnFrom where
  | tile (x : Site)
  /-- a peer module's request: module, tag, generation (R365) -/
  | peer (mid tag gen : Nat)
  deriving DecidableEq, Repr

/-- A DMOVX, a scatter-add or a peer's access in progress. -/
structure Txn where
  id     : Nat
  from_  : TxnFrom
  /-- the die its beats leave from: that of the tile, or of the port a peer's request came by (R323) -/
  node   : Nat
  bundle : Nat
  beats  : List Beat
  /-- the counter of the target tile that increments when every beat has landed: tile key, counter -/
  landCnt : Option (Nat × Nat)
  /-- the counter of the issuing tile that increments on completion -/
  ackCnt : Nat
  /-- beats are still to issue -/
  more   : Bool := false
  /-- a DGATH: no sooner than this cyc of its die does the last response land (R261) -/
  due    : Nat := 0
  deriving DecidableEq, Repr

/-- One direction of a bridge (R326, R327). -/
structure BridgeDir where
  /-- lanes out of use, applied at the last retrain -/
  off    : List Nat := []
  /-- sequence number of the next frame to send, and of the next expected -/
  txSeq  : Nat := 0
  rxSeq  : Nat := 0
  /-- frames sent and not acknowledged, oldest first -/
  unacked : List Nat := []
  /-- frames of these that are to be sent again -/
  resend : List Nat := []
  /-- the frame whose transmission failed last, and its replays in succession that have failed -/
  failing : Option Nat := none
  replays : Nat := 0
  /-- a frame has failed 16 replays in succession: a retrain is due -/
  retrain : Bool := false
  down   : Bool := false
  deriving DecidableEq, Repr

/-- A delivery from another module: its source, tile key, channel, NL, the indices seen, and its number. -/
structure OpenDlv where
  src  : Nat
  tile : Nat
  ch   : Nat
  nl   : Nat
  seen : List Nat
  dlv  : Nat
  deriving DecidableEq, Repr

/-- The package network outside the cycle-exact domain. -/
structure Net where
  /-- lines between dies, in no order (R331) -/
  lines  : List NxLine := []
  /-- acknowledgements returning to a send: tile key, send id, the die they come from -/
  acks   : List (Nat × Nat × Nat) := []
  txns   : List Txn := []
  /-- deliveries discarded for a wrong NL: delivery, tile key (R331) -/
  dead   : List (Nat × Nat) := []
  /-- lines discarded for a wrong NL, and increments of arrival counters lost at 65,535 (R331, R332) -/
  discards : Nat := 0
  acLost : Nat := 0
  /-- deliveries from other modules whose lines still arrive (R330) -/
  opens  : List OpenDlv := []
  nextId : Nat := 0
  /-- bridge b, direction d at key 2 b + d -/
  bridges : Tbl BridgeDir := []
  deriving DecidableEq, Repr

/-! ### Module identity (R344, R512, R570) -/

/-- The identity halves: HALF and RACK from SMBus, BOARD and SLOT from straps. -/
structure Ident where
  half  : Nat := 0
  rack  : Nat := 0
  board : Nat := 0
  slot  : Nat := 0
  /-- FB_ID is valid, from the end of phase 1 (Table 20-5) -/
  valid : Bool := false
  deriving DecidableEq, Repr

/-! ### Oliene fabric (12) -/

/-- A packet: the header of Table 12-5 and its payload. -/
structure Packet where
  path  : Nat := 0
  dst   : Nat := 0
  mgrp  : Nat := 0
  vc    : Nat := 0
  epoch : Nat := 0
  ph    : Nat := 0
  hop   : Nat := 0
  type  : Nat := 0
  len   : Nat := 0
  src   : Nat := 0
  tag   : Nat := 0
  tgen  : Nat := 0
  resv  : Nat := 0
  addr  : Nat := 0
  aux   : Nat := 0
  data  : List Byte := []
  /-- the data words travel as poison (R90): all of them, or those listed, by number from the first of the payload -/
  poison : Bool := false
  badWords : List Nat := []
  deriving DecidableEq, Repr

/-- A packet at this module's router, with the port it arrived on (none: injected here). -/
structure AtRouter where
  pkt  : Packet
  port : Option Nat
  /-- TICK, in units of 2^-16 ns, at which its frame arrived (R383) -/
  at_  : Nat
  /-- the die it enters the router's module at: the I/O die of its port, or that of the unit it comes from (R323, R357) -/
  node : Nat
  deriving DecidableEq, Repr

/-- Why a request was issued. -/
inductive ReqFor where
  /-- beat `beat` of transaction `id` -/
  | beat (id beat : Nat)
  /-- a line of send `id` of the tile of this key -/
  | send (tile id : Nat)
  /-- a partial or a final sum of a reduction -/
  | sum
  /-- a page-manager request: die and identifier -/
  | pm (die id : Nat)
  /-- the page manager of a die reads part `chunk` of a peer's frame for the reading `id` -/
  | frame (die id chunk : Nat)
  /-- an Echo message (R390) -/
  | echo
  /-- THROTTLE or JOBFREQ (R437) -/
  | power
  /-- mirror traffic: ENTRY, FRAME or NOTICE of a point -/
  | mirror (group : Nat)
  /-- POINT_END of a group's point -/
  | pointEnd (group : Nat)
  /-- FORWARD number -/
  | forward (n : Nat)
  deriving DecidableEq, Repr

/-- A request: waiting for a tag, or outstanding (R365-R367, R375). -/
structure Req where
  why     : ReqFor
  pkt     : Packet
  /-- a pinned path, or 0 for the path table's -/
  pinned  : Nat
  /-- a board access of R346 -/
  board   : Bool := false
  /-- SACKs still due, for a multicast packet, and the members that have given theirs (R363) -/
  due     : Nat := 1
  acked   : List Nat := []
  /-- held back until every earlier packet of its operation is acknowledged (R366) -/
  last    : Bool := false
  /-- the resend waits for the next epoch (R375) -/
  heldFor : Option Nat := none
  deriving DecidableEq, Repr

/-- Service states of a port (R374). -/
inductive PortSvc where
  | down | up | retiring
  deriving DecidableEq, Repr

/-- A cell on a link; `first` marks the cell that opens a packet. -/
structure Cell where
  first : Bool
  bytes : List Byte
  deriving DecidableEq, Repr

/-- A frame that carries cells, kept for replay (R348). -/
structure Frame where
  seq   : Nat
  vc    : Nat
  ph    : Nat
  cells : List Cell
  /-- successive replays of it (R349) -/
  tries : Nat := 0
  deriving DecidableEq, Repr

/-- One fabric port. -/
structure Port where
  svc      : PortSvc := .down
  /-- lanes trained: 0 no link, else 1, 2 or 4 (R343) -/
  lanes    : Nat := 0
  /-- a retrain is in progress (R349) -/
  retrain  : Bool := false
  /-- the port left service by retirement (R374) -/
  retired  : Bool := false
  /-- a training has failed since the last link, which PORT_DOWN has told (R374) -/
  failed   : Bool := false
  -- sending
  txSeq    : Nat := 0
  unacked  : List Frame := []
  /-- cells that wait for credit, per pool 2 x VC + PH -/
  wait     : Tbl (List Cell) := []
  /-- cells sent, and cells the peer has freed, per pool, modulo 4,096 -/
  sent     : Tbl Nat := []
  freed    : Tbl Nat := []
  /-- the bytes of every frame put on the link, oldest first (R347) -/
  line     : List (List Byte) := []
  -- receiving
  rxSeq    : Nat := 0
  rxFreed  : Tbl Nat := []
  /-- the last frame accepted, which acknowledgements name -/
  ackSent  : Option Nat := none
  /-- a replay of the frame awaited has been asked for -/
  nakSent  : Bool := false
  /-- bytes of a packet whose cells are still arriving, per pool -/
  part     : Tbl (List Byte) := []
  /-- for each cell of these bytes, whether its words came as poison -/
  partBad  : Tbl (List Bool) := []
  -- neighbour (R376, R377)
  seenMid  : Nat := 0xFFFF
  seenPort : Nat := 0xFF
  serial   : Nat := 0
  /-- an identification is awaited since training -/
  idWait   : Bool := false
  noId     : Bool := false
  status   : Nat := 1
  partner  : Nat := 0xFF
  /-- link delay samples, newest first, in units of 2^-17 ns, and exchanges since training (R384) -/
  samples  : List Int := []
  /-- exchange identifier of the last DELAY_REQ, and its T1 -/
  exch     : Nat := 0
  exchT1   : Option Nat := none
  /-- OSFP module configured (R566) -/
  osfp     : Bool := false
  deriving DecidableEq, Repr

/-- A whole contribution that waits at the combiner (R364): lines of FP32 values. -/
structure Contrib where
  mgrp  : Nat
  nl    : Nat
  ch    : Nat
  lines : List (List Byte)
  /-- contributions it includes -/
  count : Nat
  /-- the tile and send of a local contribution -/
  local_ : Option (Nat × Nat)
  /-- NPART of a local contribution -/
  npart : Nat
  /-- the port and requests to acknowledge of a REDUP -/
  port  : Option Nat
  acks  : List (Nat × Nat × Nat)
  /-- epochs that the packets of a REDUP are stamped with (R371) -/
  epochs : List Nat := []
  deriving DecidableEq, Repr

/-- The partial of a reduction in progress (R364). -/
structure Comb where
  nl    : Nat := 0
  ch    : Nat := 0
  lines : List (List Byte) := []
  count : Nat := 0
  /-- local contributions and child ports that have arrived -/
  locals_ : Nat := 0
  ports : List Nat := []
  npart : Nat := 0
  /-- contributing tiles of this module and their channels -/
  tiles : List (Nat × Nat) := []
  /-- a contribution of another NL was discarded (R338) -/
  bad   : Bool := false
  /-- epochs that the packets it has taken are stamped with (R371) -/
  epochs : List Nat := []
  deriving DecidableEq, Repr

/-- The plan in force (R377, R381, R496). -/
structure Plan where
  have_  : Bool := false
  master : Nat := 0xFFFF
  leader : Nat := 0xFFFF
  parent : Nat := 0x1F
  backup : Nat := 0x1F
  id     : Nat := 0
  /-- MIDs present -/
  present : List Nat := []
  /-- peer MID x 256 + peer port, by port; absent: none -/
  peers  : Tbl Nat := []
  checks : Nat := 0
  deriving DecidableEq, Repr

/-- What this module does in an epoch handshake (R370-R372). -/
structure Epoch where
  /-- CUR -/
  cur     : Nat := 0
  /-- this module has joined a switch that has not completed -/
  joined  : Bool := false
  /-- the handshake is complete and waits for a phase 6 -/
  complete : Bool := false
  /-- the module whose silence ended the switch that has not completed (R371) -/
  silent  : Option Nat := none
  -- leader
  joiners : List Nat := []
  polling : Bool := false
  /-- the requests of the present round have been sent -/
  asked   : Bool := false
  /-- counts of the round in progress and of the last round by MID: present, sent, received -/
  round   : List (Nat × Nat × Nat × Nat) := []
  before  : List (Nat × Nat × Nat × Nat) := []
  quiet   : Nat := 0
  loading : Bool := false
  loadedBy : List Nat := []
  -- packets of epoch e sent over ports and received, running totals
  sent    : Tbl Nat := []
  received : Tbl Nat := []
  deriving DecidableEq, Repr

/-- The fabric of a module. -/
structure Fab where
  ports    : Tbl Port := []
  /-- path entry of MID [9:0] of epoch slot e at key 1024 e + mid: [79:0] PATH, [80] VALID -/
  paths    : Tbl Nat := []
  /-- multicast entry of group g of slot e at key 4096 e + g -/
  mcast    : Tbl (BitVec 64) := []
  /-- staging area: path entries of 128 bits by MID, multicast entries by group (R369, R552) -/
  stPaths  : Tbl Nat := []
  stMcast  : Tbl (BitVec 64) := []
  /-- FB_STAGE_ADDR -/
  stAddr   : Nat := 0
  plan     : Plan := {}
  ep       : Epoch := {}
  /-- requests that wait for a tag or for resend-store space -/
  waiting  : List Req := []
  /-- outstanding requests, in the order of injection -/
  out      : List Req := []
  /-- generation of each tag -/
  tgen     : Tbl Nat := []
  /-- packets at the router -/
  router   : List AtRouter := []
  /-- packets delivered to this module and not yet handled -/
  inbox    : List AtRouter := []
  contribs : List Contrib := []
  /-- the partials of a group's reductions in progress, oldest first -/
  combs    : Tbl (List Comb) := []
  /-- contributor sets that await the final sum, by group, oldest first -/
  awaiting : Tbl (List (List (Nat × Nat))) := []
  /-- lines that have arrived of the final sum that a group's oldest set awaits -/
  sumGot   : Tbl Nat := []
  /-- REDUP lines that have arrived of a partial: group x 16 + port -/
  parts    : List (Nat × Packet) := []
  /-- FB_TXN_TIMEOUT in units of 1 ms -/
  timeout  : Nat := 10
  malformed : Nat := 0
  misroute : Nat := 0
  mcMiss   : Nat := 0
  mcLost   : Nat := 0
  dropped  : Nat := 0
  stale    : Nat := 0
  timeouts : Nat := 0
  deriving DecidableEq, Repr

/-! ### Page managers (8) -/

/-- A frame table entry (Table 8-5). -/
structure FrameE where
  gen   : Nat := 0
  /-- 0 FREE, 1 ALLOC, 2 GUEST -/
  state : Nat := 0
  /-- 0 not in pool, 1 Cavern, 2 scratchpad -/
  loc   : Nat := 0
  ref   : Nat := 0
  hpins : Nat := 0
  spins : Nat := 0
  ogrp  : Nat := 0
  oslot : Nat := 0
  tile  : Nat := 0
  off   : Nat := 0
  deriving DecidableEq, Repr

/-- What a page manager takes: a DGATH or a message of a peer. -/
inductive PmReq where
  | gath (g : Gath)
  | msg (p : Packet)
  deriving DecidableEq, Repr

/-- One page manager: its pool, frame table, reservations, counters and requests. -/
structure Pm where
  /-- frames in the pool, and the first frame number lent to peers (R244) -/
  frames : Nat := 0
  guest0 : Nat := 0
  table  : Tbl FrameE := []
  /-- reservations it made: group, root reference of the sequence, block, frame reserved (R249) -/
  resv   : List (Nat × Nat × Nat × Nat) := []
  copies : Nat := 0
  exhausted : Nat := 0
  stale  : Nat := 0
  nopage : Nat := 0
  reqs   : List PmReq := []
  deriving DecidableEq, Repr

/-- The owner's record of a guest frame on a peer (R254), with the contents of a root or table frame. -/
structure GuestRec where
  gen   : Nat := 0
  ref   : Nat := 0
  hpins : Nat := 0
  spins : Nat := 0
  ogrp  : Nat := 0
  /-- references this module's page managers wrote into it, 4 B each, by index -/
  refs  : Tbl Nat := []
  deriving DecidableEq, Repr

/-- What a page manager reads a peer's frame for. -/
inductive ReadFor where
  /-- the copy on write of the PUT of a transaction (R251) -/
  | copy (txn : Nat)
  /-- the park image of this number, at a byte of its frames (R297) -/
  | park (image at_ : Nat)
  /-- a mirror point: group, point sequence, handle, reference index (R457) -/
  | capture (g seq handle ref : Nat)
  deriving DecidableEq, Repr

/-- The reading of a frame on a peer, 2,048 B at a time. -/
structure PeerRead where
  id   : Nat
  ref  : Nat
  why  : ReadFor
  /-- parts that have come: number, bytes, poison -/
  got  : List (Nat × List Byte × Bool) := []
  deriving DecidableEq, Repr

/-- Every page manager, this module's guest frames on peers, by slot x 2^21 + die x 2^18 + frame, and the readings of such
frames in progress. -/
structure Pages where
  pms    : Tbl Pm := []
  guests : Tbl GuestRec := []
  reads  : List PeerRead := []
  deriving DecidableEq, Repr

/-! ### Time and Echo (13) -/

/-- Time states (Table 13-2). -/
inductive TState where
  | free | master | acquiring | locked | tracking | holdover
  deriving DecidableEq, Repr

/-- TICK, the time loop and the time tree (R379-R388). -/
structure Time where
  /-- TICK in units of 2^-16 ns, and the remainder of its last advance in units of 10^-8 of that -/
  tick    : Nat := 0
  frac    : Nat := 0
  state   : TState := .free
  /-- f and s in units of 10^-8 (0.01 ppm) -/
  f       : Int := 0
  s       : Int := 0
  /-- active parent port; 0x1F none -/
  active  : Nat := 0x1F
  /-- MID of the master followed, and depth (0xF unknown) -/
  master  : Nat := 0xFFFF
  depth   : Nat := 0xF
  /-- SYNCED of the parent's last message -/
  synced  : Bool := false
  /-- consecutive messages with |theta| <= 1 ns, and with |theta| > 10 ns -/
  good    : Nat := 0
  wild    : Nat := 0
  /-- TICK at which the last valid message arrived -/
  heard   : Nat := 0
  /-- the step of TICK of R387 has been made -/
  stepped : Bool := false
  /-- TICK_FAULT was raised since ACQUIRING was entered -/
  faulted : Bool := false
  nseq    : Nat := 0
  /-- own TICK and offset (2^-18 ns) of the messages over which the rate is measured before the step (R518) -/
  slope   : List (Nat × Int) := []
  /-- TM_CFG.PPS, and the TICK of the last TSYNC edge -/
  pps     : Bool := false
  edge    : Option Nat := none
  /-- TM_ECHO_CFG -/
  lead    : Nat := 3000
  slow    : Nat := 100
  late    : Nat := 0
  stale   : Nat := 0
  deriving DecidableEq, Repr

/-- Where a group's boundary stands on this module (R392, R395). -/
inductive Bnd where
  /-- RUN has not been issued, or the task has ended -/
  | idle
  /-- tiles run, or have not all arrived -/
  | step
  /-- local arrival; the cut is awaited -/
  | arrived
  /-- phases 1 to 7 are done; phase 8 stops the dies -/
  | phase8
  /-- this module's DONE is sent; ARM is awaited -/
  | done
  /-- armed for TREL -/
  | armed
  deriving DecidableEq, Repr

/-- Echo of one model group (R391-R398). -/
structure Group where
  leader  : Nat := 0xFFFF
  start   : Nat := 0
  /-- an ARM_ECHO has been accepted since LOAD_IMAGE -/
  armSet  : Bool := false
  bnd     : Bnd := .idle
  /-- the STEP of the coming release -/
  next    : Nat := 0
  arrives : List Nat := []
  dones   : List Nat := []
  /-- the leader has taken the cut -/
  cut     : Bool := false
  trel    : Nat := 0
  /-- TICK of local arrival, and whether ECHO_SLOW was raised in this boundary -/
  since   : Nat := 0
  slowed  : Bool := false
  /-- dies that have released -/
  released : List Nat := []
  /-- power state that phase 8 applies, as it stood at the cut (R428), and the number of that cut (R414) -/
  target  : Nat := 0
  cutNo   : Nat := 0
  deriving DecidableEq, Repr

/-! ### Clocks (14) -/

/-- Clock control (Table 20-6). Region 3 n + k is the west, east or spine region of CDn. -/
structure Clock where
  /-- CK_FREQ_STATUS.CUR, MHz -/
  cur     : Nat := 400
  /-- FB: bit 0 ALERT, 1 margin CRIT, 2 THERM, 3 LOCK -/
  fb      : Nat := 0
  /-- CK_REGION_MODE, and the modes in use by region (0 not running) -/
  want    : Nat := 0
  modes   : Tbl Nat := []
  realigns : Nat := 0
  pending : Nat := 0
  low     : Nat := 20
  crit    : Nat := 8
  /-- 255 minus the smallest slack since the last read, by region -/
  marginMin : Tbl Nat := []
  /-- consecutive samples below LOW and below CRIT, by region x 16 + monitor -/
  lowRun  : Tbl Nat := []
  critRun : Tbl Nat := []
  /-- TICK (ns) of the last MARGIN_LOW(LOW) of a region, plus 1 -/
  lowAt   : Tbl Nat := []
  /-- CLOCK_FAULT(REF) persists (R405) -/
  refFault : Bool := false
  /-- TICK (ns) of the last fallback, plus 1 (R417, R418) -/
  fbAt    : Nat := 0
  deriving DecidableEq, Repr

/-! ### Power (15) -/

/-- Power and thermal control (Tables 15-3, 15-6, 20-6). -/
structure Power where
  pA      : Bool := false
  pB      : Bool := false
  /-- 0 A, 1 B supplies the load -/
  src     : Nat := 0
  vA      : Nat := 0
  vB      : Nat := 0
  pinA    : Nat := 0
  pinB    : Nat := 0
  /-- PW_ENERGY, µJ -/
  energy  : Nat := 0
  /-- PW_STATE.STATE -/
  state   : Nat := 14
  /-- tile supply (R426, R427): the power state whose voltage the regulator dies hold, none while they are off; the state to
  whose voltage they are raising it for a phase 8 to come (DESIGN CHOICE, log 112) -/
  volt    : Option Nat := none
  rise    : Option Nat := none
  /-- cuts taken since power-on, and the cut whose target was applied last (R414) -/
  cuts    : Nat := 0
  cutDone : Nat := 0
  ceil    : Nat := 2
  cap     : Nat := 0
  therm   : Nat := 0
  margin  : Nat := 0
  alert   : Nat := 0
  lock    : Nat := 0
  watts   : Nat := 0
  win     : Nat := 10
  hyst    : Nat := 50
  /-- consecutive windows below the cap by HYST, and TICK (ns) of the last POWER_CAP plus 1 -/
  calm    : Nat := 0
  capAt   : Nat := 0
  throttle : Nat := 95
  /-- TICK (ns) of the last move of the thermal limiter plus 1; of the first sample at or below threshold - 3 plus 1 -/
  thermAt : Nat := 0
  coolAt  : Nat := 0
  /-- Tj of the last THERMAL_HIGH, plus 1 -/
  highTj  : Nat := 0
  hold    : Nat := 10
  /-- TICK (ns) from which the alert and the margin limiter next ease and the lock limiter clears -/
  alertAt : Nat := 0
  marginAt : Nat := 0
  lockAt  : Nat := 0
  gateSpad : Bool := false
  gateCav : Bool := false
  gateDelay : Nat := 1000
  /-- TICK (ns) at which the task ended plus 1, while the gate delay runs -/
  endAt   : Nat := 0
  /-- scratchpad, Cavern are powered down after the task (R430) -/
  spadOff : Bool := false
  cavOff  : Bool := false
  dieOff  : Nat := 0
  dieOffCur : Nat := 0
  /-- last reading of each junction sensor, key source x 16 + sensor: 1 + the 16-bit pattern in 0.1 °C -/
  temps   : Tbl Nat := []
  /-- PW_TEMP: Tj in 0.1 °C as a 16-bit pattern, and the hottest sensor's source -/
  tj      : Nat := 0
  tjSrc   : Nat := 0
  /-- sensors whose last reading was at or above 110 °C: source x 16 + sensor -/
  hot     : List Nat := []
  inlet   : Nat := 0
  outlet  : Nat := 0
  flow    : Nat := 0
  /-- TICK (ns) of the last COOLANT of each cause, plus 1 -/
  coolantAt : Tbl Nat := []
  /-- sums of both inputs over the present ms in 0.1 W, and their samples; the sum and samples of the capping window -/
  accA    : Nat := 0
  accB    : Nat := 0
  accN    : Nat := 0
  capSum  : Nat := 0
  capN    : Nat := 0
  /-- the module is off after an orderly stop or THERMTRIP (R424, R442) -/
  off     : Bool := true
  /-- the orderly stop of a module that is off has not ended (R424, R444) -/
  stopping : Bool := false
  thermtrip : Bool := false
  -- jobs (R434-R437), by group
  /-- host state, job state held -/
  host    : Tbl Nat := []
  job     : Tbl Nat := []
  /-- latest limit and SEQ announced by member m at key group x 1024 + MID [9:0]: 1 + LIMIT + 16 SEQ -/
  limits  : Tbl Nat := []
  /-- state of the last JOBFREQ sent to a member, 1 + STATE, same key; absent before the first -/
  told    : Tbl Nat := []
  /-- announcements made for a group, the limit announced last plus 1, TICK (ns) of the last plus 1 -/
  annSeq  : Tbl Nat := []
  annLim  : Tbl Nat := []
  /-- TICK (ns) of the last THROTTLE to a leader, by its MID, plus 1 -/
  annAt   : Tbl Nat := []
  deriving DecidableEq, Repr

/-! ### Hatcheck, sampler and Gauntlet (9, 10) -/

/-- States of a Hatcheck entry (Table 9-2). -/
inductive EState where
  | free | queued | prefill | decode | paused | parked | done | cancelling
  deriving DecidableEq, Repr

/-- What the header and the blocks of a park image depend on (R297). -/
structure ParkHead where
  handle  : Nat
  modelId : Nat
  cls     : Nat
  w       : Nat
  geo     : Nat
  banch   : Nat
  bwin    : Nat
  deriving DecidableEq, Repr

/-- A park write-out or a restore read-in in progress (R298, R300). -/
inductive Xfer where
  | none
  /-- reading the frames of image `id` that lie on peers: the bytes of all its frames so far, and the frames it pins -/
  | collecting (id : Nat) (head : ParkHead) (raw : List Byte) (pins : List Nat)
  /-- writing an image to PARKADDR; the frames it pins -/
  | writing (image : List Byte) (pins : List Nat)
  | written (pins : List Nat)
  | writeFailed (pins : List Nat)
  /-- reading the image into the frames allocated under this root -/
  | reading (root : Nat)
  | read (root : Nat)
  | readFailed (root : Nat)
  deriving DecidableEq, Repr

/-- A Hatcheck entry: the fields of Tables 9-2, 10-1 and 16-6, and what the serving engine records beside them. -/
structure Entry where
  gen     : Nat := 0
  modelId : Nat := 0
  midx    : Nat := 0
  state   : EState := .free
  prio    : Nat := 0
  cls     : Nat := 0
  depth   : Nat := 0
  keep    : Bool := false
  late    : Bool := false
  xfer    : Bool := false
  end_    : Nat := 0
  fresh   : Bool := false
  shadow  : Bool := false
  plen    : Nat := 0
  pdone   : Nat := 0
  maskh   : Nat := 0
  ngen    : Nat := 0
  maxnew  : Nat := 0
  gstate  : Nat := 0
  pthead  : Nat := 0
  prefH   : Nat := 0
  deadline : Nat := 0
  seed    : Nat := 0
  temp    : Nat := 0
  topp    : Nat := 0
  topk    : Nat := 0
  smode   : Bool := false
  expk    : Nat := 0
  last    : Nat := 0
  cring   : Nat := 0
  ttl     : Nat := 0
  tag     : Nat := 0
  stop0   : Nat := 0
  stop1   : Nat := 0
  stop2   : Nat := 0
  stop3   : Nat := 0
  scode   : Nat := 0
  aseq    : Nat := 0
  prompt  : Nat := 0
  parkAddr : Nat := 0
  expiry  : Nat := 0
  dpthead : Nat := 0
  dheld   : Nat := 0
  lv      : Bool := false
  wprop   : Nat := 0
  wacc    : Nat := 0
  wgr     : Nat := 0
  emitpos : Nat := 0
  ev      : Bool := false
  -- beside the 128 B
  /-- state from which the entry became CANCELLING -/
  came    : EState := .free
  /-- the first prompt token of the next grant is LAST (R274) -/
  ownFirst : Bool := false
  /-- tokens staged for the next prefill grant, the first one at position PDONE (R275) -/
  staged  : List Nat := []
  /-- a fetched token is out of range (END INPUT) -/
  badInput : Bool := false
  /-- a prompt fetch failed; SERVE_ERROR(PROMPT_IO) was raised -/
  retry   : Bool := false
  ioTold  : Bool := false
  /-- recorded PARK: address, length, TTL -/
  parkRec : Option (Nat × Nat × Nat) := none
  restoreRec : Bool := false
  /-- DEPTH recorded by the governor for phase 4 -/
  depthRec : Option Nat := none
  transfer : Xfer := .none
  /-- draft tokens held for the next grant (R312) -/
  drafts  : List Nat := []
  /-- an end was recorded at the present boundary; phase 1 left the entry PAUSED -/
  ended   : Bool := false
  /-- W of the last acknowledged mirror point (R456); of the last installed point for a shadow -/
  mpos    : Nat := 0
  /-- a shadow's inactive state frames, and its forwarded commands: point sequence, opcode and payload (R459, R461) -/
  spare   : List Nat := []
  forwards : List (Nat × Nat × List Byte) := []
  /-- a NOTICE freed the shadow (R460) -/
  freed   : Bool := false
  /-- sequence of the last installed point of the shadow, and the step number its POINT_END gave (R459) -/
  pointSeq : Nat := 0
  pointStep : Nat := 0
  /-- position of the last TOKEN record written (R460) -/
  lastTok : Option Nat := none
  deriving DecidableEq, Repr

/-- A model record (Table 9-1). -/
structure Model where
  id      : Nat := 0
  group   : Nat := 0
  lanes   : Nat := 0
  planes  : Nat := 0
  maxdepth : Nat := 0
  pchunk  : Nat := 0
  kvgeo   : Nat := 0
  vocab   : Nat := 0
  draft   : Nat := 0
  banch   : Nat := 0
  bwin    : Nat := 0
  deriving DecidableEq, Repr

/-- A sampled row: logits counted, candidates best first (R284), and the tiles that emitted for it with their header
lines. -/
structure Row where
  count : Nat := 0
  cands : List (Nat × BitVec 32) := []
  tiles : List (Nat × Nat) := []
  /-- draft rows: the token drawn, once it is; the feed was written (R308, R309) -/
  drawn : Option Nat := none
  tried : Bool := false
  fed   : Bool := false
  deriving DecidableEq, Repr

/-- A filled lane (R278, R281, R306). -/
structure Grant where
  slot   : Nat := 0
  handle : Nat := 0
  pos0   : Nat := 0
  ntok   : Nat := 0
  d      : Nat := 0
  /-- 1 prefill, 2 decode -/
  kind   : Nat := 0
  sample : Bool := false
  fresh  : Bool := false
  head   : Nat := 0
  limit  : Nat := 0
  tokens : List Nat := []
  /-- real drafts offered: DHELD at the fill -/
  dheld  : Nat := 0
  isDraft : Bool := false
  rows   : Tbl Row := []
  /-- sampler entries reserved (R279) -/
  pool   : Nat := 0
  deriving DecidableEq, Repr

/-- A slice on its way to the serving engine (R283). -/
structure Slice where
  tile  : Nat
  line  : Nat
  data  : List Byte
  txn   : Nat
  deriving DecidableEq, Repr

/-- A prefix slot (R495). -/
structure PrefixSlot where
  gen    : Nat := 0
  live   : Bool := false
  midx   : Nat := 0
  blocks : Nat := 0
  /-- references of the blocks, in index order, and every frame pinned -/
  refs   : List Nat := []
  pins   : List Nat := []
  deriving DecidableEq, Repr

/-- Speculation counters of a model (Table 10-5). -/
structure SpecCount where
  drawn    : Nat := 0
  verifies : Nat := 0
  proposed : Nat := 0
  accepted : Nat := 0
  fillers  : Nat := 0
  deriving DecidableEq, Repr

/-- A transfer whose request was cancelled while it ran: it runs to its end (R290). -/
structure Orphan where
  slot  : Nat
  grp   : Nat
  geo   : Nat
  addr  : Nat
  xfer  : Xfer
  deriving DecidableEq, Repr

/-- The serving engine. -/
structure Serve where
  entries : Tbl Entry := []
  models  : Tbl Model := []
  aseq    : Nat := 0
  /-- filled lanes: resident index x 32 + lane -/
  grants  : Tbl Grant := []
  /-- the step each model's lane table serves -/
  tabStep : Tbl Nat := []
  slices  : List Slice := []
  /-- SSTOP reports: resident index x 32 + lane, 1 + the smallest CODE -/
  sstops  : Tbl Nat := []
  prefixes : Tbl PrefixSlot := []
  /-- loads and unloads since PERST#: each adds 1 to the generation of every prefix handle (R488, R495) -/
  prefGen : Nat := 0
  counts  : Tbl SpecCount := []
  orphans : List Orphan := []
  -- mask store (R291)
  store   : Memory := []
  /-- descriptors: kind (1 allow-list, 2 class map, 3 grammar) x 256 + index -/
  desc    : Tbl (BitVec 128) := []
  /-- the store and the descriptors before the last commit applied, which the groups of tblOld still read -/
  oldStore : Memory := []
  oldDesc : Tbl (BitVec 128) := []
  tblOld  : List Nat := []
  /-- staged words of the store, by word index, and staged descriptors -/
  stWords : Tbl Nat := []
  stWritten : List Nat := []
  stDesc  : Tbl (BitVec 128) := []
  tblAddr : Nat := 0
  tblState : Nat := 0
  tblReason : Nat := 0
  tblObj  : Nat := 0
  /-- a write found the 4 MiB staging area full -/
  stFull  : Bool := false
  -- governor (R315)
  gov     : Tbl (BitVec 64) := []
  stGov   : Tbl (BitVec 64) := []
  /-- groups in which a commit being applied is not yet in force -/
  govOld  : List Nat := []
  gtAddr  : Nat := 0
  gtState : Nat := 0
  gtReason : Nat := 0
  gtMidx  : Nat := 0
  -- export ring (R294)
  expBase : Nat := 0
  expEn   : Bool := false
  expSize : Nat := 0
  expHead : Nat := 0
  expTail : Nat := 0
  expDrop : Nat := 0
  /-- bytes of the record written last, while its write may still fail (R472) -/
  expLast : Nat := 0
  full    : Nat := 0
  emitBad : Nat := 0
  nonfinite : Nat := 0
  ttlA    : Nat := 3600
  ttlB    : Nat := 600
  deriving DecidableEq, Repr

/-! ### Twin failover (16) -/

/-- Mirroring of one group of this module to its twin (R456-R458). -/
structure Mirror where
  /-- points taken, and the step number of the last one -/
  seq    : Nat := 0
  at_    : Nat := 0
  /-- a point is not yet acknowledged -/
  busy   : Bool := false
  /-- mirror pins it holds, and the W of each entry captured -/
  pins   : List Nat := []
  marks  : List (Nat × Nat) := []
  deriving DecidableEq, Repr

/-- A point of the twin that arrives here (R458, R459). -/
structure Landing where
  /-- point sequence modulo 2^24 -/
  seq     : Nat := 0
  /-- handle, W, 128 B -/
  entries : List (Nat × Nat × List Byte) := []
  /-- handle, reference index, eighth, data, the words of it that came as poison -/
  frames  : List (Nat × Nat × Nat × List Byte × List Nat) := []
  /-- POINT_END has come: its request to answer, the ENTRYs and FRAMEs it counts, and its step number -/
  ended   : Option (Nat × Nat × Nat) := none
  entryN  : Nat := 0
  frameN  : Nat := 0
  step    : Nat := 0
  /-- the twin has abandoned the point: what still comes for it is discarded -/
  gone    : Bool := false
  /-- frames of shadows to be: handle, root, inactive state frames -/
  roots   : List (Nat × Nat × List Nat) := []
  /-- placed: its data are being written -/
  placed  : Bool := false
  /-- handles freed meanwhile by a NOTICE: their copies are discarded (R470) -/
  drop    : List Nat := []
  deriving DecidableEq, Repr

/-- The twin unit. -/
structure Twin where
  paired  : Bool := false
  interval : Nat := 8
  alt     : Nat := 0
  mid     : Nat := 0xFFFF
  /-- a TWIN_CFG awaits the PAIR exchange; the interval and the alternate path it brings -/
  asking  : Bool := false
  asked   : Nat × Nat := (8, 0)
  /-- the last PAIR received: MID and IMAGE_ID -/
  seen    : Option (Nat × Nat) := none
  hbSeq   : Nat := 0
  /-- TICK (ns) of the last HEARTBEAT received -/
  heard   : Nat := 0
  lost    : Bool := false
  back    : Bool := false
  /-- an ADOPT is recorded; groups that have not yet adopted -/
  adopt   : Bool := false
  adopting : List Nat := []
  /-- the FENCE of the first adopting boundary has been sent -/
  sentFence : Bool := false
  fenced  : Bool := false
  /-- new requests take the own half (R454) -/
  ownHalf : Bool := false
  /-- P15 left service while paired: mirroring stands still (R463) -/
  linkOff : Bool := false
  mirrors : Tbl Mirror := []
  landings : Tbl Landing := []
  /-- forwards made, to number them (R461) -/
  fwd     : Nat := 0
  skip    : Nat := 0
  defer_  : Nat := 0
  /-- slots whose guest frames the next phase 3 reclaims (R466) -/
  guests  : List Nat := []
  /-- last point installed of each group, and the step number of the last POINT_END that came for it -/
  pointAt : Tbl Nat := []
  stepAt  : Tbl Nat := []
  deriving DecidableEq, Repr

/-! ### Start-up, pins and buses (17, 18, 20, 21) -/

/-- Start-up (Tables 18-1 to 18-3). -/
structure Boot where
  pwrOk   : Bool := false
  /-- PWR_OK asserted while no input was present: acted on when one is (Table 21-5) -/
  pwrWait : Bool := false
  /-- PERST# and RESET# asserted -/
  perst   : Bool := true
  resetN  : Bool := false
  /-- PERST# has not deasserted since PWR_OK asserted: its deassertion belongs to the cold start (R507) -/
  cold    : Bool := false
  /-- a start has begun; PHASE of CE_STATUS (7: READY reported) -/
  started : Bool := false
  phase   : Nat := 0
  /-- phase 1 awaits HALF and RACK (WAIT_ID) -/
  waitId  : Bool := false
  /-- phases 5 and 6 have ended -/
  checked : Bool := false
  aligned : Bool := false
  /-- READY has been reported since the last cold start -/
  everReady : Bool := false
  /-- a full plan taken before phase 4, not yet read: its ring and packet (R516) -/
  heldPlan : Option (Nat × List Byte) := none
  /-- PCIe link trained -/
  pcie    : Bool := false
  /-- standby domain powered, and the SLOT_ID sampled for its address (R559, R569) -/
  standby : Bool := false
  smbSlot : Nat := 0
  /-- IDENTITY: the value last written; a value that waits for the next start -/
  ident   : Option Nat := none
  identPend : Bool := false
  lastOff : Nat := 0
  /-- payload of the departure notice that the last orderly stop sent on P15 -/
  depart  : List Byte := []
  deriving DecidableEq, Repr

/-- What the buses last returned. -/
structure Buses where
  /-- data of the last BAR0 read -/
  rdata   : Nat := 0
  /-- upper halves latched by BAR0 reads of lower halves: 1 + value, by register offset (R544) -/
  latch   : Tbl Nat := []
  /-- data of the last SMBus read, and whether the transfer was acknowledged -/
  smb     : List Byte := []
  smbAck  : Bool := true
  deriving DecidableEq, Repr

/-- What manufacture fixes: the serial number and the stepping (B0, else A1). -/
structure Made where
  serial : Nat := 0
  b0     : Bool := true
  deriving DecidableEq, Repr

/-! ### The whole -/

/-- The state of the module. -/
structure State where
  /-- commands that wait, first in, first out -/
  pending : List Instr := []
  /-- the model's own: numbers the free values (log 2) -/
  free    : Nat := 0
  tiles   : Tbl Tile := []
  dies    : Tbl Die := []
  mem     : Mem := {}
  img     : Image := {}
  er      : Errors := {}
  ce      : Ce := {}
  fw      : Firmware := {}
  dbg     : Debug := {}
  net     : Net := {}
  fab     : Fab := {}
  pages   : Pages := {}
  tm      : Time := {}
  groups  : Tbl Group := []
  ck      : Clock := {}
  pw      : Power := {}
  sv      : Serve := {}
  tw      : Twin := {}
  boot    : Boot := {}
  bus     : Buses := {}
  made    : Made := {}
  id      : Ident := {}
  deriving DecidableEq, Repr

/-- The state right after reset. -/
def State.reset : State := {}

end Sys2Proof.Machine
end

