-- ==== Sys2Proof/Machine/Ops.lean ====
section
/-! DEFINITION. Named operations every family shares: tiles and dies, events, the error log and counters, retirement,
the binding of virtual tiles, faults, and accesses to scratchpad and Cavern. -/

namespace Sys2Proof.Machine

/-- 64-bit counters stop at their limit (R546). -/
def count64 (n : Nat) (k : Nat := 1) : Nat := min (n + k) (2 ^ 64 - 1)

/-- What a step answers. -/
abbrev Out := Host.Outcome State Fault Refusal

/-- The time count in ns (R379). -/
def State.now (s : State) : Nat := s.tm.tick / 65536

def State.tile (s : State) (k : Nat) : Tile := tget {} s.tiles k
def State.setTile (s : State) (k : Nat) (t : Tile) : State := { s with tiles := tset {} s.tiles k t }
def State.modTile (s : State) (k : Nat) (f : Tile → Tile) : State := s.setTile k (f (s.tile k))
def State.die (s : State) (d : Nat) : Die := tget {} s.dies d
def State.setDie (s : State) (d : Nat) (x : Die) : State := { s with dies := tset {} s.dies d x }
def State.modDie (s : State) (d : Nat) (f : Die → Die) : State := s.setDie d (f (s.die d))

/-- A fresh free value: the counter that selects it, and the state that has passed it (log 2). -/
def State.fresh (s : State) : Nat × State := (s.free, { s with free := s.free + 1 })

/-! ### Events (R480, R502) -/

/-- Raise an event: it takes the TICK and the next SEQ and waits for its ring; before the ring is first enabled at
most 256 are held (R480) (log 76). -/
def raise (s : State) (code cause : Nat) (data : List Byte) : State :=
  let ev := s.ce.ev
  let r : EvRec := ⟨s.now, code, cause, ev.seq, padTo 16 data⟩
  let ev := { ev with seq := (ev.seq + 1) % 2 ^ 32 }
  let ev :=
    if ev.opened || ev.wait.length < 256 then { ev with wait := ev.wait ++ [r] }
    else { ev with lost := ev.lost + 1, lostNew := ev.lostNew + 1 }
  { s with ce := { s.ce with ev := ev } }

/-! ### Error log (R452) -/

/-- Write one record to the log ring, stamped with the TICK (log 104). -/
def logErr (s : State) (r : LogRec) : State :=
  let e := s.er
  let i := e.head % 4096
  let old := tget {} e.log i
  { s with er := { e with
      log := tset {} e.log i { r with tick := s.now, isRead := false }
      head := e.head + 1
      lost := if e.head ≥ 4096 ∧ old.isRead = false then e.lost + 1 else e.lost
      capIdx := if e.capIdx = some i then none else e.capIdx } }

/-! ### Resource identifiers (Table 16-1) and physical positions -/

def residTile (d row col : Nat) : Nat := 1 * 2 ^ 28 + d * 2 ^ 24 + row * 2 ^ 20 + col * 2 ^ 16
def residBank (d row col b : Nat) : Nat := 2 * 2 ^ 28 + d * 2 ^ 24 + row * 2 ^ 20 + col * 2 ^ 16 + b * 2 ^ 12
def residSub (d stack layer sub : Nat) : Nat := 3 * 2 ^ 28 + d * 2 ^ 24 + stack * 2 ^ 22 + layer * 2 ^ 21 + sub
def residLane (b dir lane : Nat) : Nat := 4 * 2 ^ 28 + b * 2 ^ 24 + dir * 2 ^ 23 + lane
def residPort (p : Nat) : Nat := 5 * 2 ^ 28 + p * 2 ^ 24
/-- Compute die of a tile, bank or sub-array; 0 of another resource (Table 16-4). -/
def residDie (r : Nat) : Nat := if 1 ≤ r / 2 ^ 28 ∧ r / 2 ^ 28 ≤ 3 then r / 2 ^ 24 % 8 else 0

/-- Every resource held retired, recorded or volatile (R448). -/
def State.retiredAll (s : State) : List Nat := s.er.retired ++ s.er.volatile_

/-- A tile is retired when it or one of its banks is (R448) (log 31). -/
def State.tileRetired (s : State) (d row col : Nat) : Bool :=
  s.retiredAll.contains (residTile d row col) ||
    (List.range 16).any (fun b => s.retiredAll.contains (residBank d row col b))

/-- Row and virtual column of a virtual tile index (R12). -/
def vtRow (vt : Nat) : Nat := vt / 15
def vtCol (vt : Nat) : Nat := vt % 15

/-- Physical column of virtual column `c` of a row: the (c + 1)-th column not skipped (R48). -/
def State.physCol (s : State) (d row c : Nat) : Nat :=
  let sk := tget 0 s.img.skip (d * 16 + row)
  ((numsWhere 16 (fun p => !bit sk p))[c]?).getD 15

/-- The tile index names a bound tile of the die (R52). -/
def State.bound (s : State) (d vt : Nat) : Bool :=
  let g := tget 0 s.img.grid d
  s.img.loaded && decide (vt < 240) && (g == 2 || (g == 1 && vt % 15 != 14))

/-- Bound tiles of a die, ascending. -/
def State.boundTiles (s : State) (d : Nat) : List Nat := numsWhere 240 (s.bound d)

/-- Group of a die, if any (R118). -/
def State.groupOf (s : State) (d : Nat) : Option Nat :=
  let g := tget 0 s.img.groupOf d
  if g = 0 then none else some (g - 1)

/-- Dies of a group. -/
def State.groupDies (s : State) (g : Nat) : List Nat := numsWhere 8 (fun d => s.groupOf d == some g)

/-- Step number of a group (R119). -/
def State.stepNo (s : State) (g : Nat) : Nat := tget 0 s.ce.step g

def State.stepOfDie (s : State) (d : Nat) : Nat := match s.groupOf d with | some g => s.stepNo g | none => 0

/-! ### Windowed counters and retirement (R446-R448) -/

/-- Class of a RESID. -/
def residClass (r : Nat) : Nat := r / 2 ^ 28 % 16

def State.threshOf (s : State) (r : Nat) : Nat := if residClass r = 1 then 1 else tget 0 s.er.thresh (residClass r)

/-- Add a resource to the retired set: log it, raise RETIRED with its cause (R448). -/
def retire (s : State) (r cause : Nat) : State :=
  if s.retiredAll.contains r then s else
  let full := decide (s.er.retired.length ≥ 4096)
  let er := if full then { s.er with volatile_ := s.er.volatile_ ++ [r] }
            else { s.er with retired := s.er.retired ++ [r] }
  let s := logErr { s with er := er } { kind := 6, cause := 0x80, resid := r, flags := if full then 2 else 0, die := residDie r }
  raise s 0x80 cause (leBytes 4 r)

/-- count(r, n) of R446, with its log record of the given KIND (log 104). -/
def countErr (s : State) (r n kind addr : Nat) : State :=
  let c := tget {} s.er.counters r
  let win := tget 0 s.er.win (residClass r)
  let c := if c.count = 0 ∨ s.now - c.wstart ≥ win * 1000000 then { count := 0, wstart := s.now } else c
  let c := { c with count := min (c.count + n) 65535 }
  let th := s.threshOf r
  let hit := decide (th ≠ 0 ∧ c.count ≥ th)
  let s := { s with er := { s.er with counters := tset {} s.er.counters r c } }
  let s := logErr s { kind := kind, cause := if kind = 2 then 0x14 else 0, resid := r, addr := addr, count := c.count,
                      flags := b2n hit, die := residDie r }
  if hit then retire s r (if kind = 2 then 2 else 1) else s

/-! ### Tile faults (R107, R108, Table 17-15) -/

/-- Cause codes of Table 17-15. -/
def Cause.code : Cause → Nat
  | .regionFull => 0x01 | .regionEmpty => 0x02 | .noTile => 0x03 | .ftqFull => 0x04 | .ftqEmpty => 0x05
  | .bankConflict => 0x06 | .codeWrite => 0x07 | .cavernBudget => 0x08 | .address => 0x09 | .noPeer => 0x0A
  | .bankOff => 0x0B | .uncorrectable => 0x0C | .cavernUe => 0x0D | .fetch => 0x0E | .unitBusy => 0x0F
  | .strict => 0x10 | .mxMode => 0x11 | .gang => 0x12 | .vxCfg => 0x13 | .noPage => 0x14 | .staleFrame => 0x15
  | .linkConflict => 0x16 | .channel => 0x17 | .outboxFull => 0x18 | .gate => 0x19 | .encoding => 0x1A

/-- Place of a slot in the order of R101. -/
def Slot.rank : Slot → Nat
  | .ct => 0 | .mv => 1 | .nx => 2 | .mx => 3 | .vx => 4 | .other => 5

/-- The causes of a slot in the order of R108: ENCODING, UNIT_BUSY, then as the lists of the slot's instructions name
them (R97-R99, R262; R337, R339, R282, R283; R162-R164; R237). -/
def Slot.causes : Slot → List Cause
  | .ct => [.encoding, .fetch, .uncorrectable]
  | .mv => [.encoding, .unitBusy, .address, .noTile, .regionFull, .regionEmpty, .bankOff, .bankConflict, .codeWrite,
      .cavernBudget, .noPage, .staleFrame, .noPeer, .uncorrectable, .cavernUe]
  | .nx => [.encoding, .unitBusy, .strict, .channel, .address, .noTile, .noPeer, .outboxFull, .regionFull, .regionEmpty,
      .bankOff, .bankConflict, .codeWrite, .linkConflict, .uncorrectable, .gate]
  | .mx => [.encoding, .unitBusy, .gang, .mxMode, .address, .ftqFull, .regionEmpty, .bankOff, .bankConflict, .codeWrite,
      .uncorrectable]
  | .vx => [.encoding, .unitBusy, .vxCfg, .gang, .strict, .ftqEmpty, .address, .noTile, .noPeer, .regionFull, .regionEmpty,
      .bankOff, .bankConflict, .codeWrite, .uncorrectable]
  | .other => [.channel, .bankConflict]

/-- Place of a cause in the list of its slot. -/
def Slot.place (sl : Slot) (c : Cause) : Nat := sl.causes.idxOf c

/-- DIE, VTILE, BUNDLE, STEP of a TILE_FAULT record (Table 17-14). -/
def State.faultData (s : State) (k bundle : Nat) : List Byte :=
  leBytes 1 (k / 256) ++ leBytes 1 (k % 256) ++ leBytes 2 bundle ++ leBytes 4 (s.stepOfDie (k / 256))

/-- A tile faults for the instruction of a slot of bundle `bundle`: its die stops at the bundle boundary, where the
fault is reported (R107). A tile that has faulted in an earlier cyc only logs it. -/
def faultAt (s : State) (k bundle : Nat) (slot : Slot) (c : Cause) (ga : Nat := 0) : State :=
  let t := s.tile k
  if t.seq = .faulted then
    logErr s { kind := 5, cause := c.code, addr := ga, bundle := bundle, vtile := k % 256, die := k / 256 }
  else
    let f : TFault := ⟨slot, c, bundle, ga⟩
    let seen := t.faults.any (fun g => g.slot == slot && g.cause == c && g.bundle == bundle)
    let s := s.setTile k { t with faultNow := true, faults := if seen then t.faults else t.faults ++ [f] }
    s.modDie (k / 256) (fun d => { d with stop := { d.stop with atEnd := true } })

/-- A fault of the bundle that issues now. -/
def tileFault (s : State) (k : Nat) (slot : Slot) (c : Cause) (ga : Nat := 0) : State :=
  faultAt s k (s.tile k).pc slot c ga

/-- One fault is reported before another: the lower slot, then the cause its list names first (R108) (log 108). -/
def TFault.before (a b : TFault) : Bool :=
  decide (a.slot.rank < b.slot.rank) || (a.slot.rank == b.slot.rank && decide (a.slot.place a.cause < b.slot.place b.cause))

/-- The fault of a list that TILE_FAULT carries. -/
def firstOf : List TFault → Option TFault
  | [] => none
  | f :: l => match firstOf l with
    | none => some f
    | some g => some (if g.before f then g else f)

/-- The tile has faulted (TSTATE 4). -/
def Tile.toFaulted (t : Tile) : Tile := { t with seq := .faulted, faultNow := false }

/-- The record of a fault in the error log (R452). -/
def TFault.log (f : TFault) (k kind : Nat) : LogRec :=
  { kind := kind, cause := f.cause.code, addr := f.ga, bundle := f.bundle, vtile := k % 256, die := k / 256 }

/-- At the end of the cyc: TILE_FAULT for the first fault of the tile, an error-log record for every one (R107, R108).
A gate's fault has its own event (R335). -/
def reportFaults (s : State) (k : Nat) : State :=
  let t := s.tile k
  match firstOf t.faults with
  | none => s
  | some f =>
    let s := s.setTile k { t with faults := [], fault := f.cause.code }
    let s := logErr s (f.log k 4)
    let s := if f.cause = .gate then s else raise s 0x10 f.cause.code (s.faultData k f.bundle ++ leBytes 6 f.ga)
    (t.faults.erase f).foldl (fun s g => logErr s (g.log k 5)) s

/-- The debug port does not hold the die: it is not halted, or has cyc of a STEP left (R534, R536). -/
def DieStop.live (x : DieStop) : Bool := !x.halted || (match x.step with | some n => decide (0 < n) | none => false)

/-- The die issues bundles: no fault stop, gate hold, halt, clock stop or fence. -/
def Die.runs (d : Die) : Bool :=
  !d.stop.fault && !d.held && !d.stop.ref && !d.stop.xing && !d.stop.fenced && d.stop.live

/-- The tile issues a bundle in this cyc, and the turn of the slot is not past (R101). -/
def State.canIssue (s : State) (x : Site) (sl : Slot) : Bool :=
  s.bound x.die.val x.vt.val && (s.die x.die.val).runs && (s.tile x.key).seq == .issuing &&
    decide ((s.tile x.key).passed ≤ sl.rank)

/-- The slot of a bundle issues: the turn of every slot up to it is past. -/
def State.pass (s : State) (x : Site) (sl : Slot) : State := s.modTile x.key fun t => { t with passed := sl.rank + 1 }

/-- An instruction of a slot acts only where its tile issues, and after the instructions of the slots before it (R101)
(log 4, log 19). -/
def issue (x : Site) (sl : Slot) (s : State) (f : State → State) : State :=
  if s.canIssue x sl then f (s.pass x sl) else s

/-- The causes whose conditions hold. -/
def causesOf (l : List (Bool × Cause)) : List Cause := (l.filter (·.1)).map (·.2)

/-- Fault with every cause that applies, of which TILE_FAULT names one and the error log counts the others (R108); else
act. -/
def checked (s : State) (k : Nat) (slot : Slot) (l : List (Bool × Cause)) (act : State → State) : State :=
  match causesOf l with
  | [] => act s
  | cs => cs.foldl (fun s c => tileFault s k slot c) s

/-- The checks of an instruction that requests no work where `work` is false: it then has only the causes `pre`
(R28, R108). -/
def checkedWork (s : State) (k : Nat) (slot : Slot) (pre : List (Bool × Cause)) (work : Bool) (l : List (Bool × Cause))
    (act : State → State) : State :=
  if work then checked s k slot (pre ++ l) act else checked s k slot pre id

/-! ### Unit resources (R106, R142, R200, R336) -/

/-- Unit resources of a tile. -/
inductive Res where
  | mvPort | mxEntry | mxLoad | mxRead | mxSwap | vxChain | vxCfg | vxTab | nxSend | nxChan | nxGate | nxServe | gangLink
  deriving DecidableEq, Repr

def Res.idx : Res → Nat
  | .mvPort => 0 | .mxEntry => 1 | .mxLoad => 2 | .mxRead => 3 | .mxSwap => 4 | .vxChain => 5 | .vxCfg => 6
  | .vxTab => 7 | .nxSend => 8 | .nxChan => 9 | .nxGate => 10 | .nxServe => 11 | .gangLink => 12

def State.busyRes (s : State) (k : Nat) (r : Res) : Bool :=
  decide ((s.die (k / 256)).cyc < tget 0 (s.tile k).busy r.idx)

/-- Hold a resource for the occupancy and note the latency (R19, R120). -/
def occupy (s : State) (k : Nat) (r : Res) (occ lat : Nat) : State :=
  let c := (s.die (k / 256)).cyc
  s.modTile k (fun t => { t with busy := tset 0 t.busy r.idx (c + occ), quietAt := max t.quietAt (c + lat) })

/-- An instruction that issues now leaves its work for the cyc to come; `lat` is its latency (R105). -/
def addJob (s : State) (k : Nat) (slot : Slot) (lat : Nat) (w : Work) : State :=
  let c := (s.die (k / 256)).cyc
  s.modTile k (fun t => { t with jobs := t.jobs ++ [⟨slot, c, t.pc, c + lat, w⟩] })

/-- TP2 image (R125). -/
def State.tp2 (s : State) : Bool := s.img.profile == 2

/-! ### Scratchpad and Cavern -/

def spKey (k off : Nat) : Nat := k * 2 ^ 20 + off % 2 ^ 20
def cvKey (d off : Nat) : Nat := d * 2 ^ 32 + off % 2 ^ 32

def State.spByte (s : State) (k off : Nat) : Byte := mget s.mem.spad (spKey k off)

/-- `n` bytes from an offset, wrapping in the scratchpad. -/
def State.spBytes (s : State) (k off : Nat) : Nat → List Byte
  | 0 => []
  | n + 1 => s.spByte k off :: State.spBytes s k (off + 1) n

def State.spNat (s : State) (k off n : Nat) : Nat := leNat (s.spBytes k off n)

def State.cvByte (s : State) (d off : Nat) : Byte := mget s.mem.cav (cvKey d off)

def State.cvBytes (s : State) (d off : Nat) : Nat → List Byte
  | 0 => []
  | n + 1 => s.cvByte d off :: State.cvBytes s d (off + 1) n

/-- A bank of a tile is powered (R86, R430). -/
def State.bankOn (s : State) (k off : Nat) : Bool :=
  !s.pw.spadOff && bit (tget 0 s.img.banks k) (off % 2 ^ 20 / 65536)

/-- A sub-array the usage map names that is not absent (R80, R86). -/
def State.subOn (s : State) (d off : Nat) : Bool :=
  let i := d * 512 + off % 2 ^ 32 / 2 ^ 23
  !s.pw.cavOff && tget 0 s.img.subs i != 0 && tget 0 s.img.absent i == 0

/-- The usage map names the range as Cavern (R82). -/
def State.subNamed (s : State) (d off : Nat) : Bool := tget 0 s.img.subs (d * 512 + off % 2 ^ 32 / 2 ^ 23) != 0

/-- First byte and length of a tile's code region (R45). -/
def State.codeRegion (s : State) (k : Nat) : Nat × Nat :=
  let b := tget 0 s.img.codeBase k
  if b = 0 then (0, 0) else ((b - 1) * 4096, tget 0 s.img.codeLen k * 4096)

def State.inCode (s : State) (k off : Nat) : Bool :=
  let (b, n) := s.codeRegion k
  decide (b ≤ off % 2 ^ 20 ∧ off % 2 ^ 20 < b + n)

/-- Number of bundles of a tile's code region. -/
def State.bundles (s : State) (k : Nat) : Nat := (s.codeRegion k).2 / 32

/-- The resource that an error in a Cavern word counts against: the sub-array, or the spare that serves it (R80). -/
def State.subResid (s : State) (d off : Nat) : Nat :=
  let stack := off / 2 ^ 30 % 4
  let layer := off / 2 ^ 29 % 2
  let sub := off / 2 ^ 23 % 64
  let key (sp : Nat) := d * 16 + stack * 4 + layer * 2 + sp
  if tget 0 s.img.spares (key 0) = sub + 1 then residSub d stack layer 64
  else if tget 0 s.img.spares (key 1) = sub + 1 then residSub d stack layer 65
  else residSub d stack layer sub

def State.bankResid (s : State) (k off : Nat) : Nat :=
  let d := k / 256
  let row := vtRow (k % 256)
  residBank d row (s.physCol d row (vtCol (k % 256))) (off % 2 ^ 20 / 65536)

def State.tileResid (s : State) (k : Nat) : Nat :=
  let d := k / 256
  let row := vtRow (k % 256)
  residTile d row (s.physCol d row (vtCol (k % 256)))

/-- Global address of a scratchpad offset or a Cavern offset of this module (Table 3-4). -/
def gaTile (slot k off : Nat) : Nat := slot * 2 ^ 45 + k / 256 * 2 ^ 42 + k % 256 * 2 ^ 32 + off % 2 ^ 20
def gaCav (slot d off : Nat) : Nat := slot * 2 ^ 45 + d * 2 ^ 42 + 2 ^ 40 + off % 2 ^ 32

/-- What a read of a word finds: clean or corrected data, or an uncorrectable word. -/
def WordErr.bad : WordErr → Bool
  | .single => false
  | .double => true
  | .poisoned => true

/-- A read checks one scratchpad word: a corrected error counts once per address against its bank (R88, R89); the
answer says whether the word is uncorrectable. An uncorrectable word found by a scheduled read counts against the
tile, which is retired (Table 3-6, R447) (log 102). -/
def checkSpWord (s : State) (k w : Nat) : State × Bool :=
  let key := spKey k (8 * w) / 8
  match (s.mem.spadErr.find? (fun e => e.1 == key)).map (·.2) with
  | none => (s, false)
  | some e =>
    if e.bad then (countErr s (s.tileResid k) 1 2 (8 * w), true)
    else
      let b := k * 16 + 8 * w % 2 ^ 20 / 65536
      if tget 0 s.mem.spadCe b = key + 1 then (s, false)
      else
        let s := { s with mem := { s.mem with spadCe := tset 0 s.mem.spadCe b (key + 1) } }
        (countErr s (s.bankResid k (8 * w)) 1 1 (8 * w), false)

/-- The same for a Cavern word, which is queued for rewrite; an uncorrectable one counts THRESH (R89, Table 16-2) (log 102). -/
def checkCvWord (s : State) (d w : Nat) : State × Bool :=
  let key := cvKey d (8 * w) / 8
  match (s.mem.cavErr.find? (fun e => e.1 == key)).map (·.2) with
  | none => (s, false)
  | some e =>
    let r := s.subResid d (8 * w)
    if e.bad then (countErr s r (s.threshOf r) 2 (8 * w), true)
    else
      let b := d * 512 + 8 * w % 2 ^ 32 / 2 ^ 23
      let s := { s with mem := { s.mem with
        lastCe := tset 0 s.mem.lastCe (d * 4 + 8 * w / 2 ^ 30 % 4) (8 * w)
        rewrite := addOnce s.mem.rewrite key } }
      if tget 0 s.mem.cavCe b = key + 1 then (s, false)
      else
        let s := { s with mem := { s.mem with cavCe := tset 0 s.mem.cavCe b (key + 1) } }
        (countErr s r 1 1 (8 * w), false)

/-- Check the words of a list of scratchpad byte ranges. -/
def checkSp (s : State) (k : Nat) (ranges : List (Nat × Nat)) : State × Bool :=
  if s.mem.spadErr.isEmpty then (s, false) else
  ranges.foldl (fun (p : State × Bool) r =>
    (List.range ((r.1 % 8 + r.2 + 7) / 8)).foldl (fun (q : State × Bool) i =>
      let (s', b) := checkSpWord q.1 k ((r.1 / 8 + i) % 2 ^ 17)
      (s', q.2 || b)) p) (s, false)

/-- Check the words of a list of Cavern byte ranges. -/
def checkCv (s : State) (d : Nat) (ranges : List (Nat × Nat)) : State × Bool :=
  if s.mem.cavErr.isEmpty then (s, false) else
  ranges.foldl (fun (p : State × Bool) r =>
    (List.range ((r.1 % 8 + r.2 + 7) / 8)).foldl (fun (q : State × Bool) i =>
      let (s', b) := checkCvWord q.1 d ((r.1 / 8 + i) % 2 ^ 29)
      (s', q.2 || b)) p) (s, false)

/-- The error status of a word after `n` of its 8 bytes are written, poisoned or not (R67, R90). -/
def errAfterWrite (old : Option WordErr) (whole poison : Bool) : Option WordErr :=
  if poison then some .poisoned
  else if whole then none
  else match old with
    | some .double => some .poisoned
    | some .poisoned => some .poisoned
    | _ => none

/-- Table of word statuses without one word, or with a new status. -/
def setErr (t : Tbl WordErr) (key : Nat) : Option WordErr → Tbl WordErr
  | none => tdel key t
  | some e => tins key e (tdel key t)

/-- Statuses after a write of bytes [key, key + n). -/
def errWrite (t : Tbl WordErr) (key n : Nat) (poison : Bool) : Tbl WordErr :=
  if t.isEmpty && !poison then t else
  (List.range ((key % 8 + n + 7) / 8)).foldl (fun t i =>
    let w := key / 8 + i
    let whole := decide (key ≤ 8 * w ∧ 8 * w + 8 ≤ key + n)
    setErr t w (errAfterWrite ((t.find? (fun e => e.1 == w)).map (·.2)) whole poison)) t

/-- A correctable error that a narrow write meets is corrected and counted (R67). -/
def narrowCe (s : State) (k off n : Nat) : State :=
  if s.mem.spadErr.isEmpty then s else
  (List.range ((off % 8 + n + 7) / 8)).foldl (fun s i =>
    let w := off / 8 + i
    if off ≤ 8 * w ∧ 8 * w + 8 ≤ off + n then s
    else if (s.mem.spadErr.find? (fun e => e.1 == spKey k (8 * w) / 8)).map (·.2) = some .single
      then (checkSpWord s k (w % 2 ^ 17)).1 else s) s

/-- Store bytes in a tile's scratchpad at an offset; they do not run past its end. -/
def spPut (s : State) (k off : Nat) (bs : List Byte) (poison : Bool := false) : State :=
  let s := narrowCe s k (off % 2 ^ 20) bs.length
  let key := spKey k off
  { s with mem := { s.mem with
    spad := mputs s.mem.spad key bs
    spadErr := errWrite s.mem.spadErr key bs.length poison } }

/-- The same for a narrow write of Cavern. -/
def narrowCv (s : State) (d off n : Nat) : State :=
  if s.mem.cavErr.isEmpty then s else
  (List.range ((off % 8 + n + 7) / 8)).foldl (fun s i =>
    let w := off / 8 + i
    if off ≤ 8 * w ∧ 8 * w + 8 ≤ off + n then s
    else if (s.mem.cavErr.find? (fun e => e.1 == cvKey d (8 * w) / 8)).map (·.2) = some .single
      then (checkCvWord s d (w % 2 ^ 29)).1 else s) s

/-- Store bytes in a die's Cavern. -/
def cvPut (s : State) (d off : Nat) (bs : List Byte) (poison : Bool := false) : State :=
  let s := narrowCv s d (off % 2 ^ 32) bs.length
  let key := cvKey d off
  { s with mem := { s.mem with
    cav := mputs s.mem.cav key bs
    cavErr := errWrite s.mem.cavErr key bs.length poison } }

/-! ### Watchpoints (R539, R540) -/

/-- How an access reached the scratchpad. -/
inductive Acc where
  | read | write | arrival
  deriving DecidableEq, Repr

/-- Halt a die, with its cause (R533, R538). -/
def haltDie (s : State) (d cause vt bundle : Nat) : State :=
  s.modDie d (fun x =>
    let first := !(x.stop.halted && x.dbgCause.1 == cause && decide (x.dbgCause.2.1 ≤ vt))
    { x with stop := { x.stop with halted := true, step := none }
             dbgCause := if first then (cause, vt, bundle) else x.dbgCause })

/-- Halt a die at the end of the present cyc; one that does not run halts at once. -/
def haltAfter (s : State) (d cause vt bundle : Nat) : State :=
  if (s.die d).runs then
    s.modDie d (fun x =>
      let first := !(x.stop.haltEnd && x.dbgCause.1 == cause && decide (x.dbgCause.2.1 ≤ vt))
      { x with stop := { x.stop with haltEnd := true }
               dbgCause := if first then (cause, vt, bundle) else x.dbgCause })
  else haltDie s d cause vt bundle

/-- One access of a tile's scratchpad against its watchpoints. -/
def watchOne (s : State) (k : Nat) (a : Acc) (off len : Nat) : State :=
  if (s.tile k).wp.isEmpty then s else
  (List.range 2).foldl (fun s i =>
    let w := tget {} (s.tile k).wp i
    let lo := max off w.base
    let hi := min (off + len - 1) w.limit
    let kindOk := match a with | .read => w.rd && !w.vm | .write => w.wr | .arrival => w.arr
    let valOk := !w.vm || (List.range (hi / 8 + 1 - lo / 8)).any (fun j =>
      let v := s.spNat k (8 * (lo / 8 + j)) 8
      v &&& w.vmask == w.value &&& w.vmask)
    if w.en && kindOk && decide (lo ≤ hi ∧ len ≠ 0) && valOk then
      if w.count > 0 then s.modTile k (fun t => { t with wp := tset {} t.wp i { w with count := w.count - 1 } })
      else
        let s := s.modTile k (fun t => { t with wphit := if bit t.wphit i then t.wphit else t.wphit + 2 ^ i })
        haltAfter s (k / 256) 3 (k % 256) (s.tile k).pc
    else s) s

/-- Accesses of a tile's scratchpad against its watchpoints, in order. -/
def watch (s : State) (k : Nat) (a : Acc) (ranges : List (Nat × Nat)) : State :=
  if (s.tile k).wp.isEmpty then s else ranges.foldl (fun s r => watchOne s k a r.1 r.2) s

/-! ### Local accesses of an instruction -/

/-- Scheduled reads of own scratchpad: power, error checks, then watchpoints; the answer says whether the access is
made and its words are good (R86, Table 3-6). -/
def readAcc (s : State) (k bundle : Nat) (slot : Slot) (ranges : List (Nat × Nat)) : State × Bool :=
  let on := ranges.filter (fun r => s.bankOn k r.1)
  let off := on.length != ranges.length
  let s := if off then faultAt s k bundle slot .bankOff else s
  let (s, bad) := checkSp s k on
  let s := watch s k .read on
  (if bad then faultAt s k bundle slot .uncorrectable else s, !off && !bad)

/-- Bytes from an offset cut at the 4 KiB pages they lie in, of which banks and code regions are made up. -/
def pageCuts (off : Nat) (bs : List Byte) : List (Nat × List Byte) :=
  (List.range ((off % 4096 + bs.length + 4095) / 4096)).map fun i =>
    let lo := max off ((off / 4096 + i) * 4096)
    (lo, (bs.drop (lo - off)).take ((off / 4096 + i + 1) * 4096 - lo))

/-- Pieces that are stored, each against the watchpoints. -/
def putPieces (s : State) (k : Nat) (a : Acc) (l : List (Nat × List Byte)) (poison : Bool) : State :=
  l.foldl (fun s p => watchOne (spPut s k p.1 p.2 poison) k a (p.1 % 2 ^ 20) p.2.length) s

/-- A write of own scratchpad by an instruction; the part that would land in the code region is discarded and faults
the tile, and a bank that is off takes nothing (R70, R86). -/
def writeAcc (s : State) (k bundle : Nat) (slot : Slot) (off : Nat) (bs : List Byte) (poison : Bool := false) : State :=
  let ps := pageCuts off bs
  let on := ps.filter (fun p => s.bankOn k p.1)
  let s' := putPieces s k .write (on.filter (fun p => !s.inCode k p.1)) poison
  let s' := if ps.all (fun p => s.bankOn k p.1) then s' else faultAt s' k bundle slot .bankOff
  if on.any (fun p => s.inCode k p.1) then faultAt s' k bundle slot .codeWrite else s'

/-- MEM_DISCARD at a target (R70, R86). SPACE 0 tile, 1 Cavern. -/
def memDiscard (s : State) (d space vt off srcMid : Nat) : State :=
  raise s 0x12 0 (leBytes 1 d ++ leBytes 1 space ++ leBytes 1 vt ++ leBytes 1 0 ++ leBytes 4 off ++ leBytes 2 srcMid)

/-! ### Regions (R72, R73) -/

/-- Bytes a pop may still take in this cyc. -/
def Tile.avail (t : Tile) (r : Nat) : Nat := (tget {} t.regions r).fill - tget 0 t.popped r

/-- Take `n` bytes from HEAD; they leave FILL in the next cyc. -/
def Tile.pop (t : Tile) (r n : Nat) : Tile :=
  let g := tget {} t.regions r
  { t with regions := tset {} t.regions r { g with head := (g.head + n) % g.size }
           popped := tset 0 t.popped r (tget 0 t.popped r + n) }

/-- Reserve `n` bytes at TAIL. -/
def Tile.push (t : Tile) (r n : Nat) : Tile :=
  let g := tget {} t.regions r
  { t with regions := tset {} t.regions r { g with tail := (g.tail + n) % g.size, fill := g.fill + n } }

/-- A pop of `n` bytes fails: the region is empty. -/
def Tile.popFails (t : Tile) (r n : Nat) : Bool := decide (t.avail r < n)

/-- A push of `n` bytes fails: the region is full. -/
def Tile.pushFails (t : Tile) (r n : Nat) : Bool :=
  let g := tget {} t.regions r
  decide (g.size < g.fill + n)

/-- Scratchpad offset of byte position `p` from a region position (R72). -/
def Region.at_ (g : Region) (start p : Nat) : Nat := g.base + (start + p) % g.size

/-! ### Arrival counters (R332, R334) -/

/-- Add 1 to an arrival counter; past 65,535 the increment is lost, counted, and NET_DISCARD raised. Counter 0 is none. -/
def bumpAc (s : State) (k c : Nat) : State :=
  if c = 0 then s else
  let v := tget 0 (s.tile k).ac c
  if v = 0xFFFF then raise { s with net := { s.net with acLost := s.net.acLost + 1 } } 0x13 2 (leBytes 1 (k / 256) ++ leBytes 1 (k % 256) ++ leBytes 1 c)
  else s.modTile k (fun t => { t with ac := tset 0 t.ac c (v + 1) })

/-! ### Quantisation counters (R190) -/

def QPoint.clip (q : QPoint) (c : Nat) : QPoint :=
  { q with clipped := min (q.clipped + c) (2 ^ 48 - 1), wclip := min (q.wclip + c) (2 ^ 32 - 1) }
def QPoint.value_ (q : QPoint) (n : Nat) : QPoint :=
  { q with total := min (q.total + n) (2 ^ 48 - 1), wtotal := min (q.wtotal + n) (2 ^ 32 - 1) }

/-- value_count and clip_count of one point (R178, R190). -/
def countQ (s : State) (k pt n c : Nat) : State :=
  s.modTile k (fun t => { t with qp := tmod {} t.qp pt (fun q => (q.value_ n).clip c) })

/-! ### Gangs (R57, R58) -/

/-- Side and origin of a tile's gang: (side, row, column). -/
def State.gang (s : State) (k : Nat) : Nat × Nat × Nat :=
  let d := k / 256
  let r := vtRow (k % 256)
  let c := vtCol (k % 256)
  if c / 4 < 3 ∧ bit (tget 0 s.img.g4 d) (3 * (r / 4) + c / 4) then (4, r / 4 * 4, c / 4 * 4)
  else if c / 2 < 7 ∧ bit (tget 0 s.img.g2 d) (7 * (r / 2) + c / 2) then (2, r / 2 * 2, c / 2 * 2)
  else (1, r, c)

/-- Key of the reducer of a tile's gang. -/
def State.reducer (s : State) (k : Nat) : Nat :=
  let (_, r, c) := s.gang k
  k / 256 * 256 + r * 15 + c

/-- Member index in its gang. -/
def State.member (s : State) (k : Nat) : Nat :=
  let (g, r0, c0) := s.gang k
  (vtRow (k % 256) - r0) * g + (vtCol (k % 256) - c0)

/-- Entries of a tile's FTQ that are reserved: waiting or popped in this cyc (R61). -/
def Tile.ftqReserved (t : Tile) : Nat := t.ftq.length + t.ftqGone

end Sys2Proof.Machine
end

