-- ==== Sys2Proof/Machine/Chain.lean ====
section
/-! DEFINITION. The fields of a chain configuration (Tables 7-6, 7-7), its latencies (Table 7-9), where its streams lie
in scratchpad (R201-R203, R207) and in which cyc of a VRUN each access falls (R230, R231). -/

namespace Sys2Proof.Machine

/-! ### Configuration fields (Tables 7-6 and 7-7) -/

def Stream.ofNat (d : Nat) : Stream where
  base := bits d 13 0
  inc := bits d 27 14
  fmt := bits d 29 28
  lb := bit d 30
  vg := bits d 36 31
  rstr := signedOf 21 (bits d 57 37)
  vstr1 := signedOf 16 (bits d 73 58)
  vstr2 := signedOf 21 (bits d 94 74)
  hoff := bits d 114 95
  ren := bit d 115
  region := bits d 119 116
  resv := bits d 127 120 != 0

def VCfg.ofBytes (bs : List Byte) : VCfg where
  h := fieldAt bs 0 32
  a := .ofNat (fieldAt bs 32 16)
  b := .ofNat (fieldAt bs 48 16)
  w := .ofNat (fieldAt bs 64 16)
  p := .ofNat (fieldAt bs 80 16)
  d := .ofNat (fieldAt bs 96 16)
  o := .ofNat (fieldAt bs 112 16)

def VCfg.target (c : VCfg) : Nat := bits c.h 255 240
def VCfg.reps (c : VCfg) : F32 := BitVec.ofNat 32 (bits c.h 239 208)
def VCfg.rsc (c : VCfg) : F32 := BitVec.ofNat 32 (bits c.h 207 176)
def VCfg.lutB (c : VCfg) : F32 := BitVec.ofNat 32 (bits c.h 175 144)
def VCfg.lutS (c : VCfg) : F32 := BitVec.ofNat 32 (bits c.h 143 112)
def VCfg.fs (c : VCfg) : F32 := BitVec.ofNat 32 (bits c.h 111 80)
def VCfg.fz (c : VCfg) : Int := signedOf 8 (bits c.h 79 72)
def VCfg.gcnt (c : VCfg) : Nat := bits c.h 71 67
def VCfg.owr (c : VCfg) : Bool := bit c.h 66
def VCfg.pen (c : VCfg) : Bool := bit c.h 65
def VCfg.wr (c : VCfg) : Nat := bits c.h 64 63
def VCfg.qk (c : VCfg) : Nat := bits c.h 62 59
def VCfg.qh (c : VCfg) : Nat := bits c.h 58 56
def VCfg.qpt (c : VCfg) : Nat := bits c.h 55 50
def VCfg.qnt (c : VCfg) : Nat := bits c.h 49 47
def VCfg.maskm (c : VCfg) : Nat := bits c.h 46 45
def VCfg.rpost (c : VCfg) : Nat := bits c.h 44 43
def VCfg.rfin (c : VCfg) : Bool := bit c.h 42
def VCfg.rcont (c : VCfg) : Bool := bit c.h 41
def VCfg.red (c : VCfg) : Nat := bits c.h 40 38
def VCfg.fnc (c : VCfg) : Nat := bits c.h 37 34
def VCfg.mul2 (c : VCfg) : Nat := bits c.h 33 31
def VCfg.mul1 (c : VCfg) : Nat := bits c.h 30 28
def VCfg.addop (c : VCfg) : Nat := bits c.h 27 26
def VCfg.deq (c : VCfg) : Nat := bits c.h 25 24
def VCfg.cols (c : VCfg) : Nat := bits c.h 23 18 + 1
def VCfg.bsrc (c : VCfg) : Nat := bits c.h 17 16
def VCfg.asrc (c : VCfg) : Nat := bits c.h 15 14
def VCfg.pace2 (c : VCfg) : Bool := bit c.h 13

/-- RED ONLINE or MERGE. -/
def VCfg.isPart (c : VCfg) : Bool := c.red == 4 || c.red == 5

/-- The form VRUN(ATOMADD) (R111). -/
def VCfg.atom (c : VCfg) : Bool := c.wr == 3

/-- D FMT that Table 7-5 gives a QNT mode. -/
def qntFmt (q : Nat) : Nat := if q = 0 then 2 else if q = 5 then 1 else 0

/-- A configuration or row count that Table 7-8 refuses (R228). -/
def VCfg.refused (c : VCfg) (rows : Nat) : Bool :=
  let usesB := c.mul1 == 1 || c.mul2 == 1 || c.addop != 0
  bits c.h 12 0 != 0 || c.a.resv || c.b.resv || c.w.resv || c.p.resv || c.d.resv || c.o.resv ||
  c.asrc == 3 || c.bsrc == 3 || c.deq == 3 || c.addop == 3 || decide (4 < c.mul1) || decide (4 < c.mul2) ||
  decide (8 < c.fnc) || decide (5 < c.red) || c.rpost == 3 || decide (5 < c.qnt) || decide (8 < c.qk) ||
  (c.asrc != 0 && (c.cols != 1 || c.a.fmt != 3 || decide (32 < rows))) ||
  (c.bsrc == 2 && (c.cols != 1 || c.b.fmt != 3 || decide (32 < rows))) ||
  (c.deq == 1 && c.a.fmt != 3) || (c.deq == 2 && c.a.fmt != 0) ||
  (usesB && c.bsrc == 0) ||
  (c.maskm != 0 && !c.pen) ||
  (c.wr != 0 && c.d.fmt != qntFmt c.qnt) ||
  ((c.wr == 2 || c.wr == 3) && (c.qnt != 0 || c.d.fmt != 2)) ||
  (c.wr == 3 && (bits c.target 9 8 != 0 || c.d.ren)) ||
  (c.isPart && (c.fnc != 0 || c.qnt != 0 || c.wr != 1 || c.d.fmt != 2 || c.pace2)) ||
  (c.red == 4 && (usesB || c.bsrc == 0)) || (c.red == 5 && c.bsrc != 0) ||
  c.w.ren || c.p.ren || c.o.ren ||
  (c.a.ren && decide (1 < c.a.fmt)) || (c.b.ren && decide (1 < c.b.fmt)) || (c.d.ren && decide (1 < c.d.fmt)) ||
  (c.pen && c.p.fmt != 0) || (c.owr && decide (1 < c.o.fmt)) ||
  (c.d.lb && c.wr != 0)

/-! ### Latencies (Table 7-9) -/

def expLat (tp2 : Bool) : Nat := if tp2 then 5 else 6

def fnLat (tp2 : Bool) (f : Nat) : Nat :=
  match f with
  | 1 => expLat tp2 | 2 => 6 | 3 => 4 | 4 => 4 | 5 => 8 + expLat tp2 | 6 => 5 | 7 => 3 | 8 => 5 | _ => 0

/-- Lm: up to and including MASK. -/
def VCfg.lm (c : VCfg) (tp2 : Bool) : Nat :=
  1 + (if c.deq = 0 then 1 else 3) + (if c.addop = 0 then 0 else 2) + (if c.mul1 = 0 then 0 else 2) +
    (if c.mul2 = 0 then 0 else 2) + fnLat tp2 c.fnc + 1

/-- Lc: the whole chain. -/
def VCfg.lc (c : VCfg) (tp2 : Bool) : Nat :=
  c.lm tp2 +
    (match c.qnt with
      | 0 => 0 | 5 => 1 | 1 => 3 | 2 => 3
      | _ => 3 + (if c.pace2 then 2 * c.cols else c.cols)) +
    (match c.wr with | 0 => 0 | 2 => 3 | _ => 1)

/-- Lo of a SUM, MAX or MIN result (R230). -/
def VCfg.lo (c : VCfg) (tp2 : Bool) : Nat := c.lm tp2 + (if c.rpost = 0 then 7 else 13)

/-- Q of R231. -/
def VCfg.q (c : VCfg) (tp2 : Bool) : Nat := max c.cols (expLat tp2 + 3)

/-- Cyc from the issue of an element's read to FN (R216). -/
def VCfg.fnAt (c : VCfg) : Nat :=
  1 + (if c.deq = 0 then 1 else 3) + (if c.addop = 0 then 0 else 2) + (if c.mul1 = 0 then 0 else 2) +
    (if c.mul2 = 0 then 0 else 2)

/-- Cyc from issue at which row r begins to be read (R230, R231). -/
def VCfg.rowAt (c : VCfg) (tp2 : Bool) (r : Nat) : Nat :=
  if c.isPart then r * c.q tp2 else if c.pace2 then 2 * (r * c.cols) else r * c.cols

/-- Cyc from issue at which the last lanes of vector j have been read; every later time of the vector counts from it
(R230, R231). -/
def VCfg.readEnd (c : VCfg) (tp2 : Bool) (j : Nat) : Nat :=
  if c.isPart then j / c.cols * c.q tp2 + j % c.cols else if c.pace2 then 2 * j + 1 else j

/-- The vector that is read in cyc `dt` from issue, and with PACE2 which half of it (R230, R231). -/
def VCfg.readNow (c : VCfg) (tp2 : Bool) (rows dt : Nat) : Option (Nat × Nat) :=
  if c.isPart then
    if dt / c.q tp2 < rows ∧ dt % c.q tp2 < c.cols then some (dt / c.q tp2 * c.cols + dt % c.q tp2, 0) else none
  else if c.pace2 then if dt / 2 < rows * c.cols then some (dt / 2, dt % 2) else none
  else if dt < rows * c.cols then some (dt, 0) else none

/-! ### Addresses (R201-R203) -/

/-- Bytes of a vector in memory order: for FP32 and INT32, of each half. -/
def vecBytes (fmt : Nat) : Nat := if fmt = 0 then 32 else 64

/-- Start of vector c of row r, by R201. -/
def Stream.addr (x : Stream) (off r c : Nat) : Nat :=
  let g := if x.vg = 0 then 64 else x.vg
  ((((x.base + off) % 16384 * 64 : Nat) : Int) + (r : Int) * x.rstr + ((c / g : Nat) : Int) * x.vstr2 +
    ((c % g : Nat) : Int) * x.vstr1) % ((2 ^ 20 : Nat) : Int) |>.toNat

/-- Bytes of each piece: with LB only the element of lane 0 is taken (R202) (log 113). -/
def Stream.pieceLen (x : Stream) : Nat := if x.lb then min 4 (2 ^ x.fmt) else vecBytes x.fmt

/-- The 64 B or shorter pieces of a vector: plain. -/
def Stream.pieces (x : Stream) (off r c : Nat) : List Nat :=
  let v := x.addr off r c
  if x.fmt < 2 ∨ x.lb then [v] else [v, (v + x.hoff) % 2 ^ 20]

/-- The pieces of vector j of a region stream from a fixed start (R203). -/
def regionPieces (g : Region) (start fmt j : Nat) : List Nat := [g.at_ start (j * vecBytes fmt)]

/-- A piece runs past its 64 B line (R202). -/
def Stream.bad (x : Stream) (ps : List Nat) : Bool := ps.any (fun o => decide (64 < o % 64 + x.pieceLen))

/-! ### Row records (R207, R208) and masking (R209) -/

def RowRec.ofNat (v : Nat) : RowRec where
  valid := bit v 178
  hline := bits v 177 164
  len := bits v 163 152
  kpos := bits v 151 128
  x1 := BitVec.ofNat 32 (bits v 127 96)
  x0 := BitVec.ofNat 32 (bits v 95 64)
  pos := bits v 63 40
  zp := signedOf 8 (bits v 39 32)
  scale := BitVec.ofNat 32 (bits v 31 0)

/-- Address of a row's record in P, or of its outputs in O. -/
def Stream.rowAddr (x : Stream) (r : Nat) : Nat :=
  ((((x.base * 64 : Nat) : Int) + (r : Int) * x.rstr) % ((2 ^ 20 : Nat) : Int)).toNat

/-- Element e of the row is masked (R209). -/
def RowRec.masked (p : RowRec) (maskm e : Nat) : Bool :=
  !p.valid || (bit maskm 1 && decide (p.len ≤ e)) || (bit maskm 0 && decide (p.pos < p.kpos + e))

/-! ### Where the streams of a VRUN lie -/

/-- Pieces of stream A, B, W or D for vector j. -/
def RunJob.piecesA (v : RunJob) (j : Nat) : List Nat :=
  if v.c.asrc ≠ 0 then [] else
  if v.c.a.ren then regionPieces v.ra v.ra.head v.c.a.fmt j else v.c.a.pieces v.aoff (j / v.c.cols) (j % v.c.cols)
def RunJob.piecesB (v : RunJob) (j : Nat) : List Nat :=
  if v.c.bsrc ≠ 1 then [] else
  if v.c.b.ren then regionPieces v.rb v.rb.head v.c.b.fmt j else v.c.b.pieces v.boff (j / v.c.cols) (j % v.c.cols)
def VCfg.usesW (c : VCfg) : Bool := c.deq == 1 || c.mul1 == 2 || c.mul2 == 2
def RunJob.piecesW (v : RunJob) (j : Nat) : List Nat :=
  if v.c.usesW then v.c.w.pieces 0 (j / v.c.cols) (j % v.c.cols) else []
def RunJob.piecesD (v : RunJob) (j : Nat) : List Nat :=
  if v.c.d.ren then regionPieces v.rd v.rd.tail v.c.d.fmt j else v.c.d.pieces v.doff (j / v.c.cols) (j % v.c.cols)

/-- Cyc from issue from which output vector c of ONLINE or MERGE is readable (R231). -/
def RunJob.partAt (v : RunJob) (tp2 : Bool) (c : Nat) : Nat :=
  v.rows * v.c.q tp2 + v.c.lm tp2 + 2 + (if v.c.rfin then 6 else 0) + c

/-- Pieces with the bytes they span. -/
def Stream.spans (x : Stream) (ps : List Nat) : List (Nat × Nat) := ps.map (fun o => (o, x.pieceLen))

/-- The pieces that one read of a stream takes lanes from: all, or with PACE2 that of lanes 0-15 or of lanes 16-31
(R230). -/
def partOf (pace2 : Bool) (half : Nat) (ps : List Nat) : List Nat :=
  if !pace2 ∨ ps.length = 1 then ps else (ps.drop half).take 1

/-- A piece of this read runs past its line (R202). -/
def Stream.badPart (x : Stream) (pace2 : Bool) (half : Nat) (ps : List Nat) : Bool := x.bad (partOf pace2 half ps)

/-- What one read of a stream touches: the whole vector, or with PACE2 lanes 0-15 or lanes 16-31 of it (R230); nothing
where a piece runs past its line. -/
def Stream.reads (x : Stream) (pace2 : Bool) (half : Nat) (ps : List Nat) : List (Nat × Nat) :=
  if x.badPart pace2 half ps then []
  else if !pace2 then x.spans ps
  else match x.spans ps with
    | [p] => if x.lb then (if half = 0 then [p] else []) else [(p.1 + half * (p.2 / 2), p.2 / 2)]
    | l => (l.drop half).take 1

/-- The old element of D is read for ADDTO: with the vector, or with PACE2 in the second of its two cyc (R230). -/
def VCfg.readsD (c : VCfg) (half : Nat) : Bool := c.wr == 2 && (!c.pace2 || half == 1)

/-- Byte ranges that the read of vector j touches: streams A, B, W, and D for ADDTO. -/
def RunJob.vecReads (v : RunJob) (j half : Nat) : List (Nat × Nat) :=
  v.c.a.reads v.c.pace2 half (v.piecesA j) ++ v.c.b.reads v.c.pace2 half (v.piecesB j) ++
    v.c.w.reads v.c.pace2 half (v.piecesW j) ++
    (if v.c.readsD half then v.c.d.reads false 0 (v.piecesD j) else [])

/-- A vector of the read runs past its 64 B line (R202). -/
def RunJob.vecBad (v : RunJob) (j half : Nat) : Bool :=
  v.c.a.badPart v.c.pace2 half (v.piecesA j) || v.c.b.badPart v.c.pace2 half (v.piecesB j) ||
    v.c.w.badPart v.c.pace2 half (v.piecesW j) || (v.c.readsD half && v.c.d.bad (v.piecesD j))

/-- The row whose record is read in cyc `dt` (R207, R230). -/
def RunJob.recNow (v : RunJob) (tp2 : Bool) (dt : Nat) : Option Nat :=
  if !v.c.pen then none else
  match v.c.readNow tp2 v.rows dt with
  | some (j, 0) => if j % v.c.cols = 0 then some (j / v.c.cols) else none
  | _ => none

/-- History lines read in cyc `dt`: row, line of its record, scratchpad offset (R221, R230). -/
def RunJob.histNow (v : RunJob) (tp2 : Bool) (dt : Nat) : List (Nat × Nat × Nat) :=
  if v.c.qnt = 2 ∨ v.c.qnt = 3 then
    v.row.filterMap fun w =>
      let t := v.c.rowAt tp2 w.r + 1
      if w.rec_.hline ≠ 0x3FFF ∧ t ≤ dt ∧ dt < t + 4 then
        some (w.r, dt - t, (w.rec_.hline * 64 + 64 * (dt - t)) % 2 ^ 20)
      else none
  else []

/-- Vectors whose D bank is claimed in cyc `dt` (R230). -/
def RunJob.writeNow (v : RunJob) (tp2 : Bool) (dt : Nat) : List VEls :=
  if v.c.isPart then [] else v.els.filter (fun e => v.c.readEnd tp2 e.j + v.c.lc tp2 == dt + 1)

/-- Rows whose QNT outputs are written in cyc `dt` (R230). -/
def RunJob.rowsNow (v : RunJob) (tp2 : Bool) (dt : Nat) : List VRow :=
  if v.c.isPart ∨ v.c.qnt = 0 ∨ v.c.qnt = 5 then [] else
  v.row.filter fun w =>
    v.c.readEnd tp2 (w.r * v.c.cols + v.c.cols - 1) + v.c.lc tp2 == dt + 1 &&
      v.els.any (fun e => e.j == w.r * v.c.cols + v.c.cols - 1)

/-- Rows whose SUM, MAX or MIN result is written in cyc `dt` (R230). -/
def RunJob.redsNow (v : RunJob) (tp2 : Bool) (dt : Nat) : List (Nat × BitVec 32) :=
  if v.c.owr then
    v.reds.filter (fun p => v.c.readEnd tp2 (p.1 * v.c.cols + v.c.cols - 1) + v.c.lo tp2 == dt + 1)
  else []

/-- Output vectors of ONLINE or MERGE written in cyc `dt` (R231). -/
def RunJob.partNow (v : RunJob) (tp2 : Bool) (dt : Nat) : List Nat :=
  if v.c.isPart && !v.out.isEmpty then numsWhere v.c.cols (fun c => v.partAt tp2 c == dt + 1) else []

/-- The O record of ONLINE or MERGE is written in cyc `dt` (R231). -/
def RunJob.partO (v : RunJob) (tp2 : Bool) (dt : Nat) : Bool :=
  v.c.owr && (v.partNow tp2 dt).contains (v.c.cols - 1)

/-- Offset of the history entry of a row (R184). -/
def histOff (p : RowRec) : Nat := (p.hline * 64 + 16 * (p.pos % 16)) % 2 ^ 20

/-- Offset of the SPLIT zero point of row r (R223). -/
def VCfg.splitOff (c : VCfg) (r : Nat) : Nat := (c.o.base * 64 + c.o.hoff + r) % 2 ^ 20

/-- Byte ranges that a VRUN writes in cyc `dt`: D, O, SPLIT bytes and history entries. -/
def RunJob.writes (v : RunJob) (tp2 : Bool) (dt : Nat) : List (Nat × Nat) :=
  let dw (j : Nat) : List (Nat × Nat) :=
    let ps := v.piecesD j
    if (v.c.wr = 1 ∨ v.c.wr = 2) ∧ ¬ v.c.d.bad ps then v.c.d.spans ps else []
  let ow (r lo n : Nat) : List (Nat × Nat) :=
    let a := v.c.o.rowAddr r
    if a % 32 = 0 then [(a + lo, n)] else []
  (v.writeNow tp2 dt).flatMap (fun e => dw e.j) ++
    (v.rowsNow tp2 dt).flatMap (fun w =>
      (if v.c.owr then ow w.r 0 5 ++ (if v.c.o.fmt = 1 then [(v.c.splitOff w.r, 1)] else []) else []) ++
      (if (v.c.qnt = 2 ∨ v.c.qnt = 3) ∧ w.rec_.hline ≠ 0x3FFF then [(histOff w.rec_, 16)] else [])) ++
    (v.redsNow tp2 dt).flatMap (fun p => ow p.1 8 4) ++
    (v.partNow tp2 dt).flatMap dw ++ (if v.partO tp2 dt then ow 0 8 8 else [])

/-- Byte ranges that a VRUN reads in cyc `dt`: vectors, row record and history lines. -/
def RunJob.readsAt (v : RunJob) (tp2 : Bool) (dt : Nat) : List (Nat × Nat) :=
  (match v.c.readNow tp2 v.rows dt with
    | some (j, half) => v.vecReads j half
    | none => []) ++
  (match v.recNow tp2 dt with
    | some r => if v.c.p.rowAddr r % 32 = 0 then [(v.c.p.rowAddr r, 32)] else []
    | none => []) ++
  (v.histNow tp2 dt).map (fun h => (h.2.2, 64))

end Sys2Proof.Machine
end

