-- ==== Sys2Proof/Machine/Claims.lean ====
section
/-! DEFINITION. Which banks of a tile the work under way claims in a cyc (R45, R68, R93, R99, R150, R160-R166, R204, R230,
R260, R282, R283, R318), and which of two claims of one bank is not performed (R68, R204). -/

namespace Sys2Proof.Machine

/-! ### Accesses of a job in a cyc -/

/-- The 8 B words of one beat, line or row as byte ranges: a word that goes on from the one before it in the same bank is
part of its access (R67, R93). So the words of a region that is not line-aligned, which straddle two scratchpad lines of a
bank, are one access of up to 64 B, while those beyond the wrap are another (DESIGN CHOICE, log 120). -/
def joinWords : List Nat → List (Nat × Nat)
  | [] => []
  | o :: l => match joinWords l with
    | (p, n) :: r => if o + 8 = p ∧ o / 65536 = p / 65536 then (o, 8 + n) :: r else (o, 8) :: (p, n) :: r
    | [] => [(o, 8)]

/-- Beats of a list, of which `next` have issued, that issue in cyc `dt` at `pace` beats in 16 cyc (R93). -/
def beatsDue (pace next n dt : Nat) : Nat := ((List.range (min n 32)).takeWhile (fun i => decide (16 * (next + i) / pace ≤ dt))).length

/-- Beats that a move issues in cyc `dt`. -/
def MoveJob.now (w : MoveJob) (dt : Nat) : List MvBeat := w.beats.take (beatsDue w.pace w.next w.beats.length dt)

/-- Cyc in which one block of DTRN is read (R99). -/
def TrnJob.half (w : TrnJob) : Nat := w.m / 2

/-- Rows that DTRN reads in cyc `dt`: block and row (R99). -/
def TrnJob.rowsNow (w : TrnJob) (dt : Nat) : List (Nat × Nat) :=
  if dt / w.half < w.blocks then [(dt / w.half, 2 * (dt % w.half)), (dt / w.half, 2 * (dt % w.half) + 1)] else []

/-- Destination rows that DTRN writes in cyc `dt`. -/
def TrnJob.outNow (w : TrnJob) (dt : Nat) : List (Nat × Nat) :=
  if w.half + 1 ≤ dt then w.rowsNow (dt - (w.half + 1)) else []

/-- Scratchpad offset of row `i` of block `b` of the source, and of destination row `j` of the block (R99). -/
def TrnJob.srcOff (w : TrnJob) (b i : Nat) : Nat :=
  (((w.src + 32 * b : Nat) : Int) + (i : Int) * w.srcS) % ((2 ^ 20 : Nat) : Int) |>.toNat
def TrnJob.dstOff (w : TrnJob) (b j : Nat) : Nat :=
  (((w.dst : Nat) : Int) + ((w.m * b + j : Nat) : Int) * w.dstS) % ((2 ^ 20 : Nat) : Int) |>.toNat

/-- Byte ranges of a plain 32 B row: it wraps within the scratchpad. -/
def rowRanges (o : Nat) : List (Nat × Nat) := joinWords ((List.range 4).map (fun i => (o + 8 * i) % 2 ^ 20))

/-- Byte ranges of the two rows of one cyc of DTRN: two that make up a line are one access (R68, R99) (log 109). -/
def pairRanges : List Nat → List (Nat × Nat)
  | [a, b] => if a % 64 = 0 ∧ b = a + 32 then [(a, 64)] else rowRanges a ++ rowRanges b
  | l => l.flatMap rowRanges

/-- Pieces that the beats of a PUT read in cyc `dt` (R260). -/
def GathJob.now (w : GathJob) (dt : Nat) : List (List (Nat × Nat)) :=
  w.beats.take (beatsDue w.pace w.next w.beats.length dt)

/-- Lines that SEMIT reads in cyc `dt` (R283). -/
def EmitJob.now (w : EmitJob) (dt : Nat) : List Nat := w.lines.take (beatsDue w.pace w.next w.lines.length dt)

def lineRange (o : Nat) : Nat × Nat := (o, 64)

/-- Scratchpad ranges that a job reads in cyc `c`. -/
def Job.reads (tp2 : Bool) (c : Nat) (j : Job) : List (Nat × Nat) :=
  match j.work with
  | .load w => joinWords (w.lines.headD [])
  | .pass w => if w.at_ = c then w.srcs.headD [] else []
  | .drain w => (w.lines.take 1).map lineRange
  | .tab w => (w.lines.take 1).map lineRange
  | .cfg w => (w.lines.take 1).map lineRange
  | .run w => w.readsAt tp2 (c - j.t0)
  | .move w => if w.src = .own then (w.now (c - j.t0)).flatMap (fun b => joinWords b.src) else []
  | .trn w => pairRanges ((w.rowsNow (c - j.t0)).map (fun r => w.srcOff r.1 r.2))
  | .gath w => (if c = j.t0 then [(w.hd, 16)] else []) ++ (w.now (c - j.t0)).flatten
  | .send w => w.lines.headD []
  | .emit w => (w.now (c - j.t0)).map lineRange
  | .lanes _ => []
  | .swap => []
  | .clear _ => []
  | .region _ _ _ _ => []
  | .post _ _ => []

/-- Scratchpad ranges that a job writes at the end of cyc `c`. -/
def Job.writes (tp2 : Bool) (c : Nat) (j : Job) : List (Nat × Nat) :=
  match j.work with
  | .drain w =>
    let dt := c - j.t0
    if w.dest = 2 ∧ 2 ≤ dt ∧ dt < 66 then [((w.dline + (dt - 2)) % 16384 * 64, 64)] else []
  | .run w => w.writes tp2 (c - j.t0)
  | .move w => if w.dst = .own then (w.air.filter (fun a => a.land == c)).flatMap (fun a => joinWords a.dst) else []
  | .trn w => pairRanges ((w.outNow (c - j.t0)).map (fun r => w.dstOff r.1 r.2))
  | .gath w => if c = j.t0 + 1 ∧ w.pos0.isSome then [((w.hd + 9) % 2 ^ 20, 3)] else []
  | .lanes w => if j.t0 + 6 ≤ c then (w.lines.take 1).map (fun l => (l.1, l.2.length)) else []
  | .load _ => []
  | .pass _ => []
  | .tab _ => []
  | .cfg _ => []
  | .send _ => []
  | .emit _ => []
  | .swap => []
  | .clear _ => []
  | .region _ _ _ _ => []
  | .post _ _ => []

/-! ### Lines on the mesh (R318-R320, R337) -/

def siteOf (k : Nat) : Site := ⟨Fin.ofNat 8 (k / 256), Fin.ofNat 256 k⟩

/-- Virtual hops between two tiles of a die (R337). -/
def hops (a b : Nat) : Nat :=
  (max (vtRow a) (vtRow b) - min (vtRow a) (vtRow b)) + (max (vtCol a) (vtCol b) - min (vtCol a) (vtCol b))

def Tile.chan (t : Tile) (c : Nat) : Chan := tget {} t.ch c

/-- Byte ranges of the line at byte position `p` from a region position: it wraps word by word (R72). -/
def Region.line (g : Region) (start p : Nat) : List (Nat × Nat) :=
  joinWords ((List.range 8).map (fun w => g.at_ start (p + 8 * w)))

/-- Byte ranges in which line `i` of a channel lands (R330). -/
def chanRanges (s : State) (k : Nat) (c : Chan) (i : Nat) : List (Nat × Nat) :=
  if c.ren then (tget {} (s.tile k).regions c.region).line c.base (64 * i) else [((c.base + i) % 16384 * 64, 64)]

/-- A line lands at a tile at the end of cyc `c`: 4 cyc for each hop and one more after its read (R337). -/
def MeshLine.landsAt (m : MeshLine) (vt c : Nat) : Bool := m.dests.contains vt && m.at_ + 4 * hops m.src vt + 1 == c

/-! ### The fetch (R45, R102) -/

/-- The bundle whose line the fetch of this cyc reads: the one that issues two cyc on. A control transfer that issued in
this cyc redirects the fetch to its target, and a CWAIT leaves the next bundle to be fetched (R102, R136). -/
def Tile.fetchIndex (t : Tile) : Nat :=
  match t.seq, t.pend with
  | .waiting n, _ => t.pc + (2 - n)
  | _, .branch g => g
  | _, .wait _ => t.pc + 1
  | _, _ => t.pc + 2

/-- First bundle of the line that is fetched in this cyc, if the sequencer fetches and the code region holds it. -/
def State.fetchBundle (s : State) (k : Nat) : Option Nat :=
  let t := s.tile k
  let b := t.fetchIndex / 2 * 2
  if t.fetch && decide (b < s.bundles k) then some b else none

/-- Scratchpad offset of a bundle's code. -/
def State.codeOff (s : State) (k b : Nat) : Nat := (s.codeRegion k).1 + 32 * b

/-! ### Claims (R68, R204) -/

/-- A claim of a bank of a tile: the rank of its unit, the issue that makes it (its cyc and tile), the bytes. -/
structure Claim where
  rank : Nat
  t0   : Nat
  vt   : Nat
  off  : Nat
  len  : Nat
  wr   : Bool
  deriving DecidableEq, Repr

def Claim.bank (a : Claim) : Nat := a.off % 2 ^ 20 / 65536

/-- Rank of a slot's accesses: the fetch has 0, MX, VX and MV follow (R68), and NX comes last (log 109). -/
def Slot.claimRank : Slot → Nat
  | .mx => 1
  | .vx => 2
  | .mv => 3
  | .nx => 4
  | .ct => 4
  | .other => 4

/-- Claims of a job of tile `k` in cyc `c`. -/
def Job.claims (tp2 : Bool) (k c : Nat) (j : Job) : List Claim :=
  (j.reads tp2 c).map (fun r => ⟨j.slot.claimRank, j.t0, k % 256, r.1, r.2, false⟩) ++
    (j.writes tp2 c).map (fun r => ⟨j.slot.claimRank, j.t0, k % 256, r.1, r.2, true⟩)

/-- Lines of the die's mesh that land at tile `k` in the die's present cyc. -/
def State.meshLandings (s : State) (k : Nat) : List MeshLine :=
  let d := s.die (k / 256)
  d.mesh.filter (fun m => m.landsAt (k % 256) d.cyc)

/-- The claims of a line that lands. -/
def State.landClaims (s : State) (k : Nat) (m : MeshLine) : List Claim :=
  (chanRanges s k ((s.tile k).chan m.ch) m.k).map fun r => ⟨4, m.t0, m.src, r.1, r.2, true⟩

/-- Every claim of the tile's banks in the present cyc of its die. -/
def State.claims (s : State) (k : Nat) : List Claim :=
  let c := (s.die (k / 256)).cyc
  let t := s.tile k
  (match s.fetchBundle k with | some b => [⟨0, c, k % 256, s.codeOff k b, 64, false⟩] | none => []) ++
    t.jobs.flatMap (Job.claims s.tp2 k c) ++ (s.meshLandings k).flatMap (s.landClaims k)

/-- Two claims of one instruction. -/
def Claim.sameIssue (a b : Claim) : Bool := a.rank == b.rank && a.t0 == b.t0 && a.vt == b.vt

/-- Claims that one access serves: reads of one line by one instruction (R204) (log 109); and a claim itself. -/
def Claim.shares (a b : Claim) : Bool :=
  a == b || (a.sameIssue b && a.off / 64 == b.off / 64 && !a.wr && !b.wr)

/-- The claim of the higher-ranked unit, then of the earlier issue (R68). -/
def Claim.before (a b : Claim) : Bool :=
  decide (a.rank < b.rank) || (a.rank == b.rank && (decide (a.t0 < b.t0) || (a.t0 == b.t0 && decide (a.vt < b.vt))))

/-- A claim whose access is not performed: another claim of its bank that does not share its access comes before it, or
is of the same instruction (R68, R204). -/
def Claim.loses (l : List Claim) (a : Claim) : Bool :=
  l.any (fun b => a.bank == b.bank && !a.shares b && (a.sameIssue b || b.before a))

/-- A scheduled access claims the bank of an offset in the present cyc, or an access outside the schedule has taken it,
while the die runs (R68, R69, R333) (log 115). -/
def State.bankTaken (s : State) (k off : Nat) : Bool :=
  (s.die (k / 256)).runs && ((s.claims k).any (fun a => a.bank == off % 2 ^ 20 / 65536) ||
    (s.tile k).used.contains (off % 2 ^ 20 / 65536))

/-- Banks that byte ranges lie in. -/
def banksOf (l : List (Nat × Nat)) : List Nat :=
  l.flatMap fun r => (List.range ((r.1 + r.2 - 1) / 65536 + 1 - r.1 / 65536)).map fun i => (r.1 / 65536 + i) % 16

/-- A bank that byte ranges lie in is not free in the present cyc (R69). -/
def State.rangesTaken (s : State) (k : Nat) (l : List (Nat × Nat)) : Bool :=
  (banksOf l).any (fun b => s.bankTaken k (65536 * b))

/-- An access outside the schedule takes the banks of byte ranges for the present cyc of a die that runs (R68). -/
def State.useBanks (s : State) (k : Nat) (l : List (Nat × Nat)) : State :=
  if (s.die (k / 256)).runs then s.modTile k fun t => { t with used := t.used ++ banksOf l } else s

/-- Banks in which a job loses a read, or a write. -/
def lostBanks (l : List Claim) (tp2 : Bool) (k c : Nat) (j : Job) (wr : Bool) : List Nat :=
  ((j.claims tp2 k c).filter (fun a => a.wr == wr && a.loses l)).map Claim.bank

/-- A write of a job at the end of a cyc, unless its claim of the bank is lost. -/
def jobWrite (s : State) (k : Nat) (j : Job) (lost : List Nat) (off : Nat) (bs : List Byte) (poison : Bool := false) :
    State :=
  if lost.contains (off % 2 ^ 20 / 65536) then s else writeAcc s k j.bundle j.slot off bs poison

end Sys2Proof.Machine
end

