-- ==== Sys2Proof/Machine/Control.lean ====
section
/-! DEFINITION. The control slot (R132-R139), the sequencer and its fetch (R45, R100-R104), and the end of a task (R139). -/

namespace Sys2Proof.Machine

/-- A tile is quiet: every latency has passed and every off-die transaction is complete (R120). -/
def State.quiet (s : State) (k : Nat) : Bool :=
  let t := s.tile k
  decide (t.quietAt ≤ (s.die (k / 256)).cyc) && t.outst == 0

/-- The tile has reached every later boundary (R139). -/
def State.hasEnded (s : State) (k : Nat) : Bool := (s.tile k).seq == .ended && s.quiet k

/-- Number of bound tiles of the module. -/
def State.boundCount (s : State) : Nat := ((List.range 8).map (fun d => (s.boundTiles d).length)).sum

/-- Every bound tile of the image has issued CEND and is quiet (R139). -/
def State.allEnded (s : State) : Bool :=
  let n := (s.tiles.filter (fun e => e.2.seq == .ended && s.quiet e.1 && s.bound (e.1 / 256) (e.1 % 256))).length
  decide (n ≠ 0) && n == s.boundCount

/-- The task ends: state ENDED and TASK_END with its cause, 1 CEND or 2 STOP (R139, R490). -/
def endTask (s : State) (cause : Nat) : State :=
  raise { s with ce := { s.ce with state := .ended }, pw := { s.pw with endAt := s.now + 1 } } 0x0002 cause
    (leBytes 8 s.img.id)

/-- End the task once every tile has ended. -/
def taskEndCheck (s : State) : State := if s.ce.state = .running ∧ s.allEnded then endTask s 1 else s

/-! ### The sequencer (R17, R102-R104, R107) -/

/-- A bundle word of a tile's fetched line. -/
def Tile.lineBundle (t : Tile) : Option Nat :=
  match t.line with
  | some (b, bs) => if t.pc = b then some (fieldAt bs 0 32) else if t.pc = b + 1 then some (fieldAt bs 32 32) else none
  | none => none

/-- The first slot of a bundle that holds a reserved opcode (R17, Tables 3-7, 4-9, 5-5, 7-10, 11-5). -/
def reservedSlot (w : Nat) : Option Slot :=
  let nx := bits w 143 139
  if 7 < bits w 31 27 then some .ct
  else if 6 < bits w 95 91 then some .mv
  else if 5 < nx ∧ ¬ (24 ≤ nx ∧ nx ≤ 26) then some .nx
  else if 7 < bits w 191 188 then some .mx
  else if 3 < bits w 255 252 then some .vx
  else none

/-- Breakpoints of a tile that is about to issue its next bundle (R538, R540) (log 29). -/
def breakpoints (s : State) (k : Nat) : State :=
  let t := s.tile k
  if t.bp.isEmpty then s else
  match t.seq with
  | .issuing => (List.range 4).foldl (fun s i =>
      let t := s.tile k
      let b := tget {} t.bp i
      if b.en && b.index == t.pc then
        if b.count > 0 then s.setTile k { t with bp := tset {} t.bp i { b with count := b.count - 1 } }
        else haltDie (s.setTile k { t with bphit := if bit t.bphit i then t.bphit else t.bphit + 2 ^ i })
               (k / 256) 2 (k % 256) t.pc
      else s) s
  | _ => s

/-- The bytes popped leave FILL, and the FTQ entries popped are free (R61, R73). -/
def Tile.settle (t : Tile) : Tile :=
  { t with
    regions := t.popped.foldl (fun rg p => tmod {} rg p.1 (fun g => { g with fill := g.fill - p.2 })) t.regions
    popped := [], ftqGone := 0, ftqOver := false }

/-- Where a tile's sequencer stands after the bundle of this cyc (R102, R103, R107, R136, R138, R139). -/
def Tile.endBundle (t : Tile) : Tile :=
  let next := match t.branchTo with | some g => g | none => t.pc + 1
  let u : Tile := match t.pend with
    | .none => { t with pc := next, branchTo := none }
    | .branch g => { t with pc := t.pc + 1, branchTo := some g }
    | .wait n => { t with pc := next, branchTo := none, seq := .waiting (2 * n) }
    | .stepb g => { t with pc := g, branchTo := none, seq := .inStepb g }
    | .cend => { t with pc := next, branchTo := none, seq := .ended }
  { u with pend := .none, passed := 0, seq := if t.faultNow then .faulted else u.seq, faultNow := false }

/-- A tile's first bundle after a release or RUN issues in the next cyc: cyc are counted from it, and its line is there
(R102). -/
def Tile.begin (t : Tile) (cyc b : Nat) (line : List Byte) : Tile :=
  { t with seq := .issuing, passed := 0, origin := cyc, line := some (b, line), nextLine := none }

/-- The line fetched two cyc before supplies the bundles of this even cyc and the next. -/
def Tile.takeLine (t : Tile) (cyc : Nat) : Tile :=
  if (cyc - t.origin) % 2 = 0 ∧ t.nextLine.isSome then { t with line := t.nextLine, nextLine := none } else t

/-- The sequencer of a tile at the end of a cyc in which its die runs (log 29). -/
def seqStep (s : State) (k : Nat) : State :=
  let t := s.tile k
  let c := (s.die (k / 256)).cyc
  match t.seq with
  | .issuing =>
    let s := match t.lineBundle.bind reservedSlot with
      | some sl => tileFault s k sl .encoding
      | none => s
    let leaves := (match t.pend with | .stepb _ => false | .cend => false | _ => true) && t.branchTo.isNone &&
      decide (s.bundles k ≤ t.pc + 1)
    let s := if leaves then tileFault s k .ct .fetch else s
    breakpoints (s.modTile k fun t => t.endBundle.takeLine (c + 1)) k
  | .waiting n =>
    s.setTile k ({ t with seq := if t.faultNow then .faulted else .waiting (n - 1), faultNow := false }.takeLine (c + 1))
  | .starting a =>
    if t.faultNow then s.setTile k t.toFaulted
    else if a ≤ c + 1 then
      let b := t.pc / 2 * 2
      let off := s.codeOff k b
      let (s, bad) := checkSp s k [(off, 64)]
      if bad then (faultAt s k b .ct .uncorrectable).modTile k Tile.toFaulted
      else breakpoints (s.setTile k (t.begin (c + 1) b (s.spBytes k off 64))) k
    else s
  | _ => if t.faultNow then s.setTile k t.toFaulted else s

/-! ### Control-slot instructions -/

/-- CNOP (R134). -/
def execCnop (_x : Site) (s : State) : Out := .next s

/-- CSET (R134). -/
def execCset (x : Site) (cnt : BitVec 4) (imm : BitVec 20) (s : State) : Out :=
  .next (issue x .ct s fun s => s.modTile x.key fun t => { t with ctr := tset 0 t.ctr cnt.toNat imm })

/-- A CT instruction other than CNOP or CSET stands in a delay slot (R103, R104). -/
def Tile.inDelay (t : Tile) : Bool := t.branchTo.isSome

/-- A target that R104 refuses: odd, or outside the code region. -/
def State.badTarget (s : State) (k tgt : Nat) : Bool := tgt % 2 == 1 || decide (s.bundles k ≤ tgt)

/-- A taken control transfer (R103, R104). -/
def branch (s : State) (k tgt : Nat) : State :=
  if (s.tile k).pc % 2 = 1 ∨ s.badTarget k tgt then tileFault s k .ct .fetch
  else s.modTile k fun t => { t with pend := .branch tgt }

/-- CJMP (R135). -/
def execCjmp (x : Site) (tgt : BitVec 13) (s : State) : Out :=
  .next (issue x .ct s fun s =>
    if (s.tile x.key).inDelay then tileFault s x.key .ct .fetch else branch s x.key tgt.toNat)

/-- CLOOP (R135). -/
def execCloop (x : Site) (cnt : BitVec 4) (tgt : BitVec 13) (s : State) : Out :=
  .next (issue x .ct s fun s =>
    let t := s.tile x.key
    if t.inDelay then tileFault s x.key .ct .fetch else
    let c := tget 0 t.ctr cnt.toNat
    if c = 0 then s else
    let s := s.modTile x.key fun t => { t with ctr := tset 0 t.ctr cnt.toNat (c - 1) }
    if c - 1 ≠ 0 then branch s x.key tgt.toNat else s)

/-- CWAIT (R136). -/
def execCwait (x : Site) (n : BitVec 16) (s : State) : Out :=
  .next (issue x .ct s fun s =>
    if (s.tile x.key).inDelay then tileFault s x.key .ct .fetch
    else if n = 0 then s
    else s.modTile x.key fun t => { t with pend := .wait n.toNat })

/-- The wait runs out: the next bundle issues (R136). -/
def execCwaitExpiry (x : Site) (s : State) : Out :=
  .next (if s.bound x.die.val x.vt.val ∧ (s.die x.die.val).runs ∧ (s.tile x.key).seq = .waiting 0
    then breakpoints (s.modTile x.key fun t => { t with seq := .issuing }) x.key else s)

/-- SKIPIDLE (R137). -/
def execSkipidle (x : Site) (midx : BitVec 10) (tgt : BitVec 13) (s : State) : Out :=
  .next (issue x .ct s fun s =>
    if (s.tile x.key).inDelay then tileFault s x.key .ct .fetch
    else if bit (s.die x.die.val).idle midx.toNat then branch s x.key tgt.toNat else s)

/-- STEPB (R138). -/
def execStepb (x : Site) (tgt : BitVec 13) (s : State) : Out :=
  .next (issue x .ct s fun s =>
    if (s.tile x.key).inDelay ∨ s.badTarget x.key tgt.toNat then tileFault s x.key .ct .fetch
    else s.modTile x.key fun t => { t with pend := .stepb tgt.toNat })

/-- CEND (R139). The tile has ended at the end of its bundle; the task ends once every tile has ended and is quiet. -/
def execCend (x : Site) (s : State) : Out :=
  .next (issue x .ct s fun s =>
    if (s.tile x.key).inDelay then tileFault s x.key .ct .fetch
    else s.modTile x.key fun t => { t with pend := .cend })

/-- SEQUENCER_FETCH: on an even cyc, counted from its first bundle, the sequencer of a tile that issues or waits fetches a
code line (R45, R102). -/
def execSequencerFetch (x : Site) (s : State) : Out :=
  .next (
    let k := x.key
    let t := s.tile k
    let c := (s.die x.die.val).cyc
    let active := match t.seq with | .issuing => true | .waiting _ => true | _ => false
    if s.bound x.die.val x.vt.val && (s.die x.die.val).runs && active && (c - t.origin) % 2 == 0 then
      s.modTile k fun t => { t with fetch := true }
    else s)

/-- The line of the fetch is read; an uncorrectable word stops the tile, for the line's first bundle (Table 3-6). -/
def fetchLine (s : State) (k : Nat) : State :=
  match s.fetchBundle k with
  | none => s
  | some b =>
    let off := s.codeOff k b
    let (s, bad) := checkSp s k [(off, 64)]
    if bad then faultAt s k b .ct .uncorrectable
    else s.modTile k fun t => { t with nextLine := some (b, s.spBytes k off 64) }

end Sys2Proof.Machine
end

