-- ==== Sys2Proof/Machine/Bridge.lean ====
section
/-! DEFINITION. The bridges (R36, R317, R325-R327): the pairs of dies they join, the routes between dies (R323), the frames of
a direction with their replay and retraining (R326), and the lanes (R327). -/

namespace Sys2Proof.Machine

/-! ### Routes between dies (R323, Table 1-2)

A die of the package is a number: 0 to 7 for CD0 to CD7, 8 to 11 for IOD0 to IOD3. -/

/-- The pair of dies that each bridge joins, by bridge number (Table 1-2, R445). -/
def bridgePairs : List (Nat × Nat) :=
  [(0, 1), (1, 2), (2, 3), (4, 5), (5, 6), (6, 7), (0, 4), (1, 5), (2, 6), (3, 7), (8, 0), (9, 3), (10, 4), (11, 7), (8, 10),
   (9, 11)]

/-- Corner die of an I/O die (R35). -/
def cornerOf (n : Nat) : Nat := match n with | 8 => 0 | 9 => 3 | 10 => 4 | _ => 7

/-- I/O die of a fabric port (Table 1-3). -/
def portDie (p : Nat) : Nat := 8 + p / 4 % 4

/-- I/O dies of the command engine, of the serving engine, of TICK and Echo, and of the twin engine (Table 1-3). -/
def hostDie : Nat := 8
def serveDie : Nat := 9
def timeDie : Nat := 10
def twinDie : Nat := 11

/-- The next die on the way from one compute die to another: along the row first, then vertically. -/
def nextCd (a b : Nat) : Nat :=
  if a % 4 < b % 4 then a + 1 else if b % 4 < a % 4 then a - 1 else if a < b then a + 4 else a - 4

/-- The next die on the route from die `a` to another die `b` (R323). -/
def nextDie (a b : Nat) : Nat :=
  if a < 8 then (if b < 8 then nextCd a b else if a = cornerOf b then b else nextCd a (cornerOf b))
  else if 8 ≤ b ∧ a % 2 = b % 2 then b else cornerOf a

/-- The bridge from a die to a neighbour, and its direction: 0 leaves the first-named die of its pair (R445). -/
def bridgeTo (a b : Nat) : Nat × Nat :=
  if bridgePairs.contains (a, b) then (bridgePairs.idxOf (a, b), 0) else (bridgePairs.idxOf (b, a), 1)

/-- Bridges and directions that the route from `a` to `b` crosses, in order; no route crosses more than six. -/
def routeFrom : Nat → Nat → Nat → List (Nat × Nat)
  | 0, _, _ => []
  | n + 1, a, b => if a = b then [] else bridgeTo a (nextDie a b) :: routeFrom n (nextDie a b) b

def dieRoute (a b : Nat) : List (Nat × Nat) := routeFrom 6 a b

/-- The bridge count b of a route (R323). -/
def bridgeCount (a b : Nat) : Nat := (dieRoute a b).length

/-! ### Bridge state -/

def State.bridge (s : State) (b dir : Nat) : BridgeDir := tget {} s.net.bridges (2 * b + dir)
def State.modBridge (s : State) (b dir : Nat) (f : BridgeDir → BridgeDir) : State :=
  { s with net := { s.net with bridges := tmod {} s.net.bridges (2 * b + dir) f } }

/-- Traffic crosses this direction: it neither retrains nor has failed to (R326). -/
def BridgeDir.carries (x : BridgeDir) : Bool := !x.retrain && !x.down

/-- Every bridge on the route from one die to another carries traffic in that direction; else what travels it waits
(R326; log 124). -/
def State.pathUp (s : State) (a b : Nat) : Bool := (dieRoute a b).all (fun p => (s.bridge p.1 p.2).carries)

/-! ### Frames (R326) -/

/-- The lane that carried the most symbols corrected or in error; the lowest of those that tie (R447). -/
def worstLane (syms : List Nat) : Nat :=
  ((syms.zipIdx).foldl (fun (best : Nat × Nat) p => if best.2 < p.1 then (p.2, p.1) else best) (0, 0)).1

/-- A transmission of frame `q` has failed: the frame and every later one in the replay buffer are sent again, which counts
against a lane. The 16th replay in succession that fails calls for a retrain instead (R326) (log 116). -/
def bridgeFails (s : State) (b dir q : Nat) (syms : List Nat) : State :=
  let x := s.bridge b dir
  let n := if x.failing = some q then x.replays + 1 else 0
  if 16 ≤ n then s.modBridge b dir fun x => { x with replays := n, retrain := true }
  else
    let s := countErr s (residLane b dir (worstLane syms)) 1 3 0
    s.modBridge b dir fun x =>
      { x with failing := some q, replays := n, resend := x.unacked.dropWhile (fun f => f != q) }

/-- Frame `q` arrives whole: the next one in sequence is accepted; it and every earlier frame are acknowledged. One that
does not follow the frames accepted is discarded until the replay brings what is missing. -/
def bridgeTakes (x : BridgeDir) (q : Nat) : BridgeDir :=
  let r := if q = x.rxSeq then q + 1 else x.rxSeq
  let left := x.unacked.filter (fun f => decide (r ≤ f))
  { x with rxSeq := r, unacked := left, resend := x.resend.filter (fun f => decide (r ≤ f))
           failing := x.failing.bind (fun f => if f < r then none else some f) }

/-- BRIDGE_FRAME: the next frame of a direction travels, one to be replayed before a new one. It arrives whole or corrected,
fails its CRC and is answered with its sequence number, or is lost. -/
def execBridgeFrame (b : Fin 16) (dir : Fin 2) (res : Fin 3) (syms : List Nat) (s : State) : Out :=
  .next (
    let x := s.bridge b.val dir.val
    if !x.carries then s else
    let (q, s) := match x.resend with
      | f :: rest => (f, s.modBridge b.val dir.val fun x => { x with resend := rest })
      | [] => (x.txSeq, s.modBridge b.val dir.val fun x =>
          { x with unacked := x.unacked ++ [x.txSeq], txSeq := x.txSeq + 1 })
    match res with
    | 0 => s.modBridge b.val dir.val fun x => bridgeTakes x q
    | 1 => bridgeFails s b.val dir.val q syms
    | _ => s)

/-- BRIDGE_REPLAY_TIMER: the oldest frame has not been acknowledged within 1 µs (R326). -/
def execBridgeReplayTimer (b : Fin 16) (dir : Fin 2) (syms : List Nat) (s : State) : Out :=
  .next (
    let x := s.bridge b.val dir.val
    if !x.carries then s else
    match x.unacked with
    | [] => s
    | q :: _ => bridgeFails s b.val dir.val q syms)

/-! ### Lanes and retraining (R326, R327) -/

/-- Retired lanes of one direction of a bridge. -/
def State.lanesOff (s : State) (b dir : Nat) : List Nat :=
  (List.range 18).filter (fun l => s.retiredAll.contains (residLane b dir l))

/-- Working lanes of a direction (R327). -/
def BridgeDir.working (x : BridgeDir) : Nat := if x.down then 0 else min 16 (18 - x.off.length)

/-- Retrain a bridge: its retired lanes give way to spares; the replay buffer is kept, and what it holds is sent again
(R326, R327). -/
def retrainBridge (s : State) (b : Nat) : State :=
  (List.range 2).foldl (fun s dir =>
    let off := s.lanesOff b dir
    s.modBridge b dir fun x =>
      { x with off := off, replays := 0, failing := none, resend := x.unacked, retrain := false, down := false }) s

/-- BRIDGE_RETRAIN: after 16 failed replays of a frame the bridge retrains, or fails to and is down (R326). -/
def execBridgeRetrain (b : Fin 16) (dir : Fin 2) (ok : Bool) (s : State) : Out :=
  .next (
    if (s.bridge b.val dir.val).retrain then
      if ok then retrainBridge s b.val
      else
        let s := s.modBridge b.val dir.val fun x => { x with retrain := false, down := true }
        raise s 0x30 0 (leBytes 1 b.val ++ leBytes 1 dir.val)
    else s)

end Sys2Proof.Machine
end

