-- ==== Sys2Proof/Machine/Flags.lean ====
section
/-! DEFINITION. Flags and codes that results carry: the CRC-32 of frames and park images (R297, R347), the status codes
of commands and responses (Table 17-6), and their names. -/

namespace Sys2Proof.Machine

/-- One bit of the reflected CRC-32 of IEEE 802.3. -/
def crcBit (c : BitVec 32) : BitVec 32 :=
  if c.getLsbD 0 then (c >>> 1) ^^^ 0xEDB88320#32 else c >>> 1

/-- One byte of it. -/
def crcByte (c : BitVec 32) (b : Byte) : BitVec 32 :=
  crcBit (crcBit (crcBit (crcBit (crcBit (crcBit (crcBit (crcBit (c ^^^ b.setWidth 32))))))))

/-- CRC-32 with the IEEE 802.3 polynomial (R347). -/
def crc32 (bs : List Byte) : BitVec 32 := ~~~(bs.foldl crcByte 0xFFFFFFFF#32)

/-! ### Status codes (Table 17-6) -/

def stOk : Nat := 0x00
def stOpcode : Nat := 0x01
def stLength : Nat := 0x02
def stParam : Nat := 0x03
def stState : Nat := 0x04
def stBusy : Nat := 0x05
def stProfile : Nat := 0x06
def stNospace : Nat := 0x07
def stStale : Nat := 0x08
def stFabric : Nat := 0x09
def stFault : Nat := 0x0A
def stStrict : Nat := 0x0B

end Sys2Proof.Machine
end

