-- ==== Sys2Proof/Machine/FabricOps.lean ====
section
/-! DEFINITION. Fabric operations that other units use: packets and their bytes (R353), paths (R346, R359), ports and
their link transmitters (R347-R350), requests (R365, R366), and messages (R376, R390, R437, R458, R462). -/

namespace Sys2Proof.Machine

def State.port (s : State) (p : Nat) : Port := tget {} s.fab.ports p
def State.setPort (s : State) (p : Nat) (x : Port) : State :=
  { s with fab := { s.fab with ports := tset {} s.fab.ports p x } }
def State.modPort (s : State) (p : Nat) (f : Port → Port) : State := s.setPort p (f (s.port p))
def State.modFab (s : State) (f : Fab → Fab) : State := { s with fab := f s.fab }

/-- UP or RETIRING (R374). -/
def PortSvc.inService : PortSvc → Bool
  | .down => false
  | .up => true
  | .retiring => true

def State.portOk (s : State) (p : Nat) : Bool := (s.port p).svc.inService

/-! ### Packets -/

/-- The 256-bit header (Table 12-5). -/
def Packet.header (p : Packet) : Nat :=
  p.path % 2 ^ 80 * 2 ^ 176 + p.dst % 2 ^ 16 * 2 ^ 160 + p.mgrp % 2 ^ 12 * 2 ^ 148 + p.vc % 4 * 2 ^ 146 +
  p.epoch % 2 * 2 ^ 145 + p.ph % 2 * 2 ^ 144 + p.hop % 16 * 2 ^ 140 + p.type % 32 * 2 ^ 135 + p.len % 2 ^ 12 * 2 ^ 123 +
  p.src % 2 ^ 16 * 2 ^ 107 + p.tag % 2 ^ 16 * 2 ^ 91 + p.tgen % 256 * 2 ^ 83 + p.resv % 8 * 2 ^ 80 +
  p.addr % 2 ^ 48 * 2 ^ 32 + p.aux % 2 ^ 32

/-- The bytes that travel: header and payload (R353). -/
def Packet.toBytes (p : Packet) : List Byte := leBytes 32 p.header ++ padTo p.len p.data

/-- A packet from its bytes, and of each of its cells whether it came as poison: the payload words of those that did carry
poison (log 30). -/
def Packet.ofBytes (bs : List Byte) (bad : List Bool) : Packet :=
  let h := fieldAt bs 0 32
  let len := bits h 134 123
  let words := (List.range ((len + 7) / 8)).filter (fun w => (bad[(32 + 8 * w) / 64]?).getD false)
  { path := bits h 255 176, dst := bits h 175 160, mgrp := bits h 159 148, vc := bits h 147 146, epoch := bits h 145 145
    ph := bits h 144 144, hop := bits h 143 140, type := bits h 139 135, len := len, src := bits h 122 107
    tag := bits h 106 91, tgen := bits h 90 83, resv := bits h 82 80, addr := bits h 79 32, aux := bits h 31 0
    data := padTo len (bs.drop 32), poison := !words.isEmpty, badWords := words }

/-- Some of the `n` payload bytes from byte `o` on travel as poison. -/
def Packet.badIn (p : Packet) (o n : Nat) : Bool :=
  p.poison && (p.badWords.isEmpty || p.badWords.any (fun w => decide (8 * w < o + n ∧ o < 8 * w + 8)))

/-- Words of the `n` payload bytes from byte `o` on that travel as poison, numbered from there. -/
def Packet.badFrom (p : Packet) (o n : Nat) : List Nat :=
  (List.range (n / 8)).filter (fun w => p.badIn (o + 8 * w) 8)

/-- Hop code of index `i` (Table 12-5). -/
def Packet.code (p : Packet) (i : Nat) : Nat := p.path / 2 ^ (5 * i) % 32

/-- Cells of a packet of `n` payload bytes. -/
def cellsFor (n : Nat) : Nat := (32 + n + 63) / 64

def cellList (first : Bool) : Nat → List Byte → List Cell
  | 0, _ => []
  | n + 1, bs => { first := first, bytes := padTo 64 (bs.take 64) } :: cellList false n (bs.drop 64)

/-- The cells a packet occupies. -/
def Packet.cells (p : Packet) : List Cell := cellList true (cellsFor p.len) p.toBytes

/-! ### The link transmitter (R347-R350) -/

/-- Credit of each virtual channel, in each phase (Table 12-4). -/
def credits (vc : Nat) : Nat := match vc with | 0 => 2048 | 1 => 1024 | 2 => 512 | _ => 128

/-- Replace `n` bytes at an offset of a byte list. -/
def patch (bs : List Byte) (off : Nat) (v : List Byte) : List Byte := bs.take off ++ v ++ bs.drop (off + v.length)

/-- TICK as 8 B of ns and 2 B of fraction (Table 13-6). -/
def stampBytes (tick : Nat) : List Byte := leBytes 8 (tick / 65536) ++ leBytes 2 tick

/-- Hardware writes the egress timestamp into a time message on every transmission (R383). -/
def stampCell (tick : Nat) (c : Cell) : Cell :=
  let h := fieldAt c.bytes 0 32
  let m := bits h 7 0
  if c.first = false ∨ bits h 139 135 ≠ 0x0E then c
  else if m = 0x10 ∨ m = 0x11 then { c with bytes := patch c.bytes 32 (stampBytes tick) }
  else if m = 0x12 then { c with bytes := patch c.bytes 48 (stampBytes tick) }
  else c

/-- The cell opens a DELAY_REQ. -/
def Cell.isDelayReq (c : Cell) : Bool :=
  c.first && bits (fieldAt c.bytes 0 32) 139 135 == 0x0E && bits (fieldAt c.bytes 0 32) 7 0 == 0x11

/-- The 8 B link header (Table 12-3) of a frame that this port sends: an acknowledgement of the last frame accepted, or with
`nak` the frame to replay from; the cells freed in `pool`; and SEQ, virtual channel and phase of its `n` cells. -/
def Port.linkHeader (x : Port) (nak : Bool) (pool seq vp n : Nat) : List Byte :=
  leBytes 8 (seq % 4096 * 2 ^ 52 + (if nak then x.rxSeq else x.ackSent.getD 0) * 2 ^ 40 +
    b2n (nak || x.ackSent.isSome) * 2 ^ 39 + b2n nak * 2 ^ 38 + pool % 8 * 2 ^ 35 + tget 0 x.rxFreed pool % 4096 * 2 ^ 23 +
    vp % 8 * 2 ^ 20 + n * 2 ^ 16)

/-- A frame: header, cells, and the CRC-32 over both (R347). -/
def sealFrame (body : List Byte) : List Byte := body ++ leBytes 4 (crc32 body).toNat

/-- A frame that carries cells, as this port sends it; it reports the credit of its own pool (log 37). -/
def Port.frameBytes (x : Port) (f : Frame) : List Byte :=
  let pool := 2 * f.vc + f.ph
  sealFrame (x.linkHeader false pool f.seq pool f.cells.length ++ f.cells.flatMap (·.bytes))

/-- The port sends at all: it has a link and is not retraining. -/
def Port.live (x : Port) : Bool := x.lanes != 0 && !x.retrain

/-- Put a frame with NCELL = 0 on the link: it acknowledges, or asks for a replay, and reports the credit of a pool (R348,
R350) (log 37). -/
def sendReport (s : State) (p pool : Nat) (nak : Bool) : State :=
  if (s.port p).live then s.modPort p fun x => { x with line := x.line ++ [sealFrame (x.linkHeader nak pool 0 0 0)] } else s

/-- Group cells into frames of up to eight. -/
def framesOf (vc ph : Nat) : Nat → Nat → List Cell → List Frame
  | 0, _, _ => []
  | _ + 1, _, [] => []
  | n + 1, q, cs => { seq := q % 4096, vc := vc, ph := ph, cells := cs.take 8 } :: framesOf vc ph n (q + 1) (cs.drop 8)

/-- Cells of a pool that the peer has not freed. More may have been freed than sent since a training, of cells that came before
it; that leaves the full credit (log 37). -/
def Port.used (x : Port) (pool : Nat) : Nat :=
  let n := (tget 0 x.sent pool + 4096 - tget 0 x.freed pool) % 4096
  if n ≤ credits (pool / 2) then n else 0

/-- Send what one pool of a port may: cells with credit, within 2,048 unacknowledged frames. -/
def pumpPool (s : State) (p pool : Nat) : State :=
  let x := s.port p
  let w := tget [] x.wait pool
  let n := min w.length (min (credits (pool / 2) - x.used pool) (8 * (2048 - x.unacked.length)))
  if n = 0 ∨ !x.live then s else
  let cs := (w.take n).map (stampCell s.tm.tick)
  let fr := framesOf (pool / 2) (pool % 2) (n + 1) x.txSeq cs
  s.setPort p { x with
    wait := tset [] x.wait pool (w.drop n)
    sent := tset 0 x.sent pool ((tget 0 x.sent pool + n) % 4096)
    unacked := x.unacked ++ fr
    txSeq := (x.txSeq + fr.length) % 4096
    line := x.line ++ fr.map x.frameBytes
    exchT1 := if cs.any Cell.isDelayReq then some s.tm.tick else x.exchT1 }

/-- Send what the pools of a port allow, control first. -/
def pump (s : State) (p : Nat) : State := [7, 6, 5, 4, 3, 2, 1, 0].foldl (fun s q => pumpPool s p q) s

/-- Hand a packet to a port's transmitter; packets sent over a port are counted by epoch (R371). -/
def enqueue (s : State) (p : Nat) (k : Packet) : State :=
  let pool := 2 * (k.vc % 4) + k.ph % 2
  let s := s.modPort p (fun x => { x with wait := tset [] x.wait pool (tget [] x.wait pool ++ k.cells) })
  let s := s.modFab (fun f => { f with ep := { f.ep with sent := tset 0 f.ep.sent k.epoch (tget 0 f.ep.sent k.epoch + 1) } })
  pump s p

/-! ### Paths (R346, R359) -/

/-- Path-table entry of a module, in the current epoch. -/
def State.pathOf (s : State) (mid : Nat) : Option Nat :=
  let e := tget 0 s.fab.paths (1024 * s.fab.ep.cur + mid % 1024)
  if bit e 80 then some (e % 2 ^ 80) else none

/-- Planned peer of a port, as (MID, port). -/
def State.peer (s : State) (p : Nat) : Option (Nat × Nat) :=
  match (s.fab.plan.peers.find? (fun e => e.1 == p)).map (·.2) with
  | some v => some (v / 256, v % 256)
  | none => none

/-- MID of this module: HALF, RACK, BOARD, SLOT (R344). -/
def Ident.mid (i : Ident) : Nat := i.half % 2 * 512 + i.rack % 8 * 64 + i.board % 8 * 8 + i.slot % 8

/-- MID of the module in a slot of this board. -/
def State.boardMid (s : State) (slot : Nat) : Nat := s.id.mid / 8 * 8 + slot % 8

/-- The port whose planned peer is the module in the slot (R346). -/
def State.boardPort (s : State) (slot : Nat) : Option Nat :=
  (List.range 16).find? (fun p => match s.peer p with | some (m, _) => m == s.boardMid slot | none => false)

/-- The current plan shows no module, or no port in service, for the slot (R83, R346) (log 35). -/
def State.noPeer (s : State) (slot : Nat) : Bool :=
  match s.boardPort slot with
  | some p => !s.portOk p || !s.fab.plan.present.contains (s.boardMid slot)
  | none => true

/-- Source path of a board access: one hop (R346). -/
def State.boardPath (s : State) (slot : Nat) : Nat :=
  match s.boardPort slot with | some p => p + 0x1E * 32 | none => 0x1E

/-- A path that R358 admits: hop codes whose classes keep the order twin, rack, system, rack, board, ending in 0x1E.
`pos` is the last position taken; each hop is at most 15, and at most 15 hops fit before the end code. -/
def legalFrom : Nat → Nat → Nat → Bool
  | 0, _, _ => false
  | n + 1, path, pos =>
    let c := path % 32
    if c = 0x1E then true
    else if c > 15 then false
    else
      let next := if c = 15 then (if pos = 0 then 1 else 0)
        else if c = 14 then (if pos < 3 then 3 else 0)
        else if 7 ≤ c then (if pos < 2 then 2 else if pos = 3 then 4 else 0)
        else (if pos < 5 then 5 else 0)
      next != 0 && legalFrom n (path / 32) next

def legalPath (path : Nat) : Bool := legalFrom 16 path 0

/-! ### Requests and messages -/

/-- Put a request among those that wait for a tag (R365). -/
def addReq (s : State) (r : Req) : State := s.modFab (fun f => { f with waiting := f.waiting ++ [r] })

/-- Put a packet at the router, for injection, from the unit on die `node`. -/
def inject (s : State) (k : Packet) (node : Nat) : State :=
  s.modFab (fun f => { f with router := f.router ++ [{ pkt := k, port := none, at_ := s.tm.tick, node := node }] })

/-- A request to another module by the path table, or by a pinned path. -/
def fabReq (s : State) (why : ReqFor) (dst type vc aux addr : Nat) (data : List Byte) (poison : Bool := false)
    (pinned : Nat := 0) (board last : Bool := false) (bad : List Nat := []) : State :=
  let k : Packet := { dst := dst, type := type, vc := vc, len := data.length, src := s.id.mid, addr := addr, aux := aux,
                      data := data, poison := poison, badWords := bad }
  addReq s { why := why, pkt := k, pinned := pinned, board := board, last := last }

/-- Answer a request: a response along the path-table entry of its source; with none valid it is not sent (R359). -/
def respond (s : State) (node dst type vc status tag tgen : Nat) (data : List Byte := []) (poison : Bool := false) : State :=
  match s.pathOf dst with
  | none => s
  | some path =>
    let k : Packet := { path := path, dst := dst, type := type, vc := vc, epoch := s.fab.ep.cur, len := data.length
                        src := s.id.mid, tag := tag, tgen := tgen, aux := status, data := data, poison := poison }
    inject s k node

/-- Write acknowledgement of a unit on die `node`. -/
def wackFrom (s : State) (node : Nat) (k : Packet) (status : Nat) : State := respond s node k.src 0x04 1 status k.tag k.tgen

/-- That of the Echo controller and of clock and power control, on IOD2. -/
def wack (s : State) (k : Packet) (status : Nat) : State := wackFrom s timeDie k status

/-- A control message that is answered by WACK (R390, R437). -/
def ctrlReq (s : State) (why : ReqFor) (dst code : Nat) (data : List Byte) : State :=
  fabReq s why dst 0x0E 3 code 0 data

/-- A control message across one link alone (R376, R390). -/
def linkMsg (s : State) (p code : Nat) (data : List Byte) : State :=
  enqueue s p { path := 0x1E, dst := (match s.peer p with | some (m, _) => m | none => 0xFFFF), vc := 3
                epoch := s.fab.ep.cur, type := 0x0E, len := data.length, src := s.id.mid, aux := code, data := data }

/-- A control message of the twin engine or of fabric router control, on IOD3, along a given path; not answered (R462). -/
def ctrlOn (s : State) (path dst code : Nat) (data : List Byte) : State :=
  let k : Packet := { path := path, dst := dst, vc := 3, epoch := s.fab.ep.cur, type := 0x0E, len := data.length
                      src := s.id.mid, aux := code, data := data }
  inject s k twinDie

/-! ### The order of deliveries (R356) -/

/-- Code of the answer to a drain query, which the leader's own poll takes (log 13). -/
def ctlCounts : Nat := 0x04

/-- A delivered packet that the ones behind it on its port, channel and phase must not pass: any but the packets of a mirror
point, which carry its sequence (R458), and the drain counts. -/
def Packet.keepsOrder (p : Packet) : Bool := !(p.type == 0x0D && decide (p.aux % 256 < 4)) && !(p.type == 0x0E && p.aux % 256 == ctlCounts)

/-- The i-th delivered packet, unless one that came before it in its order still waits (R356) (log 100). -/
def State.inboxAt (s : State) (i : Nat) : Option AtRouter :=
  match s.fab.inbox[i]? with
  | none => none
  | some a =>
    let before (b : AtRouter) : Bool :=
      b.pkt.keepsOrder && b.port == a.port && b.pkt.vc == a.pkt.vc && b.pkt.ph == a.pkt.ph
    if a.pkt.keepsOrder && (s.fab.inbox.take i).any before then none else some a

/-- I/O die of the unit that a message is for (Table 1-3): time, Echo and power on IOD2; the twin engine, heartbeats and
fabric router control on IOD3. -/
def unitDie (type kind : Nat) : Nat := if type = 0x0E ∧ 0x10 ≤ kind ∧ kind ≤ 0x21 then timeDie else twinDie

/-- The i-th delivered packet, when it is of the type and kind asked for and the bridges from its port to its unit carry it
(R323, R326). -/
def State.inAt (s : State) (i type kind : Nat) : Option AtRouter :=
  match s.inboxAt i with
  | some a => if a.pkt.type = type ∧ a.pkt.aux % 256 = kind ∧ s.pathUp a.node (unitDie type kind) then some a else none
  | none => none

/-- Take the i-th delivered packet out. -/
def dropIn (s : State) (i : Nat) : State := s.modFab (fun f => { f with inbox := dropNth f.inbox i })

/-- Cause that a status code of a response stands for (log 10): of a write or read at tile space, or elsewhere. -/
def causeOfStatus (status : Nat) (tileSpace : Bool) : Nat :=
  if status = 0x00 then 0
  else if status = 0x03 then (if tileSpace then Cause.noTile.code else Cause.address.code)
  else if status = 0x04 then Cause.bankOff.code
  else if status = 0x07 then Cause.noPage.code
  else if status = 0x08 then Cause.staleFrame.code
  else if status = 0x09 then Cause.noPeer.code
  else Cause.cavernUe.code

/-- Status code that reports a cause (log 10). -/
def statusOfCause (c : Nat) : Nat :=
  if c = 0 then 0x00
  else if c = Cause.noTile.code ∨ c = Cause.address.code ∨ c = Cause.channel.code then 0x03
  else if c = Cause.bankOff.code then 0x04
  else if c = Cause.noPage.code then 0x07
  else if c = Cause.staleFrame.code then 0x08
  else if c = Cause.noPeer.code then 0x09
  else 0x0A

/-! ### Dropping (R375) -/

/-- The packet is a request, answered by a response (Table 12-6). -/
def Packet.isRequest (p : Packet) : Bool :=
  match p.type with
  | 0x01 => true | 0x02 => true | 0x05 => true | 0x06 => true | 0x07 => true | 0x08 => true | 0x0A => true
  | 0x0C => true | 0x0D => true
  | 0x0E => let m := p.aux % 256; decide (0x18 ≤ m ∧ m ≤ 0x1B) || m == 0x20 || m == 0x21
  | _ => false

/-- A packet whose port is not in service: counted, and a request answered with a NACK that carries the packet's
epoch (log 39) (log 48). -/
def dropPacket (s : State) (p : Packet) (port : Nat) : State :=
  let s := s.modFab fun f => { f with dropped := count64 f.dropped }
  if p.isRequest then
    let path := if p.src = s.id.mid then some 0x1E else s.pathOf p.src
    match path with
    | none => s
    | some path =>
      let k : Packet := { path := path, dst := p.src, vc := 3, epoch := p.epoch, type := 0x0B, src := s.id.mid
                          tgen := p.tgen, aux := port + p.mgrp * 2 ^ 4 + p.tag * 2 ^ 16 }
      inject s k (portDie port)
  else s

/-- Packets whose cells are all here, from the bytes of one pool. -/
def assemble : Nat → List Byte → List (List Byte) × List Byte
  | 0, bs => ([], bs)
  | n + 1, bs =>
    if bs.length < 64 then ([], bs) else
    let size := 64 * cellsFor (bits (fieldAt bs 0 32) 134 123)
    if bs.length < size then ([], bs)
    else
      let (ps, rest) := assemble n (bs.drop size)
      (bs.take size :: ps, rest)

/-- The whole packets that wait in a port's queues are dropped as the port leaves service; the rest of a packet whose first
cells have left follows them, while there is a link (R375) (log 39). -/
def dropQueued (s : State) (p : Nat) : State :=
  let x := s.port p
  let whole (w : List Cell) : List Cell := w.dropWhile (fun c => !c.first)
  let ps := x.wait.flatMap fun e =>
    (assemble (e.2.length + 1) ((whole e.2).flatMap (·.bytes))).1.map (fun b => Packet.ofBytes b [])
  let s := s.setPort p { x with
    wait := if x.lanes = 0 then []
      else x.wait.foldl (fun t e => tset [] t e.1 (e.2.takeWhile (fun c => !c.first))) [] }
  ps.foldl (fun s k => dropPacket s k p) s

/-! ### Transactions of tiles and of peers -/

/-- The fabric request that carries a beat bound for another module (R98, R225, R346, R366). -/
def beatReq (s : State) (id b : Nat) (bt : Beat) (last : Bool) (gcnt : Nat) : State :=
  let slot := bt.ga / 2 ^ 45 % 8
  let dst := s.boardMid slot
  let why := ReqFor.beat id b
  let path := s.boardPath slot
  match bt.op with
  | .read => fabReq s why dst 0x02 0 bt.len bt.ga [] (pinned := path) (board := true)
  | .write => fabReq s why dst 0x01 0 ((if last then gcnt + 32 else 0)) bt.ga bt.data bt.poison (pinned := path)
      (board := true) (last := last)
  | .add =>
    let lane := bt.ga % 64 / 4
    fabReq s why dst 0x0A 0 ((if bt.len = 0 then 0 else 2 ^ lane) + (if last then gcnt * 2 ^ 16 + 2 ^ 21 else 0)) (bt.ga / 64 * 64)
      (padTo 64 (List.replicate (4 * lane) 0 ++ bt.data)) bt.poison (pinned := path) (board := true) (last := last)

/-- Issue fabric requests for the beats of a transaction that leave the module (log 33). -/
def beatReqs (s : State) (t : Txn) : State :=
  let n := t.beats.length
  let gcnt := match t.landCnt with | some (_, c) => c | none => 0
  (t.beats.zipIdx).foldl (fun s p =>
    if p.1.ga / 2 ^ 45 % 8 = s.id.slot then s
    else beatReq s t.id p.2 p.1 (t.landCnt.isSome && p.2 + 1 == n) gcnt) s

end Sys2Proof.Machine
end

