-- ==== Sys2Proof/Machine/PageOps.lean ====
section
/-! DEFINITION. Page operations that other units use: frame references (R241), the geometry of a model (R238-R243),
frames and page tables, allocation and reservation (R248, R249), counts and pins (R250), and reclamation (R252). -/

namespace Sys2Proof.Machine

/-! ### Geometry (Table 8-1, R240, R243) -/

def geoHome (g : Nat) : Nat := bits g 24 22
def geoNstate (g : Nat) : Nat := bits g 21 20
def geoLayers (g : Nat) : Nat := bits g 19 14 + 1
def geoTpp (g : Nat) : Nat := 2 ^ bits g 13 10
def geoLw (g : Nat) : Nat := 32 * (bits g 7 0 + 1)
/-- Scale frames per block, and frames per block. -/
def geoS (g : Nat) : Nat := (geoLayers g * geoTpp g + 2047) / 2048
def geoBr (g : Nat) : Nat := geoLayers g + geoS g
/-- Blocks a page table holds. -/
def geoMb (g : Nat) : Nat := (2048 - geoNstate g) * 2048 / geoBr g
/-- Position limit (R272). -/
def geoLimp (g : Nat) : Nat := min (2 ^ 24) (geoMb g * geoTpp g)

/-! ### References (Table 8-4) -/

def refV (r : Nat) : Bool := bit r 31
def refSlot (r : Nat) : Nat := bits r 30 28
def refDie (r : Nat) : Nat := bits r 27 25
def refGen (r : Nat) : Nat := bits r 24 18
def refFrame (r : Nat) : Nat := bits r 17 0
def mkRef (slot die gen frame : Nat) : Nat := 2 ^ 31 + slot * 2 ^ 28 + die * 2 ^ 25 + gen % 128 * 2 ^ 18 + frame
/-- Key of a guest frame's record. -/
def guestKey (r : Nat) : Nat := refSlot r * 2 ^ 21 + refDie r * 2 ^ 18 + refFrame r

def State.pm (s : State) (d : Nat) : Pm := tget {} s.pages.pms d
def State.modPm (s : State) (d : Nat) (f : Pm → Pm) : State :=
  { s with pages := { s.pages with pms := tmod {} s.pages.pms d f } }
def State.frame (s : State) (d f : Nat) : FrameE := tget {} (s.pm d).table f
def State.modFrame (s : State) (d f : Nat) (g : FrameE → FrameE) : State :=
  s.modPm d fun p => { p with table := tmod {} p.table f g }
def State.guest (s : State) (r : Nat) : GuestRec := tget {} s.pages.guests (guestKey r)
def State.modGuest (s : State) (r : Nat) (g : GuestRec → GuestRec) : State :=
  { s with pages := { s.pages with guests := tmod {} s.pages.guests (guestKey r) g } }

/-- The reference names a frame of this module. -/
def State.refLocal (s : State) (r : Nat) : Bool := refSlot r == s.id.slot

/-- A stale reference (R253). -/
def State.refStale (s : State) (r : Nat) : Bool :=
  if s.refLocal r then
    let f := s.frame (refDie r) (refFrame r)
    decide ((s.pm (refDie r)).frames ≤ refFrame r) || f.gen != refGen r || f.state == 0
  else (s.guest r).gen != refGen r || (s.pages.guests.all (fun e => e.1 != guestKey r))

/-- REF, HPINS and SPINS of a frame. -/
structure Counts where
  ref   : Nat
  hpins : Nat
  spins : Nat

def State.counts (s : State) (r : Nat) : Counts :=
  if s.refLocal r then
    let f := s.frame (refDie r) (refFrame r)
    ⟨f.ref, f.hpins, f.spins⟩
  else
    let g := s.guest r
    ⟨g.ref, g.hpins, g.spins⟩

def State.setCounts (s : State) (r : Nat) (f : Counts → Counts) : State :=
  let c := f (s.counts r)
  if s.refLocal r then
    s.modFrame (refDie r) (refFrame r) fun e => { e with ref := c.ref, hpins := c.hpins, spins := c.spins }
  else s.modGuest r fun g => { g with ref := c.ref, hpins := c.hpins, spins := c.spins }

/-- REF + 1, REF - 1, HPINS + 1, HPINS - 1, SPINS + 1 (Table 8-8). -/
def refInc (s : State) (r : Nat) : State := s.setCounts r fun c => { c with ref := c.ref + 1 }
/-- A stale reference is discarded and counted (R253). -/
def countStale (s : State) (die : Nat) : State := s.modPm die fun p => { p with stale := count64 p.stale }
def refDec (s : State) (r : Nat) : State :=
  if s.refStale r then countStale s (refDie r) else s.setCounts r fun c => { c with ref := c.ref - 1 }
def hpinInc (s : State) (r : Nat) : State := s.setCounts r fun c => { c with hpins := c.hpins + 1 }
def hpinDec (s : State) (r : Nat) : State := s.setCounts r fun c => { c with hpins := c.hpins - 1 }
def spinInc (s : State) (r : Nat) : State := s.setCounts r fun c => { c with spins := c.spins + 1 }

/-! ### Frame contents -/

/-- Bytes of a frame of this module, and whether a word of them is uncorrectable (R90). -/
def frameRead (s : State) (r off n : Nat) : State × List Byte × Bool :=
  let d := refDie r
  let f := s.frame d (refFrame r)
  if f.loc = 2 then
    let k := d * 256 + f.tile
    let data := s.spBytes k (f.off + off) n
    let (s, bad) := checkSp s k [(f.off + off, n)]
    (s, data, bad)
  else
    let data := s.cvBytes d (f.off + off) n
    let (s, bad) := checkCv s d [(f.off + off, n)]
    (s, data, bad)

def frameWrite (s : State) (r off : Nat) (bs : List Byte) (poison : Bool := false) : State :=
  let d := refDie r
  let f := s.frame d (refFrame r)
  if f.loc = 2 then spPut s (d * 256 + f.tile) (f.off + off) bs poison
  else cvPut s d (f.off + off) bs poison

/-- Words of this module's frame, by number, that are found uncorrectable. -/
def State.frameBad (s : State) (r : Nat) : List Nat :=
  let d := refDie r
  let f := s.frame d (refFrame r)
  let k := (if f.loc = 2 then spKey (d * 256 + f.tile) f.off else cvKey d f.off) / 8
  ((if f.loc = 2 then s.mem.spadErr else s.mem.cavErr).filter (fun e => e.2.bad && decide (k ≤ e.1 ∧ e.1 < k + 1024))).map
    (fun e => e.1 - k)

/-- Global address of a byte of a frame of this module. -/
def State.frameGa (s : State) (r off : Nat) : Nat :=
  let d := refDie r
  let f := s.frame d (refFrame r)
  if f.loc = 2 then gaTile s.id.slot (d * 256 + f.tile) (f.off + off) else gaCav s.id.slot d (f.off + off)

/-! ### Messages between page managers (log 11) -/

/-- Payload of a PM packet: operation, reference, offset, count, second reference, data. -/
def pmPayload (op r off n r2 : Nat) (data : List Byte) : List Byte :=
  leBytes 4 op ++ leBytes 4 r ++ leBytes 4 off ++ leBytes 4 n ++ leBytes 4 r2 ++ data

/-- Ask the peer that holds a frame: 1 read, 2 write, 3 release, 4 allocate, 5 copy. -/
def pmAsk (s : State) (why : ReqFor) (op r off n r2 : Nat) (data : List Byte) (poison : Bool := false) : State :=
  fabReq s why (s.boardMid (refSlot r)) 0x0C 2 0 0 (pmPayload op r off n r2 data) poison (s.boardPath (refSlot r)) true

/-- Read a peer's frame, in four parts (log 15). -/
def readFrame (s : State) (die : Nat) (why : ReadFor) (r : Nat) : State :=
  let id := s.net.nextId
  let s := { s with net := { s.net with nextId := id + 1 } }
  let s := { s with pages := { s.pages with reads := s.pages.reads ++ [{ id := id, ref := r, why := why }] } }
  (List.range 4).foldl (fun s c => pmAsk s (.frame die id c) 1 r (2048 * c) 2048 0 []) s

/-- Every part has come. -/
def PeerRead.whole (x : PeerRead) : Bool := decide (4 ≤ x.got.length)

/-- The bytes of a frame that was read, and the numbers of its words that came as poison. -/
def PeerRead.data (x : PeerRead) : List Byte × List Nat :=
  let part (c : Nat) : List Byte × Bool := match x.got.find? (fun g => g.1 == c) with
    | some g => (padTo 2048 g.2.1, g.2.2)
    | none => (padTo 2048 [], false)
  ((List.range 4).flatMap (fun c => (part c).1),
    (List.range 4).flatMap (fun c => if (part c).2 then (List.range 256).map (256 * c + ·) else []))

def dropReads (s : State) (p : PeerRead → Bool) : State :=
  { s with pages := { s.pages with reads := s.pages.reads.filter (fun x => !p x) } }

/-! ### Page tables (R240-R242) -/

/-- Reference `i` of a root or table frame; those of a peer are read from this module's record (log 11). -/
def State.pageRef (s : State) (r i : Nat) : Nat :=
  if !refV r then 0
  else if s.refLocal r then
    let f := s.frame (refDie r) (refFrame r)
    if f.loc = 2 then s.spNat (refDie r * 256 + f.tile) (f.off + 4 * i) 4
    else leNat (s.cvBytes (refDie r) (f.off + 4 * i) 4)
  else tget 0 (s.guest r).refs i

def setPageRef (s : State) (r i v : Nat) : State :=
  if s.refLocal r then frameWrite s r (4 * i) (leBytes 4 v)
  else
    let s := s.modGuest r fun g => { g with refs := tset 0 g.refs i v }
    pmAsk s (.pm (refDie r) 0) 2 r (4 * i) 4 0 (leBytes 4 v)

/-- Table frame u of a page table, and reference index x. -/
def State.tableFrame (s : State) (g head u : Nat) : Nat := s.pageRef head (geoNstate g + u)
def State.refAt (s : State) (g head x : Nat) : Nat := s.pageRef (s.tableFrame g head (x / 2048)) (x % 2048)
def setRefAt (s : State) (g head x v : Nat) : State := setPageRef s (s.tableFrame g head (x / 2048)) (x % 2048) v

/-- The cause that a reference gives before it is used, if any (R253, R258). -/
def State.refCause (s : State) (r : Nat) : Nat :=
  if !refV r then Cause.noPage.code else if s.refStale r then Cause.staleFrame.code else 0

/-- A page manager follows reference `t` to a root or table frame and reads its entry `i`: the entry, or the cause that stops
it, a word found uncorrectable among them (R90, R253). -/
def readRef (s : State) (t i : Nat) : State × Nat × Nat :=
  let c := s.refCause t
  if c ≠ 0 then (s, 0, c)
  else if s.refLocal t then
    let d := refDie t
    let f := s.frame d (refFrame t)
    let (s', bad) := if f.loc = 2 then checkSp s (d * 256 + f.tile) [(f.off + 4 * i, 4)] else checkCv s d [(f.off + 4 * i, 4)]
    if bad then (s', 0, Cause.cavernUe.code) else (s', s.pageRef t i, 0)
  else (s, s.pageRef t i, 0)

/-- Reference index `x` of a page table, through its root and table frames, and the cause that its use gives. -/
def lookRef (s : State) (g head x : Nat) : State × Nat × Nat :=
  match readRef s head (geoNstate g + x / 2048) with
  | (s, t, 0) => (match readRef s t (x % 2048) with
    | (s, r, 0) => (s, r, s.refCause r)
    | (s, r, c) => (s, r, c))
  | (s, t, c) => (s, t, c)

/-! ### Allocation (R248, R249) -/

/-- Compute dies in the order of R37. -/
def dieRing : List Nat := [0, 1, 2, 3, 7, 6, 5, 4]

/-- The pools in the order of Table 8-7 from a home die: (die, LOC). -/
def poolOrder (home : Nat) : List (Nat × Nat) :=
  let i := (dieRing.idxOf? home).getD 0
  (dieRing.drop i ++ dieRing.take i).flatMap fun d => [(d, 1), (d, 2)]

/-- Every reservation of the module. -/
def State.reserved (s : State) : List Nat := s.pages.pms.flatMap (fun e => e.2.resv.map (fun r => r.2.2.2))

/-- Frames of a pool that are FREE, not lent and not reserved. -/
def State.freeFrames (s : State) (d loc : Nat) : List Nat :=
  let p := s.pm d
  let res := s.reserved
  (List.range (min p.frames p.guest0)).filter (fun f =>
    let e := tget {} p.table f
    e.state == 0 && e.loc == loc && !res.contains (mkRef s.id.slot d e.gen f))

/-- Allocate one frame of this module to a group (log 36). -/
def takeFrame (s : State) (d f grp : Nat) : State × Nat :=
  let e := s.frame d f
  (s.modFrame d f fun e => { e with state := 1, ref := 1, hpins := 0, spins := 0, ogrp := grp },
   mkRef s.id.slot d e.gen f)

/-- Peer slots in the order of Table 8-7 that a board port in service reaches. -/
def State.peerSlots (s : State) : List Nat :=
  ((List.range 7).map (fun i => (s.id.slot + 1 + i) % 8)).filter (fun t => !s.noPeer t)

/-- The home die's page manager asks the peers for a guest frame, in order; whether one grants it is free (R254, log 9). -/
def guestFrame (s : State) (home grp : Nat) : List Nat → State × Option Nat
  | [] => (s, none)
  | t :: ts =>
    let (n, s) := s.fresh
    let s := pmAsk s (.pm home 0) 4 (mkRef t home 0 0) 0 1 0 []
    let g := (Config.peerGrant n).toNat
    let r := 2 ^ 31 + t * 2 ^ 28 + g % 2 ^ 28
    if bit g 31 ∧ s.pages.guests.all (fun e => e.1 != guestKey r) then
      (s.modGuest r fun _ => { gen := refGen r, ref := 1, ogrp := grp }, some r)
    else guestFrame s home grp ts

/-- One frame in the order of Table 8-7. -/
def allocOne (s : State) (home grp : Nat) : State × Option Nat :=
  match (poolOrder home).filterMap (fun p => ((s.freeFrames p.1 p.2)[0]?).map (fun f => (p.1, f))) with
  | (d, f) :: _ =>
    let (s, r) := takeFrame s d f grp
    (s, some r)
  | [] => guestFrame s home grp s.peerSlots

/-- `n` frames, one by one. -/
def allocEach (s : State) (home grp : Nat) : Nat → State × Option (List Nat)
  | 0 => (s, some [])
  | n + 1 =>
    match allocOne s home grp with
    | (s, none) => (s, none)
    | (s, some r) => match allocEach s home grp n with
      | (s, some l) => (s, some (r :: l))
      | (s, none) => (s, none)

/-- Owner's records of guest frames that another state lacks. -/
def State.guestsBeside (t s : State) : List (Nat × GuestRec) :=
  t.pages.guests.filter (fun e => s.pages.guests.all (fun o => o.1 != e.1))

/-- An allocation that fails changes nothing (R249) but the free values it drew and the messages it sent; the guest frames
granted to it are released (R254). -/
def undoAlloc (s t : State) : State :=
  (t.guestsBeside s).foldl (fun u e =>
    let r := mkRef (e.1 / 2 ^ 21) (e.1 / 2 ^ 18 % 8) e.2.gen (e.1 % 2 ^ 18)
    pmAsk u (.pm (refDie r) 0) 3 r 0 0 0 []) { s with free := t.free, fab := t.fab }

/-- `n` guest frames of one peer, or none. -/
def guestBlock (s : State) (home grp slot : Nat) : Nat → State × Option (List Nat)
  | 0 => (s, some [])
  | n + 1 => match guestFrame s home grp [slot] with
    | (s, none) => (s, none)
    | (s, some r) => match guestBlock s home grp slot n with
      | (s, some l) => (s, some (r :: l))
      | (s, none) => (s, none)

/-- The frames of one block from the first of these peers whose guest frames suffice for all of them. -/
def peerBlock (s : State) (home grp n : Nat) : List Nat → State × Option (List Nat)
  | [] => (s, none)
  | t :: ts => match guestBlock s home grp t n with
    | (s', some l) => (s', some l)
    | (s', none) => peerBlock (undoAlloc s s') home grp n ts

/-- The frames of one block: from one pool when one can supply all of them (R248), of this module or of a peer. -/
def allocBlock (s : State) (home grp n : Nat) : State × Option (List Nat) :=
  match (poolOrder home).find? (fun p => decide (n ≤ (s.freeFrames p.1 p.2).length)) with
  | some (d, loc) =>
    let fs := (s.freeFrames d loc).take n
    (fs.foldl (fun s f => (takeFrame s d f grp).1) s, some (fs.map (fun f => mkRef s.id.slot d (s.frame d f).gen f)))
  | none => match peerBlock s home grp n s.peerSlots with
    | (s, some l) => (s, some l)
    | (s, none) => allocEach s home grp n

/-- An allocation that fails is undone. -/
def orNothing {α : Type} (s : State) (r : State × Option α) : State × Option α :=
  match r with
  | (t, some a) => (t, some a)
  | (t, none) => (undoAlloc s t, none)

/-- A frame that holds references starts with none valid. -/
def clearRefs (s : State) (r : Nat) : State :=
  if s.refLocal r then
    let d := refDie r
    let f := s.frame d (refFrame r)
    let m := s.mem
    if f.loc = 2 then
      let k := spKey (d * 256 + f.tile) f.off
      { s with mem := { m with spad := mclear m.spad k 8192, spadErr := m.spadErr.filter (fun e => decide (e.1 < k / 8) || decide (k / 8 + 1024 ≤ e.1)) } }
    else
      let k := cvKey d f.off
      { s with mem := { m with cav := mclear m.cav k 8192, cavErr := m.cavErr.filter (fun e => decide (e.1 < k / 8) || decide (k / 8 + 1024 ≤ e.1)) } }
  else s.modGuest r fun g => { g with refs := [] }

/-- Root, state and table frames of a sequence of `tables` table frames (R249, phase 4): its root reference. -/
def allocSequence (s : State) (g grp tables : Nat) : State × Option Nat :=
  orNothing s <|
    match allocEach s (geoHome g) grp (1 + geoNstate g + tables) with
    | (s, some (root :: rest)) =>
      let s := clearRefs s root
      let s := (rest.drop (geoNstate g)).foldl clearRefs s
      let s := (rest.zipIdx).foldl (fun s p => setPageRef s root p.2 p.1) s
      (s, some root)
    | (s, _) => (s, none)

/-- Frames a block lacks are allocated, and one frame is reserved for each that is shared (R249, phase 7). -/
def coverBlock (s : State) (g grp head b : Nat) : State × Option Unit :=
  let br := geoBr g
  let home := geoHome g
  -- table frames that the block's references need
  let us := ((List.range br).map (fun i => (b * br + i) / 2048)).eraseDups
  let step (a : State × Option Unit) (u : Nat) : State × Option Unit :=
    match a with
    | (s, none) => (s, none)
    | (s, some _) =>
      if refV (s.tableFrame g head u) then (s, some ()) else
      match allocOne s home grp with
      | (s, none) => (s, none)
      | (s, some r) => (setPageRef (clearRefs s r) head (geoNstate g + u) r, some ())
  -- the words read are checked (R88, R89)
  let s := us.foldl (fun s u => (readRef s head (geoNstate g + u)).1) s
  match us.foldl step (s, some ()) with
  | (s, none) => (s, none)
  | (s, some _) =>
    let s := (List.range br).foldl (fun s i => (lookRef s g head (b * br + i)).1) s
    if !refV (s.refAt g head (b * br)) then
      match allocBlock s home grp br with
      | (s, none) => (s, none)
      | (s, some rs) => ((rs.zipIdx).foldl (fun s p => setRefAt s g head (b * br + p.2) p.1) s, some ())
    else
      let shared := ((List.range br).map (fun i => s.refAt g head (b * br + i))).filter (fun r =>
        refV r && decide (2 ≤ (s.counts r).ref))
      shared.foldl (fun (a : State × Option Unit) _ =>
        match a with
        | (s, none) => (s, none)
        | (s, some _) =>
          match (poolOrder home).filterMap (fun p => ((s.freeFrames p.1 p.2)[0]?).map (fun f => (p.1, f))) with
          | (d, f) :: _ =>
            (s.modPm home fun p => { p with resv := p.resv ++ [(grp, head, b, mkRef s.id.slot d (s.frame d f).gen f)] },
             some ())
          | [] => match guestFrame s home grp s.peerSlots with
            | (s, none) => (s, none)
            | (s, some r) =>
              ((s.modGuest r fun g => { g with ref := 0 }).modPm home fun p =>
                 { p with resv := p.resv ++ [(grp, head, b, r)] }, some ())) (s, some ())

/-- Everything a grant of positions [pos0, pos0 + n) needs (R249). -/
def coverGrant (s : State) (g grp head pos0 n : Nat) : State × Option Unit :=
  if n = 0 then (s, some ()) else
  let tpp := geoTpp g
  let b0 := pos0 / tpp
  let b1 := (pos0 + n - 1) / tpp
  orNothing s <| (List.range (b1 + 1 - b0)).foldl (fun (a : State × Option Unit) i =>
    match a with
    | (s, none) => (s, none)
    | (s, some _) => coverBlock s g grp head (b0 + i)) (s, some ())

/-! ### Release and reclamation (R250, R252, R254) -/

/-- Every valid reference of a page table: root, state and table frames, then block frames. A stale root or table frame is not
followed (R253). -/
def State.tableRefs (s : State) (g head : Nat) : List Nat :=
  if !refV head then [] else
  if s.refStale head then [head] else
  let ns := geoNstate g
  let states := (List.range ns).map (fun i => s.pageRef head i)
  let tables := ((List.range (2048 - ns)).map (fun u => s.pageRef head (ns + u))).filter refV
  let blocks := (tables.filter (fun t => !s.refStale t)).flatMap (fun t => ((List.range 2048).map (fun i => s.pageRef t i)).filter refV)
  head :: states.filter refV ++ tables ++ blocks

/-- Root and table frames of this module that a page table is read through. -/
def State.tablesOf (s : State) (g head : Nat) : List Nat :=
  if s.refCause head ≠ 0 then [] else
  (head :: (List.range (2048 - geoNstate g)).map (fun u => s.pageRef head (geoNstate g + u))).filter (fun r =>
    refV r && s.refLocal r && !s.refStale r)

/-- A request ends or has parked: REF - 1 on every frame of its table, which the page manager reads (R88-R90). -/
def releaseTable (s : State) (g head : Nat) : State :=
  (s.tableRefs g head).foldl refDec ((s.tablesOf g head).foldl (fun s t => (frameRead s t 0 8192).1) s)

/-- Valid references of a block. -/
def State.blockFrames (s : State) (g head b : Nat) : List Nat :=
  ((List.range (geoBr g)).map (fun i => s.refAt g head (b * geoBr g + i))).filter refV

/-- A block is dropped: REF - 1 on each frame, a stale one counted (R253), and the references made invalid. -/
def releaseBlock (s : State) (g head b : Nat) : State :=
  (List.range (geoBr g)).foldl (fun s i =>
    let x := b * geoBr g + i
    let r := s.refAt g head x
    if refV r then setRefAt (refDec s r) g head x 0 else s) s

/-- FREE again, with the next generation. -/
def FrameE.reclaim (e : FrameE) : FrameE :=
  { e with gen := (e.gen + 1) % 128, state := 0, ref := 0, hpins := 0, spins := 0, ogrp := 0, oslot := 0 }

/-- Phase 3 of one frame: reclaimed without references or pins, else its step pins are cleared (R252). -/
def FrameE.phase3 (e : FrameE) (grp : Nat) : FrameE :=
  if e.state = 1 ∧ e.ogrp = grp then
    if e.ref = 0 ∧ e.hpins = 0 ∧ e.spins = 0 then e.reclaim else { e with spins := 0 }
  else e

/-- Phase 3 of one page manager: reservations of the group return (R249). -/
def Pm.phase3 (p : Pm) (grp : Nat) : Pm :=
  { p with resv := p.resv.filter (fun r => r.1 != grp), table := p.table.map (fun f => (f.1, f.2.phase3 grp)) }

/-- A guest frame the owner would reclaim (R254). -/
def GuestRec.unused (g : GuestRec) (grp : Nat) : Bool := g.ogrp == grp && g.ref == 0 && g.hpins == 0 && g.spins == 0

/-- Phase 3 of a group (R249, R252, R254). -/
def reclaimGroup (s : State) (grp : Nat) : State :=
  let old : Pages := s.pages
  let gone := old.guests.filter (fun e => e.2.unused grp)
  let kept := (old.guests.filter (fun e => !e.2.unused grp)).map (fun e =>
    if e.2.ogrp = grp then (e.1, { e.2 with spins := 0 }) else e)
  let s := { s with pages := { old with pms := old.pms.map (fun e => (e.1, e.2.phase3 grp)), guests := kept } }
  gone.foldl (fun s e =>
    let r := mkRef (e.1 / 2 ^ 21) (e.1 / 2 ^ 18 % 8) e.2.gen (e.1 % 2 ^ 18)
    pmAsk s (.pm (refDie r) 0) 3 r 0 0 0 []) s

/-- Guest frames held for the module of a slot are reclaimed (R466). -/
def reclaimGuests (s : State) (slot : Nat) : State :=
  let free (e : FrameE) : FrameE := if e.state = 2 ∧ e.oslot = slot then e.reclaim else e
  let old : Pages := s.pages
  { s with pages := { old with pms := old.pms.map (fun e =>
    (e.1, { e.2 with table := e.2.table.map (fun f => (f.1, free f.2)) })) } }

/-- The PM status record as 64-bit fields, COPIES first (Table 8-6). -/
def State.pmStatus (s : State) (d : Nat) : List Nat :=
  let p := s.pm d
  let all := (List.range p.frames).map (fun f => tget {} p.table f)
  let res := (s.reserved.filter (fun r => s.refLocal r && refDie r == d)).length
  [p.copies, p.exhausted, p.stale, p.nopage, all.countP (·.state == 2), all.countP (·.state == 1), res,
   all.countP (·.state == 0) - res]

end Sys2Proof.Machine
end

