-- ==== Sys2Proof/Machine/TimeOps.lean ====
section
/-! DEFINITION. Operations on time states (R386), on the pairing's points (R456, R463), on ports as they enter and leave
service (R374), the cabling check (R377), epochs as they apply (R372), and READY (R519). -/

namespace Sys2Proof.Machine

def State.modTm (s : State) (f : Time → Time) : State := { s with tm := f s.tm }
def State.modTw (s : State) (f : Twin → Twin) : State := { s with tw := f s.tw }
def State.modSv (s : State) (f : Serve → Serve) : State := { s with sv := f s.sv }
def State.modCe (s : State) (f : Ce → Ce) : State := { s with ce := f s.ce }
def State.modPw (s : State) (f : Power → Power) : State := { s with pw := f s.pw }
def State.modCk (s : State) (f : Clock → Clock) : State := { s with ck := f s.ck }
def State.modBoot (s : State) (f : Boot → Boot) : State := { s with boot := f s.boot }
def State.modDbg (s : State) (f : Debug → Debug) : State := { s with dbg := f s.dbg }
def State.modEr (s : State) (f : Errors → Errors) : State := { s with er := f s.er }
def State.modFw (s : State) (f : Firmware → Firmware) : State := { s with fw := f s.fw }

/-! ### Time states (Tables 13-2, 13-3) -/

/-- STATE codes of Table 13-2. -/
def TState.code : TState → Nat
  | .free => 0 | .master => 1 | .acquiring => 2 | .locked => 3 | .tracking => 4 | .holdover => 5

/-- The states in which a parent is followed. -/
def TState.follows : TState → Bool
  | .acquiring => true | .locked => true | .tracking => true | _ => false

/-- The states in which a module sends TIME (R382). -/
def TState.sends : TState → Bool
  | .master => true | .locked => true | .tracking => true | .holdover => true | _ => false

/-- Enter ACQUIRING on a port. -/
def Time.acquire (t : Time) (p now : Nat) : Time :=
  { t with state := .acquiring, active := p, good := 0, wild := 0, faulted := false, heard := now, slope := [] }

/-- No usable parent: the backup port when it is named, UP and not active already, else HOLDOVER (Table 13-3) (log 59). -/
def parentLost (s : State) : State :=
  let b := s.fab.plan.backup
  if s.tm.state.follows then
    if b < 16 ∧ b ≠ s.tm.active ∧ (s.port b).svc = .up then s.modTm fun t => t.acquire b s.tm.tick
    else raise (s.modTm fun t => { t with state := .holdover, s := 0 }) 0x50 0 (leBytes 1 s.tm.active)
  else s

/-- Median of the last 16 link-delay samples, the mean of the middle two, in units of 2^-18 ns (R384); none without a
sample. -/
def Port.delay (x : Port) : Option Int :=
  let l := sortBy (fun (a b : Int) => decide (a < b)) x.samples
  let n := l.length
  if n = 0 then none
  else if n % 2 = 1 then some (2 * (l[n / 2]?).getD 0)
  else some ((l[n / 2 - 1]?).getD 0 + (l[n / 2]?).getD 0)

/-! ### READY (R510, R519) -/

/-- Raise READY once phases 5 and 6 have both ended; the first one after a NEW activation raises the fused minimum SVN
(R501). -/
def readyCheck (s : State) : State :=
  if s.ce.state = .starting ∧ s.boot.started ∧ s.boot.checked ∧ s.boot.aligned ∧ s.boot.phase ≠ 7 then
    let s := s.modBoot fun b => { b with phase := 7, everReady := true }
    let s := s.modFw fun f => { f with fusedSvn := if f.fresh then max f.fusedSvn f.svn else f.fusedSvn, fresh := false }
    raise (s.modCe fun c => { c with state := .empty }) 0x0001 0 (leBytes 2 s.id.mid ++ leBytes 1 s.tm.state.code)
  else s

/-- Phase 6 ends (R517). -/
def alignedNow (s : State) : State := readyCheck (s.modBoot fun b => { b with aligned := true })

/-! ### Points in progress (R453, R463) -/

/-- The request belongs to a point of the group. -/
def Req.ofPoint (g : Nat) (r : Req) : Bool :=
  match r.why with | .mirror h => h == g | .pointEnd h => h == g | _ => false

/-- Abandon this module's point of a group: its mirror pins are released (R457) (log 44). -/
def abandonPoint (s : State) (g : Nat) : State :=
  let m := tget {} s.tw.mirrors g
  if m.busy then
    let s := dropReads (m.pins.foldl hpinDec s) (fun x => match x.why with | .capture h _ _ _ => h == g | _ => false)
    let s := s.modTw fun t => { t with mirrors := tset {} t.mirrors g { m with busy := false, pins := [], marks := [] } }
    s.modFab fun f => { f with waiting := f.waiting.filter (fun r => !r.ofPoint g) }
  else s

/-- The frames allocated for a landing's shadows to be are released. -/
def dropLanding (s : State) (l : Landing) : State :=
  l.roots.foldl (fun s r =>
    let midx := match l.entries.find? (fun e => e.1 == r.1) with
      | some e => bits (fieldAt e.2.2 0 8) 31 22
      | none => 0
    r.2.2.foldl refDec (releaseTable s (tget {} s.sv.models midx).kvgeo r.2.1)) s

/-- Abandon every point in progress, of either twin; what still comes for one is discarded (R458). -/
def abandonPoints (s : State) : State :=
  let s := (List.range 8).foldl abandonPoint s
  let s := s.tw.landings.foldl (fun s l => dropLanding s l.2) s
  s.modTw fun t => { t with landings := t.landings.map (fun l => (l.1, { seq := l.2.seq, gone := true })) }

/-- A twin event is logged (R452) and raised. -/
def twinEvent (s : State) (code cause : Nat) : State :=
  raise (logErr s { kind := 8, cause := code }) code cause (leBytes 2 s.tw.mid)

/-- P15 has left service while the twin's HEARTBEATs still arrive on the alternate path (R463). -/
def twinLinkLost (s : State) : State :=
  if s.tw.paired ∧ !s.tw.lost ∧ !s.tw.linkOff ∧ s.now < s.tw.heard + 35000000 then
    twinEvent ((abandonPoints s).modTw fun t => { t with linkOff := true }) 0x82 0
  else s

/-! ### Ports (R374) -/

/-- A port leaves service, by the loss of its link or because the tables avoid it: the packets that wait for it are dropped
(R375), and the time loop and the pairing lose it. A link that is still up keeps its replay buffer until the frames are
acknowledged (R348); one that is lost leaves nothing to replay (log 39). -/
def portDown (s : State) (p : Nat) : State :=
  let was := s.portOk p
  let s := s.modPort p fun x =>
    if x.lanes = 0 then { x with svc := .down, unacked := [], part := [], partBad := [] } else { x with svc := .down }
  let s := dropQueued s p
  if was then
    let s := if s.tm.active = p ∧ s.tm.state.follows then parentLost s else s
    if p = 15 then twinLinkLost s else s
  else s

/-- PORT_DOWN with its cause: 1 training, 2 signal lost, 3 retrain failed (log 46). -/
def portDownEvent (s : State) (p cause : Nat) : State :=
  raise s 0x40 cause (leBytes 1 p ++ leBytes 1 0 ++ leBytes 2 (match s.peer p with | some (m, _) => m | none => 0xFFFF))

/-- A port enters service: its 16 delay exchanges begin anew (R515), and the twin's link is back (R463). -/
def portUp (s : State) (p : Nat) : State :=
  let was := s.portOk p
  let s := s.modPort p fun x =>
    { x with svc := if x.svc = .retiring then .retiring else .up, samples := if was then x.samples else [] }
  if p = 15 ∧ !was then s.modTw fun t => { t with linkOff := false } else s

/-! ### The cabling check (R377, R378) -/

/-- Another port of this module with which a port is swapped (log 38). -/
def State.swappedWith (s : State) (p : Nat) : Option Nat :=
  let sees (a b : Nat) : Bool := match s.peer b with
    | some (m, q) => (s.port a).lanes != 0 && (s.port a).seenMid == m && (s.port a).seenPort == q
    | none => false
  (List.range 16).find? (fun q => q != p && sees p q && sees q p)

/-- STATUS and PARTNER of a port (Table 12-9). A port at which several conditions hold takes RETIRED first, then the
lowest code, with SWAPPED before WRONG_PEER (log 38). -/
def State.checkPort (s : State) (p : Nat) : Nat × Nat :=
  let x := s.port p
  let seen := x.seenMid != 0xFFFF && !x.noId
  if x.retired then (9, 0xFF)
  else match s.peer p with
    | none => if x.lanes = 0 then (1, 0xFF) else (6, 0xFF)
    | some (m, q) =>
      if x.lanes = 0 then (2, 0xFF)
      else if !seen then (8, 0xFF)
      else if x.seenMid = m ∧ x.seenPort = q then (if x.lanes = 4 then 0 else 7, 0xFF)
      else if x.seenMid = m then (4, 0xFF)
      else match s.swappedWith p with
        | some o => (5, o)
        | none => (3, 0xFF)

/-- The status of a port follows a retirement or the loss of its link at once; such a change is no check, and places
nothing (R378) (log 41). -/
def restatus (s : State) (p : Nat) : State :=
  let (st, pr) := s.checkPort p
  s.modPort p fun x => { x with status := st, partner := pr }

/-- A retired port goes on in service, marked (R374). -/
def portRetire (s : State) (p : Nat) : State :=
  restatus (s.modPort p fun x => { x with retired := true, svc := if x.svc = .up then .retiring else x.svc }) p

/-- Add a resource to the retired set; a port becomes RETIRING (R374, R448). -/
def retireRes (s : State) (r cause : Nat) : State :=
  let s := retire s r cause
  if residClass r = 5 then portRetire s (r / 2 ^ 24 % 16) else s

/-- count(r, n) of R446 for a port, which becomes RETIRING when the count retires it. -/
def countPort (s : State) (p n : Nat) : State :=
  let s := countErr s (residPort p) n 3 0
  if s.retiredAll.contains (residPort p) then portRetire s p else s

/-- A status other than OK, UNUSED or DEGRADED. -/
def badStatus (n : Nat) : Bool := n != 0 && n != 1 && n != 7

/-- BAD of the cabling report. -/
def State.badPorts (s : State) : Nat := maskOf ((List.range 16).filter (fun p => badStatus (s.port p).status))

/-- Record the check of one port and place it in service or out of it. -/
def placePort (s : State) (p : Nat) : State :=
  let (st, pr) := s.checkPort p
  let s := s.modPort p fun x => { x with status := st, partner := pr }
  if st = 0 ∨ st = 7 then portUp s p
  else if st = 9 ∧ (s.port p).svc = .retiring then s
  else portDown s p

def cableMismatch (s : State) : State :=
  raise s 0x45 0 (leBytes 2 s.id.mid ++ leBytes 2 s.badPorts ++ leBytes 4 s.fab.plan.id)

def checkDone (s : State) : State :=
  s.modFab fun f => { f with plan := { f.plan with checks := (f.plan.checks + 1) % 2 ^ 32 } }

/-- The check of one port (log 41). -/
def checkOne (s : State) (p : Nat) : State :=
  if s.fab.plan.have_ then
    let s := checkDone (placePort s p)
    if badStatus (s.port p).status then cableMismatch s else s
  else s

/-- The check of a whole plan (log 41). -/
def checkAll (s : State) : State :=
  let s := checkDone ((List.range 16).foldl placePort s)
  if s.badPorts ≠ 0 then cableMismatch s else s

/-! ### Epochs (R371, R372, R375) -/

/-- A table slot names a port: a valid path leaves on it, or a multicast entry uses it. -/
def State.slotNames (s : State) (e p : Nat) : Bool :=
  s.fab.paths.any (fun x => x.1 / 1024 == e && bit x.2 80 && x.2 % 32 == p) ||
  s.fab.mcast.any (fun x => x.1 / 4096 == e && bit x.2.toNat 63 &&
    (bit x.2.toNat p || bits x.2.toNat 60 56 == p))

/-- RETIRING ports that neither slot names leave service (R374). -/
def retiringLeave (s : State) : State :=
  (List.range 16).foldl (fun s p =>
    if (s.port p).svc = .retiring ∧ !s.slotNames 0 p ∧ !s.slotNames 1 p then portDown s p else s) s

/-- The path a request takes in the current epoch: its pinned path, or the path table's (R359). -/
def State.reqPath (s : State) (r : Req) : Option Nat := if r.pinned ≠ 0 then some r.pinned else s.pathOf r.pkt.dst

/-- Die of the unit that a request comes from (Table 1-3, R323). -/
def State.reqDie (s : State) (r : Req) : Nat :=
  match r.why with
  | .beat id _ => (match s.net.txns.find? (fun t => t.id == id) with | some t => t.node | none => portDie (r.pkt.path % 32))
  | .send k _ => k / 256
  | .sum => twinDie
  | .pm d _ => d
  | .frame d _ _ => d
  | .echo => timeDie
  | .power => timeDie
  | .mirror _ => twinDie
  | .pointEnd _ => twinDie
  | .forward _ => twinDie

/-- Send an outstanding request again in the current epoch, or hold it until the epoch changes (R375). -/
def resend (s : State) (r : Req) : State :=
  let same (q : Req) : Bool := q.pkt.tag == r.pkt.tag
  match s.reqPath r with
  | none => s.modFab fun f => { f with out := f.out.map (fun q => if same q then { q with heldFor := some s.fab.ep.cur } else q) }
  | some path =>
    let k := { r.pkt with path := path, epoch := s.fab.ep.cur, ph := 0, hop := 0 }
    let s := s.modFab fun f => { f with out := f.out.map (fun q => if same q then { q with heldFor := none, pkt := k } else q) }
    inject s k (s.reqDie r)

/-- The fabric staging area becomes a copy of slot E (R552) (log 84). -/
def stageCopy (s : State) : State :=
  s.modFab fun f => { f with
    stPaths := (f.paths.filter (fun p => p.1 / 1024 == f.ep.cur)).map (fun p => (p.1 % 1024, p.2))
    stMcast := (f.mcast.filter (fun p => p.1 / 4096 == f.ep.cur)).map (fun p => (p.1 % 4096, p.2)) }

/-- Apply a completed epoch switch: CUR becomes N, EPOCH_DONE is raised, and held requests are sent again (R372,
R375) (log 84). -/
def applyEpoch (s : State) : State :=
  if s.fab.ep.complete then
    let n := 1 - s.fab.ep.cur
    let s := s.modFab fun f => { f with ep := { f.ep with cur := n, complete := false, joined := false } }
    let s := raise (stageCopy s) 0x43 0 (leBytes 1 n)
    let s := (s.fab.out.filter (fun r => r.heldFor.isSome)).foldl resend s
    retiringLeave s
  else s

/-- A group runs on the module. -/
def State.runsGroup (s : State) : Bool := s.ce.state == .running

/-- A module running no group applies a completed switch at once (R372). -/
def applyIdle (s : State) : State := if s.runsGroup then s else applyEpoch s

end Sys2Proof.Machine
end

