-- ==== Sys2Proof/Machine/CeOps.lean ====
section
/-! DEFINITION. The command engine's rings (R474-R480), the packet at the head of a ring (R475, R476, R481), the checks
that every command meets first (R483), replies (R482), and signals (R479). -/

namespace Sys2Proof.Machine

/-! ### Rings -/

def State.sqr (s : State) (q : Nat) : SqRing := tget {} s.ce.sq q
def State.modSq (s : State) (q : Nat) (f : SqRing → SqRing) : State :=
  s.modCe fun c => { c with sq := tmod {} c.sq q f }
def State.cqr (s : State) (q : Nat) : CqRing := tget {} s.ce.cq q
def State.modCq (s : State) (q : Nat) (f : CqRing → CqRing) : State :=
  s.modCe fun c => { c with cq := tmod {} c.cq q f }
def State.modEv (s : State) (f : EvRing → EvRing) : State := s.modCe fun c => { c with ev := f c.ev }

/-- Host bytes. -/
def State.hostBytes (s : State) (a n : Nat) : List Byte := mgets s.mem.host a n
def hostPut (s : State) (a : Nat) (bs : List Byte) : State :=
  { s with mem := { s.mem with host := mputs s.mem.host a bs } }

/-- RING_ERROR: cause 1 TAIL_RANGE, 2 HOST_IO; RKIND 0 SQ, 1 CQ, 2 event. -/
def ringError (s : State) (cause kind i : Nat) : State := raise s 0x0005 cause (leBytes 1 kind ++ leBytes 1 i)

/-! ### MSI-X (R471, R479) -/

/-- Word `i` of the MSI-X table; the vector control words reset to masked, as the PCIe specification gives (log 106). -/
def State.msixWord (s : State) (i : Nat) : Nat :=
  let v := tget 0 s.ce.msix i
  if i % 4 = 3 then (if v % 2 = 1 then v - 1 else v + 1) else v

/-- Raise a vector: one that its own mask or the function mask masks becomes pending (log 47). -/
def signal (s : State) (vec : Nat) : State :=
  if !s.ce.msixEn then s
  else if s.ce.fnMask || bit (s.msixWord (4 * vec + 3)) 0 then
    s.modCe fun c => { c with msixPend := if bit c.msixPend vec then c.msixPend else c.msixPend + 2 ^ vec }
  else s.modCe fun c => { c with irqs := tset 0 c.irqs vec (tget 0 c.irqs vec + 1) }

/-- Signal a ring when its count calls for it, or at once. -/
def cqSignal (s : State) (q : Nat) (atOnce : Bool) : State :=
  let r := s.cqr q
  if atOnce ∨ (r.unsig ≠ 0 ∧ r.mcnt ≤ r.unsig) then
    signal (s.modCq q fun r => { r with unsig := 0 }) r.vec
  else s

def evSignal (s : State) : State :=
  let r := s.ce.ev
  if r.unsig ≠ 0 ∧ r.mcnt ≤ r.unsig then signal (s.modEv fun r => { r with unsig := 0 }) r.vec else s

/-! ### The packet at a ring's head (R475, R476, R481) -/

/-- A command packet that has been taken. -/
structure Cmd where
  sq      : Nat
  opcode  : Nat
  flags   : Nat
  tag     : Nat
  length  : Nat
  resv    : Nat
  payload : List Byte

/-- Bytes of `n` entries from a ring index, modulo SIZE. -/
def State.sqBytes (s : State) (r : SqRing) : Nat → Nat → List Byte
  | 0, _ => []
  | n + 1, i => s.hostBytes (r.base + 64 * (i % r.size)) 64 ++ State.sqBytes s r n (i + 1)

/-- Entries a packet of the given LENGTH occupies. -/
def packetEntries (length : Nat) : Nat := if 4080 < length then 1 else (16 + length + 63) / 64

/-- The whole packet at a ring's head, if the ring may take it now, with the entries it occupies. -/
def State.headPacket (s : State) (q : Nat) : Option (Cmd × Nat) :=
  let r := s.sqr q
  if !r.en ∨ r.busy ∨ r.size = 0 then none else
  let have_ := (r.tail + r.size - r.head) % r.size
  if have_ = 0 then none else
  let h := s.hostBytes (r.base + 64 * r.head) 16
  let len := fieldAt h 8 2
  let n := packetEntries len
  if have_ < n then none else
  let bs := s.sqBytes r n r.head
  some ({ sq := q, opcode := fieldAt h 0 2, flags := fieldAt h 2 2, tag := fieldAt h 4 4, length := len
          resv := fieldAt h 10 6, payload := (bs.drop 16).take (if 4080 < len then 0 else len) }, n)

/-- The ring served next: round robin among the rings of the highest PRIO that holds work. -/
def State.nextRing (s : State) : Option Nat :=
  let work := (List.range 64).filter (fun q => (s.headPacket q).isSome)
  let top := (work.map (fun q => (s.sqr q).prio)).foldl max 0
  let mine := work.filter (fun q => (s.sqr q).prio == top)
  let last := tget 0 s.ce.turn top
  match mine.find? (fun q => decide (last < q + 1)) with
  | some q => some q
  | none => mine.head?

/-- Take a packet: the head advances, the ring waits for its reply, and the ring after it is served next. -/
def takePacket (s : State) (q n : Nat) : State :=
  let prio := (s.sqr q).prio
  let s := s.modSq q fun r => { r with head := (r.head + n) % r.size, busy := true }
  s.modCe fun c => { c with turn := tset 0 c.turn prio (q + 1) }

/-! ### Replies (R482) -/

/-- A reply before it is written. -/
structure Ans where
  status : Nat := 0
  detail : Nat := 0
  result : List Byte := []

/-- The 32 B of a reply (Table 17-5). -/
def replyBytes (tag opcode status sq sqhead detail : Nat) (result : List Byte) : List Byte :=
  leBytes 4 tag ++ leBytes 2 opcode ++ leBytes 1 status ++ leBytes 1 sq ++ leBytes 2 sqhead ++ leBytes 2 detail ++
    padTo 16 result ++ [0, 0, 0, 0]

/-- Hand a reply to the completion ring of its submission ring. -/
def reply (s : State) (sq tag opcode : Nat) (irq : Bool) (a : Ans) : State :=
  let r := s.sqr sq
  let e : CqEntry := { bytes := replyBytes tag opcode a.status sq r.head a.detail a.result, irq := irq, sq := some sq }
  s.modCq r.cq fun c => { c with wait := c.wait ++ [e] }

def replyTo (s : State) (c : Cmd) (a : Ans) : State := reply s c.sq c.tag c.opcode (bit c.flags 0) a

/-- Withhold a reply. -/
def holdReply (s : State) (c : Cmd) (why : Await) (a : Ans) : State :=
  let h : HeldReply := { why := why, sq := c.sq, tag := c.tag, opcode := c.opcode, irq := bit c.flags 0
                         status := a.status, detail := a.detail, result := a.result }
  s.modCe fun e => { e with held := e.held ++ [h] }

/-- Release the replies withheld for a reason, with the answer a function gives each. -/
def releaseHeld (s : State) (why : Await) (f : HeldReply → Ans) : State :=
  let mine := s.ce.held.filter (fun h => h.why = why)
  let s := s.modCe fun e => { e with held := e.held.filter (fun h => h.why ≠ why) }
  mine.foldl (fun s h => reply s h.sq h.tag h.opcode h.irq (f h)) s

/-- The answer a withheld reply was given when it was withheld. -/
def HeldReply.ans (h : HeldReply) : Ans := { status := h.status, detail := h.detail, result := h.result }

/-- The request carries a beat or a line of a tile's operation. -/
def Req.ofTile (r : Req) : Bool := match r.why with | .beat _ _ => true | .send _ _ => true | _ => false

/-- Every transaction that a tile started has completed or has been abandoned (R367, R490). -/
def State.tilesQuiet (s : State) : Bool :=
  s.net.txns.all (fun t => match t.from_ with | .tile _ => false | .peer _ _ _ => true) &&
  s.net.lines.all (fun l => l.send.isNone) && s.net.acks.isEmpty &&
  s.fab.waiting.all (fun r => !r.ofTile) && s.fab.out.all (fun r => !r.ofTile) &&
  s.fab.contribs.all (fun c => c.local_.isNone) && s.tiles.all (fun t => t.2.sendq.all (fun e => decide (e.nl ≤ e.nread)))

/-- STOP is answered once the tiles' transactions are over (R490) (log 86). -/
def stopCheck (s : State) : State :=
  if s.ce.held.any (fun h => h.why == .stopQuiet) && s.tilesQuiet then
    releaseHeld (s.modCe fun c => { c with excl := none }) .stopQuiet HeldReply.ans
  else s

/-! ### Commands (Table 17-8, R483, R485) -/

/-- Every defined opcode. -/
def opcodes : List Nat :=
  [0x0010, 0x0011, 0x0020, 0x0021, 0x0022, 0x0030, 0x0031, 0x0032, 0x0040, 0x0041, 0x0042, 0x0043, 0x0044, 0x0050,
   0x0051, 0x0060, 0x0061, 0x0070, 0x0071, 0x0072, 0x0080, 0x0081, 0x0090, 0x0091, 0x00A0, 0x00A1, 0x00B0, 0x00B1,
   0x00F0]

/-- The states LOADED, RUNNING and ENDED. -/
def ModState.image : ModState → Bool
  | .loaded => true | .running => true | .ended => true | _ => false

/-- STATE code of CE_STATUS (Table 17-7). -/
def ModState.code : ModState → Nat
  | .starting => 0 | .empty => 1 | .loading => 2 | .loaded => 3 | .running => 4 | .ended => 5

/-- What a command asks of the checks of R483: its opcode, its length, its states, whether it is exclusive. -/
structure CmdSpec where
  opcode : Nat
  lenOk  : List Byte → Bool
  states : ModState → Bool
  excl   : Bool := false

/-- E_BUSY of R485. -/
def State.cmdBusy (s : State) (c : CmdSpec) : Bool :=
  (c.excl && s.ce.excl.isSome) || (s.ce.state == .loading && !c.states .empty) || (c.opcode == 0x00F0 && s.fw.staging.isSome)

/-- The checks that come before the opcode's own (R483, steps 1 to 5), and the opcode's own part. -/
def runCmd (s : State) (q : Fin 64) (k : CmdSpec) (act : State → Cmd → State) : State :=
  match s.headPacket q.val with
  | none => s
  | some (c, n) =>
    if s.nextRing ≠ some q.val then s
    else if !opcodes.contains c.opcode then
      let t := takePacket s q.val n
      replyTo t c { status := stOpcode }
    else if c.opcode ≠ k.opcode then s
    else
      let t := takePacket s q.val n
      if 4080 < c.length ∨ !k.lenOk c.payload then replyTo t c { status := stLength }
      else if c.flags / 2 ≠ 0 ∨ c.resv ≠ 0 then replyTo t c { status := stParam }
      else if s.cmdBusy k then replyTo t c { status := stBusy }
      else if !k.states s.ce.state then replyTo t c { status := stState }
      else act t c

/-- The first of the opcode's own statuses that applies, with its DETAIL; 0 when none does. -/
def firstBad : List (Bool × Nat × Nat) → Nat × Nat
  | [] => (0, 0)
  | (b, st, d) :: l => if b then (st, d) else firstBad l

/-- Reply with the first status that applies, else act. -/
def checkedCmd (s : State) (c : Cmd) (l : List (Bool × Nat × Nat)) (act : State → State) : State :=
  let (st, d) := firstBad l
  if st ≠ 0 then replyTo s c { status := st, detail := d } else act s

/-- A payload of exactly `n` bytes. -/
def lenIs (n : Nat) (p : List Byte) : Bool := p.length == n

/-! ### Ring writes -/

/-- A completion ring has room for one more entry. -/
def CqRing.room (r : CqRing) : Bool := r.en && decide (2 ≤ r.size) && (r.tail + 1) % r.size != r.head

/-- Write the first waiting entry of a completion ring, then the writeback word (R477). -/
def writeCq (s : State) (q : Nat) : State × Option CqEntry :=
  let r := s.cqr q
  match r.wait with
  | [] => (s, none)
  | e :: rest =>
    if r.room ∧ !s.tw.fenced then
      let t' := (r.tail + 1) % r.size
      let s := hostPut s (r.base + 32 * r.tail) e.bytes
      let s := hostPut s r.wb (leBytes 4 t')
      let s := s.modCq q fun r => { r with tail := t', wait := rest, unsig := r.unsig + 1 }
      let s := match e.sq with | some sq => s.modSq sq fun r => { r with busy := false } | none => s
      (cqSignal s q e.irq, some e)
    else (s, none)

/-- The 32 B of an event record (Table 17-13). -/
def EvRec.bytes (r : EvRec) : List Byte :=
  leBytes 8 r.tick ++ leBytes 2 r.code ++ leBytes 2 r.cause ++ leBytes 4 r.seq ++ padTo 16 r.data

/-- Write one record at the event ring's tail, and the writeback word (log 76). -/
def putEvent (s : State) (r : EvRec) : State :=
  let e := s.ce.ev
  let t' := (e.tail + 1) % e.size
  let s := hostPut s (e.base + 32 * e.tail) r.bytes
  let s := hostPut s e.wb (leBytes 4 t')
  evSignal (s.modEv fun e => { e with tail := t', unsig := e.unsig + 1 })

/-- The event ring has room for one more record. -/
def EvRing.room (r : EvRing) : Bool := r.en && decide (2 ≤ r.size) && (r.tail + 1) % r.size != r.head

end Sys2Proof.Machine
end

