-- ==== Sys2Proof/Machine/Operands.lean ====
section
/-! DEFINITION. Operand forms of the slots: global addresses (R81-R83), the ends of a move (R92, R97), the word lists of
rows and of regions (R72, R92), and the beats they split into (R93). -/

namespace Sys2Proof.Machine

/-! ### Global addresses (Table 3-4) -/

def gaSlot (ga : Nat) : Nat := ga / 2 ^ 45 % 8
def gaDie (ga : Nat) : Nat := ga / 2 ^ 42 % 8
def gaSpace (ga : Nat) : Nat := ga / 2 ^ 40 % 4
/-- Virtual tile index of tile space, or BLOCK of control space. -/
def gaBlock (ga : Nat) : Nat := ga / 2 ^ 32 % 256
def gaOff (ga : Nat) : Nat := ga % 2 ^ 32

/-- SPACE or a must-be-0 field that no move may use (R82). -/
def gaIllFormed (ga : Nat) : Bool :=
  match gaSpace ga with
  | 0 => gaOff ga / 2 ^ 20 != 0
  | 1 => gaBlock ga != 0
  | _ => true

/-- A GA with its offset replaced, wrapped within its own space (R92). -/
def gaWithOff (ga off : Nat) : Nat :=
  if gaSpace ga = 0 then ga / 2 ^ 32 * 2 ^ 32 + off % 2 ^ 20 else ga / 2 ^ 32 * 2 ^ 32 + off % 2 ^ 32

/-- Size of the space an offset wraps in. -/
def gaModulus (ga : Nat) : Nat := if gaSpace ga = 0 then 2 ^ 20 else 2 ^ 32

/-! ### Ends of a move -/

/-- Where the words of one end lie. -/
inductive MvEnd where
  /-- scratchpad of the issuing tile, at these byte offsets, word by word -/
  | own (words : List Nat)
  /-- Cavern of the issuing die -/
  | cavern (words : List Nat)
  /-- global addresses off the die -/
  | far (words : List Nat)
  deriving DecidableEq, Repr

def MvEnd.words : MvEnd → List Nat
  | .own w => w
  | .cavern w => w
  | .far w => w

/-- REN, PEEK and REGION of RCTL (R92). -/
def MoveDesc.ren (m : MoveDesc) : Bool := bit m.rctl.toNat 5
def MoveDesc.peek (m : MoveDesc) : Bool := bit m.rctl.toNat 4
def MoveDesc.region (m : MoveDesc) : Nat := m.rctl.toNat % 16
/-- STRIDE in bytes. -/
def MoveDesc.strideB (m : MoveDesc) : Int := m.stride.toInt * 8

/-- Byte offset of word (i, w) of a plain end within its space (R92, R97). -/
def rowWord (base : Nat) (stride : Int) (modulus i w : Nat) : Nat :=
  ((((base / 8 * 8 + 8 * w : Nat) : Int) + (i : Int) * stride) % (modulus : Int)).toNat

/-- Every (row, word) pair of a move in order. -/
def rowPairs (rows rowlen : Nat) : List (Nat × Nat) :=
  (List.range rows).flatMap (fun i => (List.range rowlen).map (fun w => (i, w)))

/-- Words of a plain end. -/
def plainWords (m : MoveDesc) (rows rowlen : Nat) : List Nat :=
  (rowPairs rows rowlen).map (fun p => rowWord (gaOff m.addr.toNat) m.strideB (gaModulus m.addr.toNat) p.1 p.2)

/-- Words of a region end: a pop from HEAD or a push from TAIL on; with PEEK, at either end, the region position
ADDR[19:0] from HEAD on (R72, R92, R97) (log 111). -/
def regionWords (g : Region) (m : MoveDesc) (isDst : Bool) (rows rowlen : Nat) : List Nat :=
  if m.peek then
    (rowPairs rows rowlen).map (fun p =>
      let d : Int := ((m.addr.toNat % 2 ^ 20 / 8 * 8 : Nat) : Int) + (p.1 : Int) * m.strideB + ((8 * p.2 : Nat) : Int)
      g.at_ g.head (d % (g.size : Int)).toNat)
  else
    (List.range (rows * rowlen)).map (fun j => g.at_ (if isDst then g.tail else g.head) (8 * j))

/-- The beats of a move: the words `sp` of the end that splits are cut at the rows' ends, at 64 B lines and where they
do not go on from one another; each beat has its words at the source and at the destination (R93). -/
def beatsFrom (rowlen : Nat) : List (Nat × Nat × Nat × Nat) → List MvBeat
  | [] => []
  | (i, sp, a, b) :: l => match beatsFrom rowlen l, l with
    | w :: r, (i', sp', _, _) :: _ =>
      if i' % rowlen ≠ 0 ∧ sp' = sp + 8 ∧ sp' / 64 = sp / 64 ∧ i' = i + 1 then ⟨a :: w.src, b :: w.dst⟩ :: r
      else ⟨[a], [b]⟩ :: w :: r
    | r, _ => ⟨[a], [b]⟩ :: r

def beatList (rowlen : Nat) (sp src dst : List Nat) : List MvBeat :=
  beatsFrom rowlen ((List.range sp.length).zip (sp.zip (src.zip dst)))

/-- Cyc of beat issue: occupancy of B beats at p beats per 16 cyc (R97). -/
def moveOccupancy (b p : Nat) : Nat := 16 * (b - 1) / p + 1

/-- Affine stack of a tile (R76). -/
def affineStack (k : Nat) : Nat := vtRow (k % 256) / 4

/-- The Cavern offset lies in the tile's affine stack (R76). -/
def affineOff (k off : Nat) : Bool := off / 2 ^ 30 % 4 == affineStack k

/-- Path latency of a beat with a Cavern end (Table 3-12). -/
def cavernLatency (s : State) (k off : Nat) (isRead : Bool) : Nat :=
  let aff := affineOff k off
  if isRead then (if aff then 20 else 28) + (if s.tp2 then 0 else 2) else if aff then 14 else 22

end Sys2Proof.Machine
end

