-- ==== Sys2Proof/Machine/Move.lean ====
section
/-! DEFINITION. The memory-move slot but for DGATH (R91-R99): issue, and the beats of a move cyc by cyc; and what reaches
a scratchpad or a Cavern stack from outside the schedule (R69, R70, R78, R79, R86, R225). -/

namespace Sys2Proof.Machine

/-- DNOP (R94). -/
def execDnop (_x : Site) (s : State) : Out := .next s

/-- The field write of DSET (Table 3-9). -/
def MoveDesc.set (m : MoveDesc) (sel imm : Nat) : MoveDesc :=
  match sel with
  | 0 => { m with addr := BitVec.ofNat 48 (m.addr.toNat / 2 ^ 32 * 2 ^ 32 + imm) }
  | 1 => { m with addr := BitVec.ofNat 48 (imm % 2 ^ 16 * 2 ^ 32 + m.addr.toNat % 2 ^ 32) }
  | 2 => { m with stride := BitVec.ofNat 24 imm }
  | 3 => { m with rctl := BitVec.ofNat 6 imm }
  | _ => { m with addr := m.addr + BitVec.ofInt 48 (signedOf 32 imm) }

/-- DSET (R95); SEL 5 to 7 is reserved (R17). -/
def execDset (x : Site) (md : BitVec 5) (sel : BitVec 3) (imm : BitVec 32) (s : State) : Out :=
  .next (issue x .mv s fun s =>
    if 4 < sel.toNat then tileFault s x.key .mv .encoding
    else s.modTile x.key fun t => { t with md := tmod {} t.md md.toNat (fun m => m.set sel.toNat imm.toNat) })

/-- DREG (R96). The new state is there from the next cyc on. -/
def execDreg (x : Site) (region : BitVec 4) (rop : BitVec 2) (base size : BitVec 14) (s : State) : Out :=
  .next (issue x .mv s fun s =>
    let k := x.key
    checked s k .mv [
      (rop == 3 || (rop != 0 && (base != 0 || size != 0)), .encoding),
      (rop == 0 && decide (base.toNat + size.toNat > 16384 ∧ size ≠ 0), .address)] fun s =>
    if rop = 0 ∧ size = 0 then s
    else addJob s k .mv 1 (.region region.toNat rop.toNat base.toNat size.toNat))

/-- The change that a DREG made takes hold. -/
def setRegion (s : State) (k r rop base size : Nat) : State :=
  s.modTile k fun t => { t with regions := tmod {} t.regions r fun g =>
    match rop with
    | 0 => { en := true, base := base * 64, size := size * 64, head := 0, tail := 0, fill := 0 }
    | 1 => { g with head := 0, tail := 0, fill := 0 }
    | _ => { g with en := false } }

/-! ### Ends of a move -/

/-- Words of one end, by its kind. -/
def endOf (s : State) (k : Nat) (m : MoveDesc) (isDst : Bool) (rows rowlen : Nat) : MvEnd :=
  let ga := m.addr.toNat
  if m.ren then .own (regionWords (tget {} (s.tile k).regions m.region) m isDst rows rowlen)
  else if gaSlot ga ≠ s.id.slot ∨ gaDie ga ≠ k / 256 then .far (plainWords m rows rowlen)
  else if gaSpace ga = 1 then .cavern (plainWords m rows rowlen)
  else .own (plainWords m rows rowlen)

/-- The end is the issuing tile's own scratchpad or region. -/
def endOwn (s : State) (k : Nat) (m : MoveDesc) : Bool :=
  m.ren || (gaSlot m.addr.toNat == s.id.slot && gaDie m.addr.toNat == k / 256 && gaSpace m.addr.toNat == 0 &&
    gaBlock m.addr.toNat == k % 256)

/-- The end is the issuing die's own Cavern. -/
def endCavern (s : State) (k : Nat) (m : MoveDesc) : Bool :=
  !m.ren && gaSlot m.addr.toNat == s.id.slot && gaDie m.addr.toNat == k / 256 && gaSpace m.addr.toNat == 1

/-- The end lies on another die or module (R98). -/
def endFar (s : State) (k : Nat) (m : MoveDesc) : Bool :=
  gaSlot m.addr.toNat != s.id.slot || gaDie m.addr.toNat != k / 256

/-- An address of the end that R82 refuses: its form, a disabled region, or Cavern the usage map does not name. -/
def endAddressBad (s : State) (k : Nat) (m : MoveDesc) (e : MvEnd) : Bool :=
  if m.ren then !(tget {} (s.tile k).regions m.region).en
  else gaIllFormed m.addr.toNat ||
    (match e with
      | .cavern ws => ws.any (fun o => !s.subNamed (k / 256) o)
      | .far ws => gaSlot m.addr.toNat == s.id.slot && gaSpace m.addr.toNat == 1 &&
          ws.any (fun o => !s.subNamed (gaDie m.addr.toNat) o)
      | .own _ => false)

/-- A tile-space end of this module that names no bound tile (R52). -/
def endNoTile (s : State) (m : MoveDesc) : Bool :=
  !m.ren && gaSlot m.addr.toNat == s.id.slot && gaSpace m.addr.toNat == 0 &&
    !s.bound (gaDie m.addr.toNat) (gaBlock m.addr.toNat)

/-- A powered-down bank, or a sub-array powered down or absent, among the words of a plain end (R86, R92). -/
def endOff (s : State) (k : Nat) (m : MoveDesc) (e : MvEnd) : Bool :=
  match e with
  | .own ws => !m.ren && ws.any (fun o => !s.bankOn k o)
  | .cavern ws => ws.any (fun o => !s.subOn (k / 256) o)
  | .far _ => false

/-- Pops and pushes of the ends, at issue (R73). -/
def applyRegions (s : State) (k : Nat) (a b : MoveDesc) (n : Nat) : State :=
  s.modTile k fun t =>
    let t := if a.ren && !a.peek then t.pop a.region n else t
    if b.ren && !b.peek then t.push b.region n else t

/-- The post-increments, at issue (R97). -/
def applyIncs (s : State) (k src dst : Nat) (sinc dinc : Bool) (rows : Nat) : State :=
  let inc (m : MoveDesc) : MoveDesc :=
    if m.ren then m else { m with addr := m.addr + BitVec.ofInt 48 ((rows : Int) * m.strideB) }
  s.modTile k fun t =>
    let t := if sinc then { t with md := tmod {} t.md src inc } else t
    if dinc then { t with md := tmod {} t.md dst inc } else t

/-- Beat rate of PACE, bounded by 16 with a non-affine Cavern end (R93). -/
def paceOf (pace : Nat) (slow : Bool) : Nat :=
  if slow then (if pace = 0 then 16 else min pace 16) else if pace = 0 then 32 else pace

/-- Whether some word of a Cavern end lies outside the affine stack. -/
def endSlow (k : Nat) (e : MvEnd) : Bool :=
  match e with
  | .cavern ws => ws.any (fun o => !affineOff k o)
  | _ => false

/-- The longest path latency among the beats of a DMOV (Table 3-12) (log 30). -/
def pathLatency (s : State) (k : Nat) (a b : MvEnd) : Nat :=
  match a, b with
  | .cavern ws, _ => (ws.map (fun o => cavernLatency s k o true)).foldl max 0
  | _, .cavern ws => (ws.map (fun o => cavernLatency s k o false)).foldl max 0
  | _, _ => 4

def MvEnd.kind : MvEnd → EndKind
  | .own _ => .own
  | .cavern _ => .cavern
  | .far _ => .far

/-- Occupancy of a move (R97). -/
def MoveJob.occupancy (w : MoveJob) : Nat := moveOccupancy w.beats.length w.pace

/-- DMOV (R97). -/
def execDmov (x : Site) (src dst : BitVec 5) (rowlen : BitVec 11) (rows : BitVec 12) (sinc dinc : BitVec 1)
    (pace : BitVec 6) (s : State) : Out :=
  .next (issue x .mv s fun s =>
    let k := x.key
    let n := rowlen.toNat * rows.toNat * 8
    let a := tget {} (s.tile k).md src.toNat
    let b := tget {} (s.tile k).md dst.toNat
    let ea := endOf s k a false rows.toNat rowlen.toNat
    let eb := endOf s k b true rows.toNat rowlen.toNat
    let pairOk := (endOwn s k a && (endOwn s k b || endCavern s k b)) || (endOwn s k b && endCavern s k a)
    let noTile := endNoTile s a || endNoTile s b
    let t := s.tile k
    checkedWork s k .mv [(decide (32 < pace.toNat), .encoding), (s.busyRes k .mvPort, .unitBusy)] (n != 0) [
      (endAddressBad s k a ea || endAddressBad s k b eb || (!pairOk && !noTile), .address),
      (noTile, .noTile),
      (b.ren && !b.peek && t.pushFails b.region n, .regionFull),
      (a.ren && !a.peek && t.popFails a.region n, .regionEmpty),
      (endOff s k a ea || endOff s k b eb, .bankOff)] fun s =>
    let sp := if endCavern s k b then eb.words else ea.words
    let w : MoveJob := { src := ea.kind, dst := eb.kind, pace := paceOf pace.toNat (endSlow k ea || endSlow k eb)
                         beats := beatList rowlen.toNat sp ea.words eb.words }
    let lat := w.occupancy - 1 + pathLatency s k ea eb
    let s := applyIncs (applyRegions s k a b n) k src.toNat dst.toNat (sinc = 1) (dinc = 1) rows.toNat
    occupy (addJob s k .mv lat (.move w)) k .mvPort w.occupancy lat)

/-! ### DTRN -/

/-- DTRN (R99). -/
def execDtrn (x : Site) (src dst : BitVec 5) (hw : BitVec 1) (blocks : BitVec 12) (sinc dinc : BitVec 1)
    (s : State) : Out :=
  .next (issue x .mv s fun s =>
    let k := x.key
    let n := blocks.toNat
    let a := tget {} (s.tile k).md src.toNat
    let b := tget {} (s.tile k).md dst.toNat
    let m := if hw = 0 then 32 else 16
    let w : TrnJob := { src := gaOff a.addr.toNat / 8 * 8, dst := gaOff b.addr.toNat / 8 * 8, srcS := a.strideB
                        dstS := b.strideB, m := m, blocks := n }
    let off (o : Nat) : Bool := (rowRanges o).any (fun r => !s.bankOn k r.1)
    let noTile := endNoTile s a || endNoTile s b
    checkedWork s k .mv [(s.busyRes k .mvPort, .unitBusy)] (n != 0) [
      (a.ren || b.ren || gaIllFormed a.addr.toNat || gaIllFormed b.addr.toNat ||
        (!(endOwn s k a && endOwn s k b) && !noTile), .address),
      (noTile, .noTile),
      ((List.range n).any (fun i => (List.range m).any (fun j => off (w.srcOff i j) || off (w.dstOff i j))), .bankOff)]
      fun s =>
    let s := s.modTile k fun t =>
      let incS (d : MoveDesc) : MoveDesc := { d with addr := d.addr + BitVec.ofNat 48 (n * 32) }
      let incD (d : MoveDesc) : MoveDesc :=
        { d with addr := d.addr + BitVec.ofInt 48 (((n * m : Nat) : Int) * d.strideB) }
      let t := if sinc = 1 then { t with md := tmod {} t.md src.toNat incS } else t
      if dinc = 1 then { t with md := tmod {} t.md dst.toNat incD } else t
    let h := m / 2
    occupy (addJob s k .mv (h * n + h + 1) (.trn w)) k .mvPort (h * n) (h * n + h + 1))

/-- DTRN reads two rows of a block a cyc. -/
def TrnJob.read (s : State) (k : Nat) (j : Job) (w : TrnJob) (c : Nat) : State × TrnJob :=
  let rs := w.rowsNow (c - j.t0)
  if rs.isEmpty then (s, w)
  else match readAcc s k j.bundle j.slot (rs.flatMap (fun r => rowRanges (w.srcOff r.1 r.2))) with
    | (s, false) => (s, w)
    | (s, true) =>
      (s, { w with rows := w.rows ++ rs.map (fun r =>
        (r.1, r.2, (rowRanges (w.srcOff r.1 r.2)).flatMap (fun p => s.spBytes k p.1 p.2))) })

/-- Destination row `i` of block `b`: element (r, i) of every row r read. -/
def TrnJob.column (w : TrnJob) (b i : Nat) : List Byte :=
  let e := 32 / w.m
  (w.rows.filter (fun r => r.1 == b)).flatMap (fun r => (r.2.2.drop (e * i)).take e)

/-- Two destination rows are written at the end of a cyc; a block whose rows were not all read writes none. -/
def TrnJob.write (s : State) (k : Nat) (j : Job) (w : TrnJob) (c : Nat) (lost : List Nat) : State × TrnJob :=
  let out := w.outNow (c - j.t0)
  let put (s : State) (r : Nat × Nat) : State :=
    let bs := w.column r.1 r.2
    if bs.length < 32 then s else
    ((rowRanges (w.dstOff r.1 r.2)).foldl (fun (a : State × List Byte) p =>
      (jobWrite a.1 k j lost p.1 (a.2.take p.2), a.2.drop p.2)) (s, bs)).1
  let s := out.foldl put s
  let past := match out with | (b, i) :: _ => if i + 2 = w.m then some b else none | [] => none
  (s, match past with | some b => { w with rows := w.rows.filter (fun r => r.1 != b) } | none => w)

/-! ### DMOVX and transactions off the die -/

/-- Join a word to the beat before it when both ends go on within one 64 B line of the far end. -/
def joinBeat (l : List Beat) (w : Beat) : List Beat :=
  match l with
  | [] => [w]
  | b :: r =>
    if b.ga / 64 = w.ga / 64 ∧ b.ga + b.len = w.ga ∧ b.loc + b.len = w.loc ∧ b.poison = w.poison
    then { b with len := b.len + w.len, data := b.data ++ w.data } :: r
    else w :: b :: r

/-- The parts of a beat whose bytes go on at both ends, as beats of a transaction. -/
def farBeats (op : BeatOp) (gas locs : List Nat) (data : List PWord) : List Beat :=
  let ws := (gas.zip (locs.zip data)).map fun p =>
    { op := op, ga := p.1, loc := p.2.1, len := 8, data := p.2.2.1, poison := p.2.2.2, st := .out : Beat }
  (ws.foldl joinBeat []).reverse

/-- Replace the transaction of an id. -/
def State.setTxn (s : State) (t : Txn) : State :=
  { s with net := { s.net with txns := s.net.txns.map (fun u => if u.id = t.id then t else u) } }

def State.txn? (s : State) (id : Nat) : Option Txn := s.net.txns.find? (fun t => t.id == id)

/-- Every beat has landed or been discarded. -/
def Txn.landed (t : Txn) : Bool := !t.more && t.beats.all (fun b => match b.st with | .out => false | _ => true)

/-- Every beat has its response. -/
def Txn.complete (t : Txn) : Bool := !t.more && t.beats.all (fun b => b.st == .done)

/-- A transaction whose last response has landed: its issuer's counter increments and it is outstanding no longer
(R98, R120). -/
def completeTxn (s : State) (t : Txn) : State :=
  if t.complete then
    let s := { s with net := { s.net with txns := s.net.txns.filter (fun u => u.id != t.id) } }
    match t.from_ with
    | .tile x => stopCheck ((bumpAc s x.key t.ackCnt).modTile x.key fun u => { u with outst := u.outst - 1 })
    | .peer _ _ _ => s
  else s.setTxn t

/-- Start a transaction of a tile, whose beats are still to issue: it stays outstanding until every response has landed
(R120). -/
def openTxn (s : State) (x : Site) (landCnt : Option (Nat × Nat)) (ackCnt : Nat) (beats : List Beat := [])
    (more : Bool := true) : State :=
  let t : Txn := { id := s.net.nextId, from_ := .tile x, node := x.die.val, bundle := (s.tile x.key).pc, beats := beats,
                   landCnt := landCnt, ackCnt := ackCnt, more := more }
  let s := { s with net := { s.net with txns := s.net.txns ++ [t], nextId := s.net.nextId + 1 } }
  s.modTile x.key fun t => { t with outst := t.outst + 1 }

/-- No more beats come: what has landed meanwhile counts now. -/
def closeTxn (s : State) (t : Txn) (own : Bool) : State :=
  let s := s.setTxn t
  let s := if t.landed && own then (match t.landCnt with | some (k, c) => bumpAc s k c | none => s) else s
  completeTxn s t

/-- Beats of a transaction issue, with `close` its last ones. The request that carries the counter of a target on
another module is the last one, so the newest beat waits there until the next one issues or none will. -/
def extendTxn (s : State) (id : Nat) (bts : List Beat) (close own : Bool) : State :=
  match s.txn? id with
  | none => s
  | some t =>
    let hold := t.landCnt.isSome
    let n := t.beats.length
    let t' := { t with beats := t.beats ++ bts, more := !close }
    let m := t'.beats.length
    let lo := if hold then n - 1 else n
    let hi := if hold && !close then m - 1 else m
    let gcnt := match t.landCnt with | some (_, c) => c | none => 0
    let s := s.setTxn t'
    let s := (t'.beats.zipIdx).foldl (fun s p =>
      if decide (lo ≤ p.2 ∧ p.2 < hi) && gaSlot p.1.ga != s.id.slot
      then beatReq s id p.2 p.1 (hold && close && p.2 + 1 == m) gcnt else s) s
    if close then closeTxn s t' own else s

/-- A transaction whose instruction stopped: the beats issued complete, and no counter increments (log 108). -/
def cutTxn (s : State) (id : Nat) : State :=
  match s.txn? id with
  | none => s
  | some t => if t.more then extendTxn (s.setTxn { t with landCnt := none, ackCnt := 0 }) id [] true false else s

/-- DMOVX (R98). The far end's words are the beats' targets; a read lands at the local end. -/
def execDmovx (x : Site) (src dst : BitVec 5) (rowlen : BitVec 11) (rows : BitVec 12) (sinc dinc : BitVec 1)
    (pace : BitVec 6) (gcnt : BitVec 5) (s : State) : Out :=
  .next (issue x .mv s fun s =>
    let k := x.key
    let n := rowlen.toNat * rows.toNat * 8
    let a := tget {} (s.tile k).md src.toNat
    let b := tget {} (s.tile k).md dst.toNat
    let ea := endOf s k a false rows.toNat rowlen.toNat
    let eb := endOf s k b true rows.toNat rowlen.toNat
    let isRead := !a.ren && endFar s k a
    let isWrite := !b.ren && endFar s k b
    let noTile := endNoTile s a || endNoTile s b
    let pairOk := (isRead && endOwn s k b) || (isWrite && endOwn s k a)
    let far := if isRead then a else b
    let farCav := gaSpace far.addr.toNat == 1
    let t := s.tile k
    checkedWork s k .mv [(decide (32 < pace.toNat), .encoding), (s.busyRes k .mvPort, .unitBusy)] (n != 0) [
      (endAddressBad s k a ea || endAddressBad s k b eb || (!pairOk && !noTile), .address),
      (noTile, .noTile),
      (b.ren && !b.peek && t.pushFails b.region n, .regionFull),
      (a.ren && !a.peek && t.popFails a.region n, .regionEmpty),
      (endOff s k a ea || endOff s k b eb, .bankOff),
      (gaSlot far.addr.toNat != s.id.slot && s.noPeer (gaSlot far.addr.toNat), .noPeer)] fun s =>
    -- beats split at the lines of a Cavern end, else of the source (R93)
    let sp := if farCav && isWrite then eb.words else ea.words
    let w : MoveJob := { src := ea.kind, dst := eb.kind, pace := paceOf pace.toNat farCav
                         beats := beatList rowlen.toNat sp ea.words eb.words, far := far.addr.toNat
                         txn := some s.net.nextId }
    let p := w.occupancy
    let toTile := isWrite && gaSpace b.addr.toNat == 0
    let tgt := gaDie b.addr.toNat * 256 + gaBlock b.addr.toNat
    let s := applyIncs (applyRegions s k a b n) k src.toNat dst.toNat (sinc = 1) (dinc = 1) rows.toNat
    let s := openTxn s x (if toTile then some (tgt, gcnt.toNat) else none) (if toTile then 0 else gcnt.toNat)
    occupy (addJob s k .mv p (.move w)) k .mvPort p p)

/-! ### The beats of DMOV and DMOVX (R77, R93, R97, R98) -/

/-- A Cavern beat in the budget of its die: at most 1,250 read and 625 write beats of a stack and 512 non-affine ones of
the die in any 16 cyc, and one beat of a sub-array in a cyc (R77) (log 114). -/
def budgetSpent (l : List CvBeat) (b : CvBeat) : Bool :=
  decide ((if b.wr then 625 else 1250) ≤ (l.filter (fun e => e.stack == b.stack && e.wr == b.wr)).length) ||
    (!b.affine && decide (512 ≤ (l.filter (fun e => !e.affine)).length)) || l.any (fun e => e.at_ == b.at_ && e.sub == b.sub)

/-- Beats of the last 16 cyc of a die. -/
def Die.recent (d : Die) : List CvBeat := d.beats.filter (fun e => decide (d.cyc < e.at_ + 16))

/-- A scheduled beat is admitted unless the scheduled beats before it have spent the budget. -/
def admitBeat (s : State) (k off : Nat) (wr : Bool) : Option State :=
  let d := s.die (k / 256)
  let b : CvBeat := { at_ := d.cyc, stack := off / 2 ^ 30 % 4, wr := wr, sub := off / 2 ^ 23 % 512, affine := affineOff k off
                      spare := false }
  if budgetSpent (d.recent.filter (fun e => !e.spare)) b then none
  else some (s.modDie (k / 256) fun d => { d with beats := d.recent ++ [b] })

/-- A beat of a peer or of the page manager takes a line slot that is left within the budget, and never one that a scheduled
beat needs; while its die does not run no scheduled beat claims any (R78) (log 115). -/
def spareBeat (s : State) (d off : Nat) (wr : Bool) : Option State :=
  let x := s.die d
  let b : CvBeat := { at_ := x.cyc, stack := off / 2 ^ 30 % 4, wr := wr, sub := off / 2 ^ 23 % 512, affine := false, spare := true }
  if !x.runs then some s
  else if budgetSpent x.recent b then none
  else some (s.modDie d fun x => { x with beats := x.recent ++ [b] })

/-- Words of own scratchpad. -/
def ownWords (s : State) (k : Nat) (ws : List Nat) : List PWord := ws.map (fun o => (s.spBytes k o 8, false))

/-- Words of the die's Cavern: of a beat that is delivered poisoned (Table 3-6), the words found uncorrectable carry the
poison, and the others land clean (DESIGN CHOICE, log 30). -/
def cavWords (s : State) (d : Nat) (ws : List Nat) : List PWord :=
  ws.map (fun o => (s.cvBytes d o 8, s.mem.cavErr.any (fun x => x.1 == cvKey d o / 8 && x.2.bad)))

/-- One beat issues; the flag says whether the move goes on. -/
def MoveJob.beat (s : State) (k : Nat) (j : Job) (w : MoveJob) (c : Nat) (b : MvBeat) : State × MoveJob × Bool :=
  let d := k / 256
  let o := (if w.src = .cavern then b.src else b.dst).headD 0
  let last := w.beats.length == 1
  let w' := { w with beats := w.beats.drop 1, next := w.next + 1 }
  match w.src, w.dst with
  | .far, _ =>
    let gas := b.src.map (gaWithOff w.far)
    (extendTxn s (w.txn.getD 0) (farBeats .read gas b.dst (gas.map (fun _ => ([], false)))) last false, w', true)
  | .cavern, _ =>
    match admitBeat s k o false with
    | none => (faultAt s k j.bundle j.slot .cavernBudget, w, false)
    | some s =>
      let data := cavWords s d b.src
      let (s, bad) := checkCv s d (b.src.map (fun o => (o, 8)))
      (s, { w' with air := w'.air ++ [⟨c + cavernLatency s k o true - 1, b.dst, data, bad⟩] }, true)
  | .own, dst =>
    match readAcc s k j.bundle j.slot (joinWords b.src) with
    | (s, false) => (s, w, false)
    | (s, true) =>
      let data := ownWords s k b.src
      match dst with
      | .own => (s, { w' with air := w'.air ++ [⟨c + 3, b.dst, data, false⟩] }, true)
      | .cavern =>
        (match admitBeat s k o true with
        | none => (faultAt s k j.bundle j.slot .cavernBudget, w, false)
        | some s => (s, { w' with air := w'.air ++ [⟨c + cavernLatency s k o false - 1, b.dst, data, false⟩] }, true))
      | .far => (extendTxn s (w.txn.getD 0) (farBeats .write (b.dst.map (gaWithOff w.far)) b.src data) last
          (gaSlot w.far == s.id.slot), w', true)

/-- The beats that issue in cyc `c`, up to one that is refused. -/
def MoveJob.read (s : State) (k : Nat) (j : Job) (w : MoveJob) (c : Nat) : State × MoveJob :=
  let go := (w.now (c - j.t0)).foldl (fun (a : State × MoveJob × Bool) b =>
    if a.2.2 then a.2.1.beat a.1 k j c b else a) (s, w, true)
  (go.1, go.2.1)

/-- Words with their places as runs of bytes: a word that goes on from the one before it in the same bank, with the same
poison, is part of its run. -/
def wordRuns : List (Nat × PWord) → List (Nat × PWord)
  | [] => []
  | (o, b, p) :: l => match wordRuns l with
    | (q, bs, p') :: r =>
      if o + 8 = q ∧ o / 65536 = q / 65536 ∧ p = p' then (o, b ++ bs, p) :: r else (o, b, p) :: (q, bs, p') :: r
    | [] => [(o, b, p)]

/-- A beat lands: its words are written, and one that Cavern delivered poisoned faults the tile (Table 3-6). -/
def MoveJob.land (s : State) (k : Nat) (j : Job) (w : MoveJob) (lost : List Nat) (a : MvAir) : State :=
  let s := match w.dst with
    | .own => (wordRuns (a.dst.zip a.data)).foldl (fun s p => jobWrite s k j lost p.1 p.2.1 p.2.2) s
    | .cavern => (a.dst.zip a.data).foldl (fun s p => cvPut s (k / 256) p.1 p.2.1 p.2.2) s
    | .far => s
  if a.ue then faultAt s k j.bundle j.slot .cavernUe else s

/-- The beats that land at the end of cyc `c`. -/
def MoveJob.write (s : State) (k : Nat) (j : Job) (w : MoveJob) (c : Nat) (lost : List Nat) : State × MoveJob :=
  ((w.air.filter (fun a => a.land == c)).foldl (fun s a => w.land s k j lost a) s,
    { w with air := w.air.filter (fun a => a.land != c) })

/-! ### Arrival at a target -/

/-- A byte of a tile's scratchpad takes an arrival: its bank is on and it lies outside the code region (R70, R86). -/
def State.takes (s : State) (k off : Nat) : Bool := s.bankOn k off && !s.inCode k off

/-- Pieces of an arrival land at a tile's scratchpad; what lies in the code region or a bank that is off is discarded and
reported (R69, R70, R86). -/
def landPieces (s : State) (k : Nat) (l : List (Nat × List Byte)) (poison : Bool) (srcMid : Nat) : State :=
  let ps := l.flatMap (fun p => pageCuts p.1 p.2)
  let s' := putPieces s k .arrival (ps.filter (fun p => s.takes k p.1)) poison
  match ps.find? (fun p => !s.takes k p.1) with
  | some p => memDiscard s' (k / 256) 0 (k % 256) (p.1 % 2 ^ 20) srcMid
  | none => s'

/-- An arrival write of bytes at an offset. `add` adds one FP32 value in place of writing (R225). -/
def arriveAt (s : State) (k off : Nat) (bs : List Byte) (poison add : Bool) (srcMid : Nat) : State :=
  let bs := if add then leBytes 4 (Fp.add (BitVec.ofNat 32 (s.spNat k off 4)) (BitVec.ofNat 32 (leNat bs))).toNat else bs
  landPieces s k [(off, bs)] poison srcMid

/-- A remote write at a die's Cavern (R78, R86). -/
def arriveCav (s : State) (d off : Nat) (bs : List Byte) (poison : Bool) (srcMid : Nat) : State :=
  if s.subOn d off then cvPut s d off bs poison else memDiscard s d 1 0 (off % 2 ^ 32) srcMid

/-- Source module of a transaction. -/
def Txn.srcMid (t : Txn) (own : Nat) : Nat := match t.from_ with | .tile _ => own | .peer m _ _ => m

/-- The response to a peer's request once every beat of it has reached its target: the data of a read, or an
acknowledgement, with the first fault found (R98, R365). -/
def answerPeer (s : State) (t : Txn) (mid tag gen : Nat) : State :=
  let causes := t.beats.map (fun b => match b.st with | .back c => c | _ => 0)
  let status := statusOfCause ((causes.find? (· != 0)).getD 0)
  let s := { s with net := { s.net with txns := s.net.txns.filter (fun u => u.id != t.id) } }
  let node := match t.beats with | b :: _ => gaDie b.ga | [] => t.node
  if t.beats.any (fun b => b.op == .read) then
    respond s node mid 0x03 1 status tag gen (t.beats.flatMap (fun b => padTo b.len b.data)) (t.beats.any (·.poison))
  else respond s node mid 0x04 1 status tag gen

/-- A transaction for a peer's request; its beats are cut at lines and leave from the die where it entered the module. -/
def peerTxn (s : State) (node : Nat) (p : Packet) (beats : List Beat) (landCnt : Option (Nat × Nat)) : State :=
  let t : Txn := { id := s.net.nextId, from_ := .peer p.src p.tag p.tgen, node := node, bundle := 0, beats := beats
                   landCnt := landCnt, ackCnt := 0 }
  { s with net := { s.net with txns := s.net.txns ++ [t], nextId := s.net.nextId + 1 } }

/-- Pieces of a byte range that stay within 64 B lines: (first byte, length). -/
def cutLines : Nat → Nat → Nat → List (Nat × Nat)
  | 0, _, _ => []
  | f + 1, a, n =>
    if n = 0 then [] else
    let m := min n (64 - a % 64)
    (a, m) :: cutLines f (a + m) (n - m)

/-- After a beat has reached its target: when it was the last one, the target tile's counter increments (R98, R225),
and a peer is answered. -/
def landedCheck (s : State) (t : Txn) : State :=
  let s := s.setTxn t
  if t.landed then
    let s := match t.landCnt with | some (k, c) => bumpAc s k c | none => s
    match t.from_ with
    | .tile _ => s
    | .peer mid tag gen => answerPeer s t mid tag gen
  else s

/-- A bank that the bytes lie in is not free in the present cyc (R69). -/
def State.rangeTaken (s : State) (k off n : Nat) : Bool := s.rangesTaken k [(off, n)]

/-- A scatter-add may land: on the die of its tile no sooner than 10 cyc after its WR cyc, and after the adds of the same
VRUN, or of the same peer, that were issued before it to its address (R225) (log 119). -/
def State.addDue (s : State) (t : Txn) (b : Nat) (bt : Beat) : Bool :=
  let x := s.die (gaDie bt.ga)
  let near := match t.from_ with | .tile y => y.die.val == gaDie bt.ga | .peer _ _ _ => false
  let waits (l : List Beat) : Bool := l.any (fun e => e.op == .add && e.ga == bt.ga && e.st == .out)
  let before (u : Txn) : Bool := decide (u.id < t.id) &&
    (match u.from_, t.from_ with | .peer m _ _, .peer n _ _ => m == n | _, _ => false)
  !(near && x.runs && decide (x.cyc < bt.at_ + 10)) && !waits (t.beats.take b) &&
    s.net.txns.all (fun u => !(before u && waits u.beats))

/-- An earlier write beat of the transaction is still to land in the line that beat `b` writes: what one instruction writes
lands in the order of its beats (DEDUCED, log 119). -/
def Txn.waitsFor (t : Txn) (b : Nat) (bt : Beat) : Bool :=
  bt.op == .write && (t.beats.take b).any (fun e => e.op == .write && e.ga / 64 == bt.ga / 64 && e.st == .out)

/-- The bytes of the response are the last of a DGATH's, and the cycles of Table 8-12 are not yet over on its running die
(R261). -/
def State.tooSoon (s : State) (x : Site) (t : Txn) : Bool :=
  let d := s.die x.die.val
  d.runs && decide (d.cyc < t.due) && t.beats.countP (fun b => b.st != .done) == 1

/-- ARRIVAL_WRITE: beat `b` of transaction `id`, bound for a tile of this module, has crossed the bridges of its route and
lands in a free bank cyc (R69, R323). -/
def execArrivalWrite (id b : Nat) (s : State) : Out :=
  .next (match s.txn? id with
    | none => s
    | some t => match t.beats[b]? with
      | none => s
      | some bt =>
        let k := gaDie bt.ga * 256 + gaBlock bt.ga
        if bt.st = .out ∧ bt.op ≠ .read ∧ gaSlot bt.ga = s.id.slot ∧ gaSpace bt.ga = 0 then
          if s.rangeTaken k (gaOff bt.ga) bt.len || !s.pathUp t.node (gaDie bt.ga) ||
              (bt.op == .add && !s.addDue t b bt) || t.waitsFor b bt then s
          else if s.bound (k / 256) (k % 256) then
            let s := s.useBanks k [(gaOff bt.ga, bt.len)]
            let s := arriveAt s k (gaOff bt.ga) bt.data bt.poison (bt.op == .add) (t.srcMid s.id.mid)
            landedCheck s { t with beats := setNth t.beats b (fun x => { x with st := .back 0 }) }
          else landedCheck s { t with beats := setNth t.beats b (fun x => { x with st := .back Cause.noTile.code }) }
        else s)

/-- Read `n` bytes at a GA of this module for a remote reader: data, poison, and the fault the response brings. A response
with an uncorrectable word carries poison as a whole (Table 3-6; DESIGN CHOICE, log 30). -/
def remoteRead (s : State) (ga n srcMid : Nat) : State × List Byte × Bool × Nat :=
  let d := gaDie ga
  let k := d * 256 + gaBlock ga
  if gaSpace ga = 0 then
    if !s.bound d (gaBlock ga) then (s, [], false, Cause.noTile.code)
    else if !s.bankOn k (gaOff ga) then (memDiscard s d 0 (gaBlock ga) (gaOff ga) srcMid, [], false, Cause.bankOff.code)
    else
      let data := s.spBytes k (gaOff ga) n
      let (s, bad) := checkSp s k [(gaOff ga, n)]
      (s, data, bad, if bad then Cause.cavernUe.code else 0)
  else if !s.subNamed d (gaOff ga) then (s, [], false, Cause.address.code)
  else if !s.subOn d (gaOff ga) then (memDiscard s d 1 0 (gaOff ga) srcMid, [], false, Cause.bankOff.code)
  else
    let data := s.cvBytes d (gaOff ga) n
    let (s, bad) := checkCv s d [(gaOff ga, n)]
    (s, data, bad, if bad then Cause.cavernUe.code else 0)

/-- The free bank cyc or the unused line slot of Cavern that a remote access takes, if there is one in this cyc (R69, R78). -/
def remoteSlot (s : State) (bt : Beat) : Option State :=
  let k := gaDie bt.ga * 256 + gaBlock bt.ga
  if gaSpace bt.ga = 1 then spareBeat s (gaDie bt.ga) (gaOff bt.ga) (bt.op != .read)
  else if s.rangeTaken k (gaOff bt.ga) bt.len then none
  else some (s.useBanks k [(gaOff bt.ga, bt.len)])

/-- REMOTE_ACCESS: a beat from another die or module has crossed the bridges of its route and reaches a Cavern stack or, to
read, a tile, in an unused slot (R78, R323). -/
def execRemoteAccess (id b : Nat) (s : State) : Out :=
  .next (match s.txn? id with
    | none => s
    | some t => match t.beats[b]? with
      | none => s
      | some bt =>
        if bt.st = .out ∧ gaSlot bt.ga = s.id.slot ∧ (gaSpace bt.ga = 1 ∨ gaSpace bt.ga = 0 ∧ bt.op = .read) ∧
            s.pathUp t.node (gaDie bt.ga) ∧ !t.waitsFor b bt then
          match remoteSlot s bt with
          | none => s
          | some s =>
          match bt.op with
          | .read =>
            let (s, data, bad, cause) := remoteRead s bt.ga bt.len (t.srcMid s.id.mid)
            let answer (x : Beat) : Beat := { x with data := data, poison := bad, st := .back cause }
            landedCheck s { t with beats := setNth t.beats b answer }
          | _ =>
            if gaSpace bt.ga = 1 then
              let named := s.subNamed (gaDie bt.ga) (gaOff bt.ga)
              let s := if named then arriveCav s (gaDie bt.ga) (gaOff bt.ga) bt.data bt.poison (t.srcMid s.id.mid) else s
              let ack (x : Beat) : Beat := { x with st := .back (if named then 0 else Cause.address.code) }
              landedCheck s { t with beats := setNth t.beats b ack }
            else s
        else s)

/-- Cause with a given code. -/
def causeOfCode (c : Nat) : Cause :=
  if c = 0x01 then .regionFull else if c = 0x03 then .noTile else if c = 0x09 then .address
  else if c = 0x0A then .noPeer else if c = 0x0B then .bankOff else if c = 0x0D then .cavernUe
  else if c = 0x14 then .noPage else if c = 0x15 then .staleFrame else .channel

/-- The die that the response of a beat comes from: the target die, or the I/O die of the board port to its module. -/
def State.farNode (s : State) (ga : Nat) : Nat :=
  if gaSlot ga = s.id.slot then gaDie ga else portDie ((s.boardPort (gaSlot ga)).getD 0)

/-- REMOTE_RESPONSE: the response or acknowledgement of a beat lands at the issuing tile (R98). Read data land as an
arrival write; a fault found at the target is raised now, for the bundle that issued (R107). -/
def execRemoteResponse (id b : Nat) (s : State) : Out :=
  .next (match s.txn? id with
    | none => s
    | some t => match t.from_, t.beats[b]? with
      | .tile x, some bt =>
        match bt.st with
        | .back c =>
          let k := x.key
          let lands := bt.op == .read && (c == 0 || bt.poison)
          if (lands && s.rangeTaken k bt.loc bt.data.length) || !s.pathUp (s.farNode bt.ga) x.die.val || s.tooSoon x t then s
          else
          let s := if lands then arriveAt (s.useBanks k [(bt.loc, bt.data.length)]) k bt.loc bt.data bt.poison false s.id.mid
            else s
          let s := if c = 0 then s else faultAt s k t.bundle (if bt.op = .add then .vx else .mv) (causeOfCode c) bt.ga
          completeTxn s { t with beats := setNth t.beats b (fun y => { y with st := .done }) }
        | _ => s
      | _, _ => s)

/-! ### Patrol (R79, R88-R90) -/

/-- Status of a Cavern word. -/
def State.cavErrAt (s : State) (key : Nat) : Option WordErr := (s.mem.cavErr.find? (fun e => e.1 == key)).map (·.2)

/-- PATROL_READ: the patrol of a stack reads its next word, in a powered sub-array. A single-bit error is corrected
and rewritten and counted; an uncorrectable word is poisoned in place and ECC_UE raised (R79, Table 3-6). -/
def execPatrolRead (die : Fin 8) (stack : Fin 4) (s : State) : Out :=
  .next (
    let d := die.val
    let i := d * 4 + stack.val
    let w := tget 0 s.mem.patrol i
    let off := stack.val * 2 ^ 30 + 8 * w
    let s := { s with mem := { s.mem with
      patrol := tset 0 s.mem.patrol i ((w + 1) % 2 ^ 27)
      passes := if w + 1 = 2 ^ 27 then tset 0 s.mem.passes i ((tget 0 s.mem.passes i + 1) % 2 ^ 32) else s.mem.passes } }
    if !s.subOn d off then s else
    let key := cvKey d off / 8
    match s.cavErrAt key with
    | none => { s with mem := { s.mem with rewrite := s.mem.rewrite.filter (· != key) } }
    | some .single =>
      let s := (checkCvWord s d (off / 8)).1
      { s with mem := { s.mem with cavErr := tdel key s.mem.cavErr, rewrite := s.mem.rewrite.filter (· != key) } }
    | some _ =>
      let s := (checkCvWord s d (off / 8)).1
      let s := { s with mem := { s.mem with cavErr := setErr s.mem.cavErr key (some .poisoned) } }
      raise s 0x14 0 (leBytes 4 (s.subResid d off) ++ leBytes 4 off))

end Sys2Proof.Machine
end

