-- ==== Sys2Proof/Machine/Net.lean ====
section
/-! DEFINITION. The network slot (R336-R340), the die mesh (R318-R322), and the channels, counters and send queue behind them
(R329-R335). -/

namespace Sys2Proof.Machine

/-! ### Route descriptors (Table 11-4) -/

/-- The fields of a route descriptor. -/
structure Route where
  path : Nat
  dst  : Nat
  mgrp : Nat
  vch  : Nat
  npart : Nat
  tile : Nat
  rowA : Nat
  rowB : Nat
  colA : Nat
  colB : Nat
  dies : Nat
  die  : Nat
  slot : Nat
  kind : Nat
  resv : Nat
  deriving DecidableEq, Repr

def routeOf (v : Nat) : Route :=
  { path := bits v 255 176, dst := bits v 175 160, mgrp := bits v 159 148, vch := bits v 147 146
    npart := bits v 145 134, tile := bits v 127 120, rowA := bits v 119 116, rowB := bits v 115 112
    colA := bits v 111 108, colB := bits v 107 104, dies := bits v 103 96, die := bits v 95 93, slot := bits v 92 90
    kind := bits v 89 87, resv := bits v 133 128 + bits v 86 0 }

/-- A reserved field or value of the descriptor (Table 11-4, R351). A rectangle whose ends are out of order or whose last
column is 15, and a reduction of group 0 or of fewer than two contributions, are values the table does not allow; that they
fault as a reserved field does is DESIGN CHOICE (log 117). -/
def Route.bad (r : Route) : Bool :=
  r.resv != 0 || (decide (3 ≤ r.kind) && r.vch % 2 == 1) || decide (5 < r.kind) ||
    (r.kind == 4 && (decide (r.rowB < r.rowA) || decide (r.colB < r.colA) || r.colB == 15)) ||
    (r.kind == 5 && (r.mgrp == 0 || decide (r.npart < 2)))

/-- Bound tiles of a rectangle on a die. -/
def State.rectTiles (s : State) (d : Nat) (r : Route) : List Nat :=
  (s.boundTiles d).filter (fun t => decide (r.rowA ≤ vtRow t ∧ vtRow t ≤ r.rowB ∧ r.colA ≤ vtCol t ∧ vtCol t ≤ r.colB))

/-! ### Channels (R330, R331) -/

/-- Data cut into the pieces that byte ranges take. -/
def spread : List (Nat × Nat) → List Byte → List (Nat × List Byte)
  | [], _ => []
  | r :: l, bs => (r.1, bs.take r.2) :: spread l (bs.drop r.2)

/-- One line lands in a channel that takes its delivery; the last one frees the channel and counts. What of it would lie in
the code region or a bank that is off is discarded with MEM_DISCARD and the line counts as landed, one off the mesh too
(R330; that a mesh line is an arrival in this sense is DESIGN CHOICE, log 118). -/
def landLine (s : State) (k ch i : Nat) (data : List Byte) (poison : Bool) (dlv srcMid : Nat) : State :=
  let c := (s.tile k).chan ch
  let s := landPieces s k (spread (chanRanges s k c i) data) poison srcMid
  let left := c.left - 1
  let c' := if left = 0 then { c with left := 0, en := false, dlv := none } else { c with left := left, dlv := some dlv }
  let s := s.modTile k fun t => { t with ch := tset {} t.ch ch c' }
  if left = 0 then bumpAc s k c.gcnt else s

/-- A line off the mesh: it lands, or is discarded and faults its destination (R321, R331). A line of a later delivery than
the one the channel is taking is discarded too, since no mesh line waits (DESIGN CHOICE, log 118). -/
def meshLand (s : State) (k : Nat) (lost : Bool) (m : MeshLine) : State :=
  let c := (s.tile k).chan m.ch
  if lost then faultAt s k (s.tile k).pc .other .bankConflict
  else if c.en && c.nl == m.nl && (c.dlv == none || c.dlv == some m.dlv) then landLine s k m.ch m.k m.data m.poison m.dlv s.id.mid
  else faultAt s k (s.tile k).pc .other .channel

/-- No line of the given request is on its way or held. -/
def State.reqDone (s : State) (r : Nat × Nat × Nat) : Bool :=
  s.net.lines.all (fun l => l.req != some r) && s.tiles.all (fun e => e.2.holding.all (fun l => l.req != some r))

/-- Lines have landed or been discarded: the send of each gets an acknowledgement, and a packet one SACK once no line of it
is left (R331, R333, R363). -/
def ackLines (s : State) (l : List NxLine) : State :=
  let back := l.filterMap (fun m => m.send.map (fun a => (a.1, a.2, m.dst.die.val)))
  let s := { s with net := { s.net with acks := s.net.acks ++ back } }
  ((l.filterMap (fun m => m.req.map (fun r => (m.dst.die.val, r)))).eraseDups).foldl (fun s r =>
    if s.reqDone r.2 then respond s r.1 r.2.1 0x09 1 0 r.2.2.1 r.2.2.2 else s) s

def ackLine (s : State) (l : NxLine) : State := ackLines s [l]

/-- The module a line comes from: that of the packet that brought it, or this one. -/
def NxLine.srcMid (l : NxLine) (own : Nat) : Nat := match l.req with | some r => r.1 | none => own

/-- A delivery whose NL differs from the posting is discarded with all its lines, which are counted (R331). -/
def discardDlv (s : State) (k ch : Nat) (l : NxLine) : State :=
  let mine (m : NxLine) : Bool := m.dlv == l.dlv && m.dst.key == k
  let gone := l :: s.net.lines.filter mine ++ (s.tile k).holding.filter mine
  let s := { s with net := { s.net with
    lines := s.net.lines.filter (fun m => !mine m), dead := addOnce' s.net.dead (l.dlv, k)
    discards := s.net.discards + gone.length } }
  let s := s.modTile k fun t => { t with holding := t.holding.filter (fun m => !mine m) }
  let s := ackLines s gone
  let s := raise s 0x13 1 (leBytes 1 (k / 256) ++ leBytes 1 (k % 256) ++ leBytes 1 ch)
  faultAt s k (s.tile k).pc .other .channel
where
  addOnce' (l : List (Nat × Nat)) (a : Nat × Nat) : List (Nat × Nat) := if l.contains a then l else l ++ [a]

/-- A line from another die that its channel takes. -/
def takeLine (s : State) (l : NxLine) : State :=
  let k := l.dst.key
  if ((s.tile k).chan l.ch).nl = l.nl then ackLine (landLine s k l.ch l.k l.data l.poison l.dlv (l.srcMid s.id.mid)) l
  else discardDlv s k l.ch l

/-- Byte ranges that the line lands in. -/
def State.lineRanges (s : State) (l : NxLine) : List (Nat × Nat) :=
  chanRanges s l.dst.key ((s.tile l.dst.key).chan l.ch) l.k

/-- The delivery that a channel takes of the lines held for it: the one it is taking, or else that of the line held
longest (R331). -/
def Tile.nextDlv (t : Tile) (ch : Nat) : Option Nat :=
  match (t.chan ch).dlv with
  | some d => some d
  | none => (t.holding.find? (fun m => m.ch == ch)).map (·.dlv)

/-- Held lines leave the holding buffer in the order of their arrival, and a channel's deliveries in that of their first
lines, each line in a cyc in which no scheduled access and no earlier one of them takes its banks (R69, R331). -/
def takeHeld (s : State) (k : Nat) : State :=
  ((s.tile k).holding.foldl (fun (a : State × List Nat) l =>
    let t := a.1.tile k
    let bs := banksOf (a.1.lineRanges l)
    if (t.chan l.ch).en && t.nextDlv l.ch == some l.dlv && t.holding.contains l && bs.all (fun b => !a.2.contains b) &&
        !a.1.rangesTaken k (a.1.lineRanges l) then
      (takeLine (a.1.modTile k fun t => { t with holding := t.holding.erase l }) l, bs ++ a.2)
    else a) (s, [])).1

/-! ### The mesh (R318-R320) -/

/-- Link of hop `i` of the way from tile `a` to tile `b`, first along the row, then along the column: the router it
leaves and its direction. -/
def linkAt (a b i : Nat) : Nat :=
  let dc := max (vtCol a) (vtCol b) - min (vtCol a) (vtCol b)
  if i < dc then
    if vtCol a < vtCol b then ((vtRow a * 16 + vtCol a + i) * 4) else ((vtRow a * 16 + vtCol a - i) * 4 + 1)
  else if vtRow a < vtRow b then (((vtRow a + (i - dc)) * 16 + vtCol b) * 4 + 2)
  else (((vtRow a - (i - dc)) * 16 + vtCol b) * 4 + 3)

/-- The link that a line claims in cyc `c` on its way to `vt` (R318). -/
def MeshLine.link (m : MeshLine) (vt c : Nat) : Option Nat :=
  if m.at_ + 1 ≤ c ∧ (c - (m.at_ + 1)) % 4 = 0 ∧ (c - (m.at_ + 1)) / 4 < hops m.src vt
  then some (linkAt m.src vt ((c - (m.at_ + 1)) / 4)) else none

/-- Destinations of a line whose link a line of a lower virtual tile index claims in the same cyc (R320). -/
def MeshLine.blocked (m : MeshLine) (all : List MeshLine) (c : Nat) : List Nat :=
  m.dests.filter fun v =>
    match m.link v c with
    | some l => all.any (fun o => decide (o.src < m.src) && o.dests.any (fun u => o.link u c == some l))
    | none => false

/-- Lines that lose a link are dropped there, and their source tiles fault (R320). -/
def linkStep (s : State) (d : Nat) : State :=
  let x := s.die d
  if x.mesh.isEmpty then s else
  let cut (m : MeshLine) : MeshLine :=
    let b := m.blocked x.mesh x.cyc
    { m with dests := m.dests.filter (fun v => !b.contains v) }
  let losers := x.mesh.filter (fun m => !(m.blocked x.mesh x.cyc).isEmpty)
  let s := losers.foldl (fun s m => faultAt s (d * 256 + m.src) m.bundle .nx .linkConflict) s
  s.modDie d fun x => { x with mesh := (x.mesh.map cut).filter (fun m => !m.dests.isEmpty) }

/-- Lines that have landed leave the mesh. -/
def Die.landed (x : Die) : Die :=
  let rest (m : MeshLine) : MeshLine := { m with dests := m.dests.filter (fun v => !m.landsAt v x.cyc) }
  { x with mesh := (x.mesh.map rest).filter (fun m => !m.dests.isEmpty) }

/-! ### The send port -/

/-- The lines of a send, each as the byte ranges it lies in. -/
def sendLines (s : State) (k : Nat) (src nl : Nat) (ren : Bool) : List (List (Nat × Nat)) :=
  if ren then
    let g := tget {} (s.tile k).regions (src % 16)
    (List.range nl).map (fun i => g.line g.head (64 * i))
  else (List.range nl).map (fun i => [((src + i) % 16384 * 64, 64)])

/-- Data of one line, with the poison of its words. -/
def lineData (s : State) (k off : Nat) : List Byte × Bool :=
  (s.spBytes k off 64, (List.range 8).any (fun w => s.mem.spadErr.any (fun e => e.1 == spKey k off / 8 + w && e.2.bad)))

/-- Acknowledgements that a destination gives for `nl` lines. -/
def SendTo.acks (nl : Nat) : SendTo → Nat
  | .reduce _ _ _ => 1
  | _ => nl

/-- Send one line to a destination off the die (log 33). -/
def sendLine (s : State) (k : Nat) (e : Send) (i : Nat) (data : List Byte) (poison : Bool) (d : SendTo) : State :=
  let aux := e.ch + e.nl * 8 + i * 2 ^ 14
  match d with
  | .tile x =>
    let l : NxLine := { dst := x, ch := e.ch, k := i, nl := e.nl, data := data, poison := poison, dlv := e.dlv
                        send := some (k, e.id), req := none, node := k / 256 }
    { s with net := { s.net with lines := s.net.lines ++ [l] } }
  | .fabric dst slotted die tile path vch =>
    fabReq s (.send k e.id) dst 0x05 vch aux (gaTile 0 (die * 256 + tile) 0) data poison path (slotted = 1) false
  | .mcast mgrp dies rect vch =>
    let p : Packet := { path := 0x1F, dst := 0xFFFF, mgrp := mgrp, type := 0x06, vc := vch, len := 64, src := s.id.mid
                        addr := dies * 2 ^ 40 + rect * 2 ^ 24, aux := aux, data := data, poison := poison }
    addReq s { why := .send k e.id, pkt := p, pinned := 0x1F }
  | .reduce _ _ _ => s

/-- A contribution reaches the combiner once its last line is read (R338) (log 35). -/
def contribute (s : State) (k : Nat) (e : Send) : State :=
  e.dests.foldl (fun s d => match d with
    | .reduce mgrp npart _ =>
      let c : Contrib := { mgrp := mgrp, nl := e.nl, ch := e.ch, lines := e.got, count := 1, local_ := some (k, e.id)
                           npart := npart, port := none, acks := [] }
      s.modFab fun f => { f with contribs := f.contribs ++ [c] }
    | _ => s) s

/-- The send of NSEND, NMCAST and NRED past its checks (R337). `own` are destinations on the issuing die; off-die copies
of the lines that they are sent go out as those lines are read (R333). -/
def runSend (s : State) (k : Nat) (ch : Nat) (ren : Bool) (src nl scnt npart : Nat) (own : List Nat)
    (away : List SendTo) : State :=
  let t := s.tile k
  let offs := sendLines s k src nl ren
  let dlv := s.net.nextId
  let s := { s with net := { s.net with nextId := dlv + 1 } }
  let s := if ren then s.modTile k (fun t => t.pop (src % 16) (64 * nl)) else s
  let hmax := (own.map (hops (k % 256))).foldl max 0
  let e : Send := { id := dlv, ch := ch, src := src, nl := nl, scnt := scnt, dests := away
                    nread := if own.isEmpty then 0 else nl, readAt := (s.die (k / 256)).cyc + 1
                    due := (away.map (SendTo.acks nl)).sum, bundle := t.pc, dlv := dlv, npart := npart }
  let s := if away.isEmpty then s else s.modTile k fun t => { t with sendq := t.sendq ++ [e], outst := t.outst + 1 }
  if own.isEmpty ∧ !away.isEmpty then occupy s k .nxSend 1 1
  else
    let lat := nl + 4 * hmax + 1
    let w : SendJob := { lines := offs, ch := ch, nl := nl, dlv := dlv, own := own
                         send := if away.isEmpty then none else some dlv, scnt := if away.isEmpty then scnt else 0
                         hmax := hmax }
    occupy (addJob s k .nx lat (.send w)) k .nxSend nl lat

/-- A send to its own die reads a line a cyc: the line enters the mesh, and its off-die copies leave the tile. -/
def SendJob.read (s : State) (k : Nat) (j : Job) (w : SendJob) (c : Nat) : State × SendJob :=
  match w.lines with
  | [] => (s, w)
  | o :: rest =>
    match readAcc s k j.bundle j.slot o with
    | (s, false) => (s, w)
    | (s, true) =>
      let data := o.flatMap (fun r => s.spBytes k r.1 r.2)
      let m : MeshLine := { src := k % 256, t0 := j.t0, bundle := j.bundle, ch := w.ch, k := w.next, nl := w.nl
                            data := data, poison := false, dlv := w.dlv, at_ := c, dests := w.own }
      let s := if w.own.isEmpty then s else s.modDie (k / 256) fun d => { d with mesh := d.mesh ++ [m] }
      let s := match w.send.bind (fun id => (s.tile k).sendq.find? (fun e => e.id == id)) with
        | some e => e.dests.foldl (fun s d => sendLine s k e w.next data false d) s
        | none => s
      (s, { w with lines := rest, next := w.next + 1 })

/-- Every line of the send has landed: its counter increments. -/
def SendJob.write (s : State) (k : Nat) (j : Job) (w : SendJob) (c : Nat) : State :=
  if c + 1 = j.fin ∧ w.lines.isEmpty then bumpAc s k w.scnt else s

/-- A route to one tile of this module: KIND 1, KIND 2 with its own SLOT, KIND 3 with its own MID (R578). -/
def Route.toHere (r : Route) (s : State) : Bool :=
  r.kind == 1 || (r.kind == 2 && r.slot == s.id.slot) || (r.kind == 3 && r.dst == s.id.mid)

/-- Checks and action of NSEND, NMCAST and NRED, in the order of R337. -/
def sendWith (s : State) (k : Nat) (want : Nat → Bool) (rd ch : Nat) (ren : Bool) (src nl scnt : Nat)
    (strict : Bool) (ownOf : Route → List Nat) (awayOf : Route → List SendTo) : State :=
  let r := routeOf (tget 0 (s.tile k).rd rd)
  let own := ownOf r
  let away := awayOf r
  let lost := r.toHere s && !s.bound r.die r.tile
  checkedWork s k .nx [(ren && decide (16 ≤ src), .encoding), (s.busyRes k .nxSend, .unitBusy)] (nl != 0) [
    (strict, .strict),
    (!want r.kind || r.bad || (ren && !away.isEmpty && !lost) || (ren && !(tget {} (s.tile k).regions (src % 16)).en),
      .address),
    (want r.kind && lost, .noTile),
    (r.kind == 2 && r.slot != s.id.slot && s.noPeer r.slot, .noPeer),
    (!away.isEmpty && decide (8 ≤ (s.tile k).sendq.length), .outboxFull),
    (ren && (s.tile k).popFails (src % 16) (64 * nl), .regionEmpty)] fun s =>
  runSend s k ch ren src nl scnt r.npart own away

/-- NNOP (R336). -/
def execNnop (_x : Site) (s : State) : Out := .next s

/-- NSEND (R337, R578). -/
def execNsend (x : Site) (rd : BitVec 4) (ch : BitVec 3) (ren : BitVec 1) (src : BitVec 14) (nl : BitVec 11)
    (scnt : BitVec 5) (s : State) : Out :=
  .next (issue x .nx s fun s =>
    let k := x.key
    let d := k / 256
    let here (r : Route) : Bool := r.kind == 1 || (r.kind == 2 && r.slot == s.id.slot)
    sendWith s k (fun n => decide (1 ≤ n ∧ n ≤ 3)) rd.toNat ch.toNat (ren == 1) src.toNat nl.toNat scnt.toNat false
      (fun r => if here r && r.die == d then [r.tile] else [])
      (fun r =>
        if here r then (if r.die = d then [] else [.tile (siteOf (r.die * 256 + r.tile))])
        else if r.kind = 2 then [.fabric (s.boardMid r.slot) 1 r.die r.tile (s.boardPath r.slot) 0]
        else [.fabric r.dst 0 r.die r.tile r.path r.vch]))

/-- NMCAST (R337). -/
def execNmcast (x : Site) (rd : BitVec 4) (ch : BitVec 3) (ren : BitVec 1) (src : BitVec 14) (nl : BitVec 11)
    (scnt : BitVec 5) (s : State) : Out :=
  .next (issue x .nx s fun s =>
    let k := x.key
    let d := k / 256
    sendWith s k (fun n => n == 4) rd.toNat ch.toNat (ren == 1) src.toNat nl.toNat scnt.toNat false
      (fun r => if bit r.dies d then s.rectTiles d r else [])
      (fun r =>
        ((List.range 8).filter (fun e => e != d && bit r.dies e)).flatMap (fun e =>
          (s.rectTiles e r).map (fun t => SendTo.tile (siteOf (e * 256 + t)))) ++
        (if r.mgrp = 0 then []
         else [.mcast r.mgrp r.dies (r.rowA * 4096 + r.rowB * 256 + r.colA * 16 + r.colB) r.vch])))

/-- NRED (R338). -/
def execNred (x : Site) (rd : BitVec 4) (ch : BitVec 3) (ren : BitVec 1) (src : BitVec 14) (nl : BitVec 11)
    (scnt : BitVec 5) (s : State) : Out :=
  .next (issue x .nx s fun s =>
    sendWith s x.key (fun n => n == 5) rd.toNat ch.toNat (ren == 1) src.toNat nl.toNat scnt.toNat s.ce.strict
      (fun _ => []) (fun r => [.reduce r.mgrp r.npart r.vch]))

/-- A send whose next line lies in a bank that is off reads no more: its entry waits for the lines already sent (R86). -/
def endSend (s : State) (k : Nat) (e : Send) : State :=
  let left := (e.dests.map (fun d => match d with | .reduce _ _ _ => 1 | _ => e.nl - e.nread)).sum
  let rest := { e with nl := e.nread, scnt := 0, due := e.due - left }
  if rest.due = 0 then stopCheck (s.modTile k fun t => { t with sendq := t.sendq.filter (fun f => f.id != e.id), outst := t.outst - 1 })
  else s.modTile k fun t => { t with sendq := t.sendq.map (fun f => if f.id = e.id then rest else f) }

/-- OFFDIE_SEND_READ: the next line of an off-die send is read in a free bank cyc and sent to every destination
(R333). -/
def execOffdieSendRead (x : Site) (entry : Fin 8) (s : State) : Out :=
  .next (
    let k := x.key
    match (s.tile k).sendq[entry.val]? with
    | none => s
    | some e =>
      let off := (e.src + e.nread) % 16384 * 64
      if e.nl ≤ e.nread || ((s.die (k / 256)).runs && decide ((s.die (k / 256)).cyc < e.readAt)) || s.bankTaken k off
      then s else
      if !s.bankOn k off then endSend (faultAt s k e.bundle .nx .bankOff) k e else
      let s := s.useBanks k [(off, 64)]
      let (data, poison) := lineData s k off
      let (s, bad) := checkSp s k [(off, 64)]
      let s := watch s k .read [(off, 64)]
      let s := if bad then faultAt s k e.bundle .nx .uncorrectable else s
      let isRed := e.dests.any (fun d => match d with | .reduce _ _ _ => true | _ => false)
      let e' := { e with nread := e.nread + 1, readAt := (s.die (k / 256)).cyc + 1, got := if isRed then e.got ++ [data] else e.got }
      let s := s.modTile k fun t => { t with sendq := setNth t.sendq entry.val (fun _ => e') }
      let s := e.dests.foldl (fun s d => sendLine s k e e.nread data poison d) s
      if isRed && e'.nread == e.nl then contribute s k e' else s)

/-- One acknowledgement of a send reaches its tile; the last one frees the entry and counts (R333). -/
def sendAcked (s : State) (k id : Nat) : State :=
  match (s.tile k).sendq.find? (fun e => e.id == id) with
  | none => s
  | some e =>
    if e.due ≤ 1 then
      let s := s.modTile k fun t => { t with sendq := t.sendq.filter (fun f => f.id != id), outst := t.outst - 1 }
      stopCheck (bumpAc s k e.scnt)
    else s.modTile k fun t => { t with sendq := t.sendq.map (fun f => if f.id = id then { f with due := f.due - 1 } else f) }

/-- LINE_ARRIVAL: a line from another die has crossed the bridges of its route and reaches its tile's channel (R323, R330,
R331). -/
def execLineArrival (i : Nat) (s : State) : Out :=
  .next (match s.net.lines[i]? with
    | none => s
    | some l =>
      let k := l.dst.key
      let c := (s.tile k).chan l.ch
      let take := { s with net := { s.net with lines := dropNth s.net.lines i } }
      if !s.pathUp l.node l.dst.die.val then s
      else if s.net.dead.contains (l.dlv, k) then ackLine take l
      else if c.en && (c.dlv == some l.dlv || (c.dlv == none && (s.tile k).holding.all (fun m => m.ch != l.ch))) then
        if s.rangesTaken k (s.lineRanges l) then s else takeLine (take.useBanks k (s.lineRanges l)) l
      else if (s.tile k).holding.length < 64 then take.modTile k fun t => { t with holding := t.holding ++ [l] }
      else s)

/-- SEND_ACK: an acknowledgement has crossed the bridges and lands at the sender's queue (R324, R333). -/
def execSendAck (i : Nat) (s : State) : Out :=
  .next (match s.net.acks[i]? with
    | none => s
    | some (k, id, node) =>
      if s.pathUp node (k / 256) then sendAcked { s with net := { s.net with acks := dropNth s.net.acks i } } k id else s)

/-! ### NRECV -/

/-- NRECV (R339). -/
def execNrecv (x : Site) (ch : BitVec 3) (ren : BitVec 1) (dst : BitVec 14) (nl : BitVec 11) (gcnt : BitVec 5)
    (s : State) : Out :=
  .next (issue x .nx s fun s =>
    let k := x.key
    let rn := ren == 1
    let r := dst.toNat % 16
    let n := 64 * nl.toNat
    checkedWork s k .nx [(rn && decide (16 ≤ dst.toNat), .encoding), (s.busyRes k .nxChan, .unitBusy)] (nl != 0) [
      (((s.tile k).chan ch.toNat).en, .channel),
      (rn && !(tget {} (s.tile k).regions r).en, .address),
      (rn && (s.tile k).pushFails r n, .regionFull)] fun s =>
    let base := if rn then (tget {} (s.tile k).regions r).tail else dst.toNat
    let c : Chan := { en := true, ren := rn, region := if rn then r else 0, base := base, left := nl.toNat
                      nl := nl.toNat, gcnt := gcnt.toNat }
    let s := if rn then s.modTile k fun t => t.push r n else s
    occupy (addJob s k .nx 1 (.post ch.toNat c)) k .nxChan 1 1)

/-- The channel is posted: it takes lines from the next cyc on. -/
def postChannel (s : State) (k ch : Nat) (c : Chan) : State := s.modTile k fun t => { t with ch := tset {} t.ch ch c }

/-! ### Gates (R334, R335, R340) -/

def State.gateOk (s : State) (d : Nat) (g : Gate) : Bool := decide (g.val ≤ tget 0 (s.tile (d * 256 + g.vt)).ac g.cnt)

/-- AC[c] := AC[c] - v. -/
def gateTake (s : State) (d : Nat) (g : Gate) : State :=
  s.modTile (d * 256 + g.vt) fun t => { t with ac := tset 0 t.ac g.cnt (tget 0 t.ac g.cnt - BitVec.ofNat 16 g.val) }

/-- Put back what a satisfied gate of the same cyc took. -/
def gateGive (s : State) (d : Nat) (g : Gate) : State :=
  s.modTile (d * 256 + g.vt) fun t => { t with ac := tset 0 t.ac g.cnt (tget 0 t.ac g.cnt + BitVec.ofNat 16 g.val) }

/-- NGATE (R340). A satisfied gate subtracts at once; when another gate of the same cyc is not satisfied, every
subtraction waits for the last one (R334). -/
def execNgate (x : Site) (cnt : BitVec 5) (val : BitVec 14) (timeout : BitVec 24) (s : State) : Out :=
  .next (issue x .nx s fun s =>
    let k := x.key
    let d := k / 256
    if cnt = 0 then tileFault s k .nx .encoding
    else if val = 0 then s
    else
      let g : Gate := { vt := k % 256, cnt := cnt.toNat, val := val.toNat, timeout := timeout.toNat, count := 0
                        bundle := (s.tile k).pc }
      let x := s.die d
      if x.gates.isEmpty && s.gateOk d g then
        (gateTake s d g).modDie d fun x => { x with gatesDone := x.gatesDone ++ [g] }
      else
        let s := x.gatesDone.foldl (fun s h => gateGive s d h) s
        s.modDie d fun x => { x with gates := x.gatesDone ++ x.gates ++ [g], gatesDone := [] })

/-- GATE_OPEN: every gate that holds the die is satisfied; each takes its value and the die goes on (R110, R334). No gate
opens on a die that is halted (R534). -/
def execGateOpen (die : Fin 8) (s : State) : Out :=
  .next (
    let d := die.val
    let gs := (s.die d).gates
    if !gs.isEmpty && gs.all (s.gateOk d) && (s.die d).stop.live then
      (gs.foldl (fun s g => gateTake s d g) s).modDie d fun x => { x with gates := [], held := false }
    else s)

/-- GATE_TIMEOUT: while the die is held, a gate's count has reached its timeout, one that is satisfied among others that are
not included; its tile faults and the die stops (R107, R335). -/
def execGateTimeout (die : Fin 8) (s : State) : Out :=
  .next (
    let d := die.val
    let gs := (s.die d).gates
    let late := if gs.all (s.gateOk d) then [] else gs.filter (fun g => g.timeout != 0 && decide (g.timeout ≤ g.count))
    match late with
    | [] => s
    | g0 :: rest =>
      let g := rest.foldl (fun a b => if b.vt < a.vt then b else a) g0
      let k := d * 256 + g.vt
      let ac := tget 0 (s.tile k).ac g.cnt
      let s := late.foldl (fun s h => faultAt s (d * 256 + h.vt) h.bundle .nx .gate) s
      let s := raise s 0x11 0 (s.faultData k g.bundle ++ leBytes 1 g.cnt ++ leBytes 1 0 ++ leBytes 2 g.val ++
        leBytes 2 ac.toNat)
      let s := late.foldl (fun s h => (reportFaults s (d * 256 + h.vt)).modTile (d * 256 + h.vt) Tile.toFaulted) s
      s.modDie d fun x =>
        { x with gates := [], held := false, stop := { x.stop with fault := true, atEnd := false, halted := false } })

end Sys2Proof.Machine
end

