-- ==== Sys2Proof/Machine/Page.lean ====
section
/-! DEFINITION. DGATH (R256-R262), its reads and its request cyc by cyc, and the page managers that serve it and their peers
(R247, R250-R254). -/

namespace Sys2Proof.Machine

/-! ### DGATH -/

/-- Where row `i` of `len` bytes lies in the tile's scratchpad (R258), cut at its 64 B lines (R260); ADDR [2:0] counts as 0 (R92).
A peek counts from ADDR [19:0] past HEAD, row by row with STRIDE (R72, R92) (log 111). -/
def gathRow (g : Region) (m : MoveDesc) (ren isDst stripe : Bool) (len i : Nat) : List (Nat × Nat) :=
  let addr := gaOff m.addr.toNat / 8 * 8
  if ren then
    let start : Nat := if m.peek then
        g.head + ((((m.addr.toNat % 2 ^ 20 / 8 * 8 : Nat) : Int) + (i : Int) * m.strideB) % (g.size : Int)).toNat
      else (if isDst then g.tail else g.head) + i * len
    (cutLines (len / 32 + 2) start len).map fun p => (g.at_ 0 p.1, p.2)
  else if stripe then
    (List.range ((len + 63) / 64)).flatMap fun j =>
      (cutLines 3 (addr + 65536 * j + 64 * i) (min 64 (len - 64 * j))).map fun p => (p.1 % 2 ^ 20, p.2)
  else
    let o := (((addr : Int) + (i : Int) * m.strideB) % ((2 ^ 20 : Nat) : Int)).toNat
    (cutLines (len / 32 + 2) o len).map fun p => (p.1 % 2 ^ 20, p.2)

/-- Where scale `i` lies. -/
def gathScl (m : MoveDesc) (i : Nat) : Nat :=
  let addr := gaOff m.addr.toNat / 8 * 8
  if m.stride = 0 then (addr + 4 * i) % 2 ^ 20
  else (((addr : Int) + (i : Int) * m.strideB) % ((2 ^ 20 : Nat) : Int)).toNat

/-- Beats of a scratchpad end: the pieces of the rows, then the slots of each line that scales lie in (R260). -/
def gathBeats (rows : List (List (Nat × Nat))) (scls : List Nat) : List (List (Nat × Nat)) :=
  rows.flatten.map (fun p => [p]) ++
    ((scls.map (· / 64)).eraseDups).map (fun l => ((scls.filter (fun o => o / 64 == l)).map (fun o => (o, 4))))

/-- The latency minimum of Table 8-12 past the occupancy. -/
def gathMin (tp2 : Bool) (dop : Nat) : Nat :=
  match dop with
  | 0 => if tp2 then 63 else 69
  | 1 => if tp2 then 57 else 61
  | _ => if tp2 then 43 else 47

/-- DGATH (R256-R262). Its request goes to the die's page manager; the answer is a transaction of the tile. With NTOK = 0 it
requests no work (R28). -/
def execDgath (x : Site) (dop : BitVec 2) (kind : BitVec 1) (md hd : BitVec 5) (layer : BitVec 6) (ntok : BitVec 9)
    (pace : BitVec 6) (gcnt : BitVec 5) (pin rinc stripe : BitVec 1) (s : State) : Out :=
  .next (issue x .mv s fun s =>
    let k := x.key
    let t := s.tile k
    let m := tget {} t.md md.toNat
    let ms := tget {} t.md ((md.toNat + 1) % 32)
    let h := tget {} t.md hd.toNat
    let ho := gaOff h.addr.toNat % 2 ^ 20
    let rec_ := s.spNat k ho 16
    let midx := bits rec_ 9 0
    let g := (tget {} s.sv.models midx).kvgeo
    let n := ntok.toNat
    let kd := kind.toNat
    let len := if kd = 0 then geoLw g else 256
    let reg := tget {} t.regions m.region
    let isGet := dop == 0
    let moves := dop != 2
    let own (d : MoveDesc) : Bool := !d.ren && endOwn s k d && !gaIllFormed d.addr.toNat
    let bytes := n * len
    checkedWork s k .mv [(decide (32 < pace.toNat), .encoding), (s.busyRes k .mvPort, .unitBusy)] (n != 0) [
      (!own h || gaOff h.addr.toNat % 16 != 0 || s.sv.models.all (fun e => e.1 != midx) ||
        (kd == 0 && decide (geoLayers g ≤ layer.toNat)) ||
        (kd == 1 && (decide (32 * geoNstate g < layer.toNat + n) || stripe == 1)) ||
        (stripe == 1 && m.ren) || dop == 3 || (dop == 2 && kd == 1) ||
        (kd == 0 && (ms.ren || decide (ms.stride.toInt < 0))) || (moves && kd == 0 && !own ms) ||
        (moves && !m.ren && !own m) || (moves && m.ren && !reg.en), .address),
      (moves && isGet && m.ren && !m.peek && t.pushFails m.region bytes, .regionFull),
      (moves && !isGet && m.ren && !m.peek && t.popFails m.region bytes, .regionEmpty)] fun s =>
    let rows := if moves then (List.range n).map (gathRow reg m m.ren isGet (stripe == 1) len) else []
    let scls := if moves ∧ kd = 0 then (List.range n).map (gathScl ms) else []
    let s := if moves ∧ m.ren ∧ !m.peek then
        s.modTile k fun t => if isGet then t.push m.region bytes else t.pop m.region bytes
      else s
    let q : Gath := { tile := k, bundle := (s.tile k).pc, dop := dop.toNat, kind := kd, layer := layer.toNat, ntok := n
                      pin := pin == 1, head := bits rec_ 127 96, pos0 := bits rec_ 95 72, limit := bits rec_ 71 48
                      spos := bits rec_ 47 24, midx := midx, rows := rows, scls := scls, rowData := [], sclData := []
                      txn := 0, gcnt := gcnt.toNat }
    let beats := gathBeats rows scls
    let pc := paceOf pace.toNat true
    let p := if moves then moveOccupancy beats.length pc else 1
    let lat := p + gathMin s.tp2 dop.toNat
    let w : GathJob := { hd := ho, pos0 := if rinc = 1 then some (leBytes 3 (bits rec_ 95 72 + n)) else none, req := q
                         pace := pc, beats := if dop = 1 then beats else [], due := (s.die x.die.val).cyc + lat }
    occupy (addJob s k .mv lat (.gath w)) k .mvPort p lat)

/-- What the pieces of a PUT's beats gave, cut into rows and scales. -/
def GathJob.filled (w : GathJob) : Gath :=
  let q := w.req
  let rows := q.rows.foldl (fun (a : List (List Byte × Bool) × List (Nat × List Byte × Bool)) r =>
    let mine := a.2.take r.length
    (a.1 ++ [(mine.flatMap (·.2.1), mine.any (·.2.2))], a.2.drop r.length)) ([], w.got)
  let scl (o : Nat) : List Byte × Bool := match rows.2.find? (fun g => g.1 == o) with
    | some g => (g.2.1, g.2.2)
    | none => ([], false)
  { q with rowData := rows.1, sclData := q.scls.map scl }

/-- The request goes to the page manager of the die, and the transaction that answers it begins (R247). -/
def GathJob.send (s : State) (k : Nat) (j : Job) (w : GathJob) (q : Gath) : State × GathJob :=
  let id := s.net.nextId
  let t : Txn := { id := id, from_ := .tile (siteOf k), node := k / 256, bundle := j.bundle, beats := [], landCnt := none
                   ackCnt := q.gcnt, due := w.due }
  let s := { s with net := { s.net with txns := s.net.txns ++ [t], nextId := id + 1 } }
  let s := s.modTile k fun t => { t with outst := t.outst + 1 }
  (s.modPm (k / 256) fun p => { p with reqs := p.reqs ++ [.gath { q with txn := id }] }, { w with sent := true })

/-- DGATH in cyc `c`: it reads its gather record in cyc 0, the beats of a PUT from then on, and sends its request once it
has read what it needs (R258, R260). -/
def GathJob.read (s : State) (k : Nat) (j : Job) (w : GathJob) (c : Nat) : State × GathJob :=
  let (s, ok) := if c = j.t0 then readAcc s k j.bundle j.slot [(w.hd, 16)] else (s, true)
  let (s, w, ok) := (w.now (c - j.t0)).foldl (fun (a : State × GathJob × Bool) b =>
    if !a.2.2 then a else
    match readAcc a.1 k j.bundle j.slot b with
    | (s, false) => (s, a.2.1, false)
    | (s, true) =>
      (s, { a.2.1 with beats := a.2.1.beats.drop 1, next := a.2.1.next + 1
                       got := a.2.1.got ++ b.map (fun p => (p.1, s.spBytes k p.1 p.2, false)) }, true)) (s, w, ok)
  if ok && !w.sent && w.beats.isEmpty then w.send s k j (if w.req.dop = 1 then w.filled else w.req) else (s, w)

/-- RINC writes POS0 in cyc 1. -/
def GathJob.write (s : State) (k : Nat) (j : Job) (w : GathJob) (c : Nat) (lost : List Nat) : State :=
  match w.pos0 with
  | some bs => if c = j.t0 + 1 then jobWrite s k j lost ((w.hd + 9) % 2 ^ 20) bs else s
  | none => s

/-! ### A DGATH at its page manager (R247, R251, R258, R259)

At acceptance the page manager makes the frame-table change and lays out the beats of the transaction: reads and writes of
frames of this module, which take free slots of their own when they land (R69, R78), messages about frames of peers, zeros for
absent tokens, and answers that carry a cause (log 125). -/

/-- What a page manager has done so far for a request. -/
structure GathAcc where
  s     : State
  beats : List Beat := []
  /-- frames already pinned by this request -/
  seen  : List Nat := []
  /-- a copy on write found no reserved frame -/
  lack  : Bool := false

/-- A beat that is answered already: the acknowledgement with a cause, or an absent token's zeros. -/
def doneBeat (cause : Nat) : Beat :=
  { op := .write, ga := 0, loc := 0, len := 0, data := [], poison := false, st := .back cause }

/-- Count a refused access at the die's page manager and answer with its cause. -/
def refuse (a : GathAcc) (die cause : Nat) : GathAcc :=
  let s := if cause = Cause.noPage.code then a.s.modPm die fun p => { p with nopage := count64 p.nopage }
    else if cause = Cause.staleFrame.code then countStale a.s die else a.s
  { a with s := s, beats := a.beats ++ [doneBeat cause] }

/-- Zeros at the tile, for an absent token. -/
def landZeros (a : GathAcc) (q : Gath) (pieces : List (Nat × Nat)) : GathAcc :=
  { a with beats := a.beats ++ pieces.map fun p =>
      { op := .read, ga := gaTile a.s.id.slot q.tile p.1, loc := p.1, len := p.2, data := List.replicate p.2 0
        poison := false, st := .back 0 } }

/-- The beats of bytes [off, off + n) of a frame of this module, cut at lines. -/
def frameBeats (s : State) (op : BeatOp) (r off loc n : Nat) (data : List Byte) (poison : Nat → Nat → Bool) : List Beat :=
  (cutLines (n / 32 + 2) off n).map fun c =>
    { op := op, ga := s.frameGa r c.1, loc := loc + (c.1 - off), len := c.2, data := (data.drop (c.1 - off)).take c.2
      poison := poison (c.1 - off) c.2, st := .out }

/-- Read bytes of a frame for a tile: from this module beat by beat, from a peer by requests. -/
def gatherFrom (a : GathAcc) (q : Gath) (r off : Nat) (pieces : List (Nat × Nat)) : GathAcc :=
  let s := if q.pin ∧ !a.seen.contains r ∧ q.kind = 0 then spinInc a.s r else a.s
  let a := { a with s := s, seen := addOnce a.seen r }
  (pieces.foldl (fun (acc : GathAcc × Nat) p =>
    if s.refLocal r then
      ({ acc.1 with beats := acc.1.beats ++ frameBeats s .read r (off + acc.2) p.1 p.2 [] (fun _ _ => false) }, acc.2 + p.2)
    else
      let s := pmAsk acc.1.s (.beat q.txn acc.1.beats.length) 1 r (off + acc.2) p.2 0 []
      let bt : Beat := { op := .read, ga := gaTile (refSlot r) 0 0, loc := p.1, len := p.2, data := [], poison := false
                         st := .out }
      ({ acc.1 with s := s, beats := acc.1.beats ++ [bt] }, acc.2 + p.2)) (a, 0)).1

/-- Write bytes of a frame, here or on a peer, as part of the transaction of a PUT. -/
def putInto (a : GathAcc) (q : Gath) (r off : Nat) (d : List Byte × Bool) : GathAcc :=
  if a.s.refLocal r then
    { a with beats := a.beats ++ frameBeats a.s .write r off 0 d.1.length d.1 (fun _ _ => d.2) }
  else
    let s := pmAsk a.s (.beat q.txn a.beats.length) 2 r off d.1.length 0 d.1 d.2
    let bt : Beat := { op := .write, ga := gaTile (refSlot r) 0 0, loc := 0, len := 0, data := [], poison := false
                       st := .out }
    { a with s := s, beats := a.beats ++ [bt] }

/-- Lines of a frame's contents, cut into words where one of their words is uncorrectable: offset, bytes, poison. -/
def copyPieces (bs : List Byte) (bad : List Nat) : List (Nat × List Byte × Bool) :=
  (List.range 128).flatMap fun i =>
    if bad.any (fun w => w / 8 == i) then
      (List.range 8).map fun j => (64 * i + 8 * j, (bs.drop (64 * i + 8 * j)).take 8, bad.contains (8 * i + j))
    else [(64 * i, (bs.drop (64 * i)).take 64, false)]

/-- Write the contents of a whole frame, as part of the transaction of a PUT. -/
def copyInto (a : GathAcc) (q : Gath) (r : Nat) (bs : List Byte) (bad : List Nat) : GathAcc :=
  if a.s.refLocal r then
    (copyPieces bs bad).foldl (fun a p => putInto a q r p.1 (p.2.1, p.2.2)) a
  else
    let a := (List.range 5).foldl (fun a i =>
      putInto a q r (2000 * i) ((bs.drop (2000 * i)).take (min 2000 (8192 - 2000 * i)), false)) a
    bad.foldl (fun a w => putInto a q r (8 * w) ((bs.drop (8 * w)).take 8, true)) a

/-- Contents of a shared frame as the PUT of a transaction finds them at its acceptance: here, or as they were read from the
peer that holds it. -/
def sharedBytes (s : State) (txn r : Nat) : State × List Byte × List Nat :=
  if s.refLocal r then
    let bad := s.frameBad r
    let (s', bs, _) := frameRead s r 0 8192
    (s', bs, bad)
  else
    let mine (x : PeerRead) : Bool := x.ref == r && (match x.why with | .copy t => t == txn | _ => false)
    match s.pages.reads.find? mine with
    | some x => (dropReads s mine, x.data)
    | none => (s, padTo 8192 [], [])

/-- Copy on write (R251): the writer's reference `x` of block `b` moves to a reserved frame, which takes the contents of the
shared one; the flag says that none is reserved. -/
def copyOnWrite (a : GathAcc) (die : Nat) (q : Gath) (g b x r grp : Nat) : GathAcc × Nat :=
  let home := geoHome g
  match (a.s.pm home).resv.find? (fun e => e.2.1 == q.head && e.2.2.1 == b) with
  | none => ({ a with lack := true }, 0)
  | some e =>
    let r' := e.2.2.2
    let s := a.s.modPm home fun p => { p with resv := p.resv.erase e }
    let s := if s.refLocal r' then s.modFrame (refDie r') (refFrame r') fun f =>
          { f with state := 1, ref := 1, hpins := 0, spins := 0, ogrp := grp }
      else s.modGuest r' fun u => { u with ref := 1, ogrp := grp }
    let (s, bs, bad) := sharedBytes s q.txn r
    let s := setRefAt (refDec s r) g q.head x r'
    let s := s.modPm die fun p => { p with copies := count64 p.copies }
    (copyInto { a with s := s } q r' bs bad, r')

/-- Write into code or scale frame `x` of block `b`, named by `r` (R251). -/
def putPage (a : GathAcc) (die grp : Nat) (q : Gath) (g b x r off : Nat) (d : List Byte × Bool) : GathAcc :=
  if a.lack then a
  else if (a.s.counts r).ref ≤ 1 then putInto a q r off d
  else match copyOnWrite a die q g b x r grp with
    | (a, r') => if a.lack then a else putInto a q r' off d

/-- Reference index of the code frame, that of the scale frame, and the byte places in them, of token `i` (R242, R258). -/
structure TokenAt where
  b    : Nat
  cx   : Nat
  sx   : Nat
  co   : Nat
  so   : Nat

def Gath.at_ (q : Gath) (g i : Nat) : TokenAt :=
  let p := q.pos0 + i - q.spos
  let tpp := geoTpp g
  let b := p / tpp
  let t := p % tpp
  { b := b, cx := b * geoBr g + q.layer, sx := b * geoBr g + geoLayers g + (q.layer * tpp + t) / 2048, co := t * geoLw g
    so := 4 * ((q.layer * tpp + t) % 2048) }

/-- Token `i` is present (R258). -/
def Gath.present (q : Gath) (i : Nat) : Bool := refV q.head && decide (q.spos ≤ q.pos0 + i ∧ q.pos0 + i < q.limit)

/-- One token of a KIND 0 request: with a reference that is invalid or stale, neither row nor scale moves. -/
def gathToken (die grp g : Nat) (q : Gath) (a : GathAcc) (i : Nat) : GathAcc :=
  let pieces := (q.rows[i]?).getD []
  let scl := [((q.scls[i]?).getD 0, 4)]
  if !q.present i then (if q.dop = 0 then landZeros (landZeros a q pieces) q scl else a) else
  let t := q.at_ g i
  let (s, cf, c) := lookRef a.s g q.head t.cx
  let (s, sf, d) := lookRef s g q.head t.sx
  let a := { a with s := s }
  if c ≠ 0 then refuse a die c
  else if d ≠ 0 then refuse a die d
  else if q.dop = 0 then gatherFrom (gatherFrom a q cf t.co pieces) q sf t.so scl
  else
    let a := putPage a die grp q g t.b t.cx cf t.co ((q.rowData[i]?).getD ([], false))
    putPage a die grp q g t.b t.sx sf t.so ((q.sclData[i]?).getD ([], false))

/-- One record of a KIND 1 request. -/
def gathRecord (die : Nat) (q : Gath) (a : GathAcc) (i : Nat) : GathAcc :=
  let pieces := (q.rows[i]?).getD []
  if !refV q.head then (if q.dop = 0 then landZeros a q pieces else a) else
  let (s, r, c) := readRef a.s q.head ((q.layer + i) / 32)
  let a := { a with s := s }
  let c := if c ≠ 0 then c else s.refCause r
  let off := 256 * ((q.layer + i) % 32)
  if c ≠ 0 then refuse a die c
  else if q.dop = 0 then gatherFrom a q r off pieces
  else putInto a q r off ((q.rowData[i]?).getD ([], false))

/-- Blocks a DROP releases: those whose range lies wholly within the positions named, with a token present (R258). -/
def dropBlocks (q : Gath) (g : Nat) : List Nat :=
  let tpp := geoTpp g
  let ps := ((List.range q.ntok).map (fun i => q.pos0 + i)).filter (fun p => decide (q.spos ≤ p ∧ p < q.limit))
  let bs := (ps.map (fun p => (p - q.spos) / tpp)).eraseDups
  bs.filter (fun b => decide (q.pos0 ≤ q.spos + b * tpp ∧ q.spos + (b + 1) * tpp ≤ q.pos0 + q.ntok))

/-- Release one block for a DROP, if its first reference is valid; a stale reference in it is counted, and answered (R253). -/
def dropBlock (die : Nat) (q : Gath) (g : Nat) (a : GathAcc) (b : Nat) : GathAcc :=
  let (s, t, c) := readRef a.s q.head (geoNstate g + b * geoBr g / 2048)
  let a := { a with s := s }
  if c ≠ 0 then refuse a die c
  else if s.refCause t = Cause.staleFrame.code then refuse a die Cause.staleFrame.code
  else if !refV (s.refAt g q.head (b * geoBr g)) then a
  else
    let stale := (s.blockFrames g q.head b).any s.refStale
    let a := { a with s := releaseBlock s g q.head b }
    if stale then { a with beats := a.beats ++ [doneBeat Cause.staleFrame.code] } else a

/-- What the page manager does for a whole request. A stale HEAD discards it (R253); so does, for a PUT, a write into a block
without a reserved frame, counted once (R251). -/
def gathAll (s : State) (die : Nat) (q : Gath) : GathAcc :=
  let m := tget {} s.sv.models q.midx
  let g := m.kvgeo
  let a0 : GathAcc := { s := s }
  if s.refCause q.head = Cause.staleFrame.code then refuse a0 die Cause.staleFrame.code
  else if q.dop = 2 then (if refV q.head then (dropBlocks q g).foldl (dropBlock die q g) a0 else a0)
  else
    let a := (List.range q.ntok).foldl (if q.kind = 0 then gathToken die m.group g q else gathRecord die q) a0
    if a.lack then refuse a0 die Cause.noPage.code else a

/-- The page manager accepts a tile's request: the frame-table change is made, and the answers are on their way. -/
def acceptGath (s : State) (die : Nat) (q : Gath) : State :=
  let a := gathAll s die q
  -- the acknowledgement of a PUT or DROP, and of a GATHER that delivers nothing
  let beats := if q.dop = 0 ∧ !a.beats.isEmpty then a.beats else a.beats ++ [doneBeat 0]
  match a.s.txn? q.txn with
  | some t => a.s.setTxn { t with beats := beats }
  | none => a.s

/-! ### When a request is accepted (R247) -/

/-- References that a request reads or writes frames by: (reference, it writes there). -/
def State.gathFrames (s : State) (q : Gath) : List (Nat × Bool) :=
  let g := (tget {} s.sv.models q.midx).kvgeo
  let w := q.dop == 1
  if q.dop = 2 then []
  else if q.kind = 0 then
    ((List.range q.ntok).filter q.present).flatMap fun i =>
      let t := q.at_ g i
      [(s.refAt g q.head t.cx, w), (s.refAt g q.head t.sx, w)]
  else (List.range q.ntok).map fun i => (s.pageRef q.head ((q.layer + i) / 32), w)

/-- Beats are on their way to or from the frame, and one side writes: what is accepted later waits for them (R247). -/
def State.frameBusy (s : State) (r : Nat) (w : Bool) : Bool :=
  refV r && s.refLocal r &&
    let lo := s.frameGa r 0
    s.net.txns.any fun t => t.beats.any fun b =>
      b.st == .out && (w || b.op != .read) && decide (lo ≤ b.ga ∧ b.ga < lo + 8192)

/-- Shared frames of peers whose contents a PUT copies: they are read first. -/
def State.copiesOf (s : State) (q : Gath) : List Nat :=
  if q.dop = 1 ∧ q.kind = 0 then
    (((s.gathFrames q).map (·.1)).filter (fun r => refV r && !s.refLocal r && !s.refStale r && decide (2 ≤ (s.counts r).ref))).eraseDups
  else []

/-- The reading of frame `r` for a transaction. -/
def State.copyRead (s : State) (txn r : Nat) : Option PeerRead :=
  s.pages.reads.find? (fun x => x.ref == r && (match x.why with | .copy t => t == txn | _ => false))

/-- The bank or the sub-array that a frame of this module lies in. -/
def State.frameBank (s : State) (r : Nat) : Nat × Nat :=
  let d := refDie r
  let f := s.frame d (refFrame r)
  if f.loc = 2 then (d * 256 + f.tile, f.off / 65536) else (2048 + d, f.off / 2 ^ 23)

/-- Root and table frames of this module that a request goes through, one for each bank or sub-array. -/
def State.gathTables (s : State) (q : Gath) : List Nat :=
  let g := (tget {} s.sv.models q.midx).kvgeo
  let xs := if q.kind = 1 then []
    else if q.dop = 2 then (dropBlocks q g).map (· * geoBr g)
    else ((List.range q.ntok).filter q.present).flatMap fun i => let t := q.at_ g i; [t.cx, t.sx]
  let ts := (xs.map (fun x => s.tableFrame g q.head (x / 2048))).eraseDups
  ((q.head :: ts).filter (fun r => refV r && s.refLocal r && !s.refStale r)).foldl (fun l r =>
    if l.any (fun e => s.frameBank e == s.frameBank r) then l else l ++ [r]) []

/-- A free slot for one access of a frame of this module (R69, R78). -/
def frameSlot (s : State) (r : Nat) (wr : Bool) : Option State :=
  let d := refDie r
  let f := s.frame d (refFrame r)
  if f.loc = 2 then
    let k := d * 256 + f.tile
    if s.rangeTaken k f.off 8 then none else some (s.useBanks k [(f.off, 8)])
  else spareBeat s d f.off wr

/-- Free slots for the reads of a request's root and table frames, if there are (log 115). -/
def takeSlots (s : State) : List Nat → Option State
  | [] => some s
  | r :: l => match frameSlot s r false with | some s => takeSlots s l | none => none

/-- Accept a tile's request, or wait: for the frames it touches, for the slots it reads its tables in, or for the contents of a
peer's frame that it copies. -/
def tryGath (s out : State) (die : Nat) (q : Gath) : State :=
  if (s.gathFrames q).any (fun f => s.frameBusy f.1 f.2) then s
  else
    let copies := s.copiesOf q
    match copies.find? (fun r => (s.copyRead q.txn r).isNone) with
    | some r => readFrame s die (.copy q.txn) r
    | none =>
      if copies.any (fun r => match s.copyRead q.txn r with | some x => !x.whole | none => true) then s
      else match takeSlots out (out.gathTables q) with
        | none => s
        | some u => acceptGath u die q

/-! ### Messages of peers (R253, R254; payload of log 11) -/

/-- Accept a message: allocate a guest frame (4), or read (1) or write (2) bytes of one, beat by beat; a stale reference is
refused. -/
def pmMessage (s : State) (die : Nat) (k : Packet) : State :=
  let op := fieldAt k.data 0 4
  let r := fieldAt k.data 4 4
  let off := fieldAt k.data 8 4
  let n := fieldAt k.data 12 4
  if op = 4 then
    let p := s.pm die
    match ((List.range p.frames).filter (fun f => decide (p.guest0 ≤ f) && (tget {} p.table f).state == 0))[0]? with
    | none => respond s die k.src 0x03 1 0x07 k.tag k.tgen
    | some f =>
      let s := s.modFrame die f fun e => { e with state := 2, ref := 1, oslot := k.src % 8 }
      respond s die k.src 0x03 1 0x00 k.tag k.tgen (leBytes 8 (mkRef s.id.slot die (s.frame die f).gen f))
  else if s.refStale r ∨ !s.refLocal r then
    respond (countStale s die) die k.src (if op = 1 then 0x03 else 0x04) 1 0x08 k.tag k.tgen
  else if op = 1 then peerTxn s die k (frameBeats s .read r off 0 n [] (fun _ _ => false)) none
  else
    let body := k.data.drop 20
    let bs := frameBeats s .write r off 0 body.length body (fun o m => k.badIn (20 + o) m)
    if bs.isEmpty then wackFrom s die k 0x00 else peerTxn s die k bs none

/-- A message is a release of a guest frame. -/
def isRelease (k : Packet) : Bool := fieldAt k.data 0 4 == 3

/-- PM_REQUEST: the page manager of a die accepts a request; those of one tile in issue order, and none that touches bytes
which an earlier one has still to land (R247). -/
def execPmRequest (die : Fin 8) (i : Nat) (s : State) : Out :=
  .next (
    let d := die.val
    let reqs := (s.pm d).reqs
    let out := s.modPm d fun p => { p with reqs := dropNth p.reqs i }
    match reqs[i]? with
    | none => s
    | some (.gath q) =>
      let earlier := (reqs.take i).any (fun e => match e with | .gath p => p.tile == q.tile | .msg _ => false)
      if earlier then s else tryGath s out d q
    | some (.msg k) =>
      if isRelease k || s.frameBusy (fieldAt k.data 4 4) (fieldAt k.data 0 4 != 1) then s else pmMessage out d k)

/-- PM_GUEST_RELEASE: a release from the owner reclaims a guest frame; a stale one is discarded (R253, R254). -/
def execPmGuestRelease (die : Fin 8) (i : Nat) (s : State) : Out :=
  .next (
    let d := die.val
    match (s.pm d).reqs[i]? with
    | some (.msg k) =>
      if isRelease k then
        let s := s.modPm d fun p => { p with reqs := dropNth p.reqs i }
        let r := fieldAt k.data 4 4
        if s.refLocal r ∧ refDie r = d ∧ !s.refStale r ∧ (s.frame d (refFrame r)).state = 2
        then wackFrom (s.modFrame d (refFrame r) FrameE.reclaim) d k 0x00
        else wackFrom (countStale s d) d k 0x08
      else s
    | _ => s)

end Sys2Proof.Machine
end

