-- ==== Sys2Proof/Machine/Matrix.lean ====
section
/-! DEFINITION. The matrix slot (R140-R166): issue, and what each instruction does cyc by cyc. -/

namespace Sys2Proof.Machine

/-! ### Lines and region sources -/

/-- Scratchpad offset of byte `b` of a line source: lines from SRC on, or region bytes from HEAD (R160, R162). -/
def srcByte (s : State) (k : Nat) (ren : Bool) (src b : Nat) : Nat :=
  if ren then
    let g := tget {} (s.tile k).regions (src % 16)
    g.at_ g.head b
  else (src * 64 + b) % 2 ^ 20

/-- The 8 B words of bytes [b, b + n) of a line source. -/
def srcWords (s : State) (k : Nat) (ren : Bool) (src b n : Nat) : List Nat :=
  (List.range (n / 8)).map (fun i => srcByte s k ren src (b + 8 * i))

/-- Offsets of `n` lines from line `src` on. -/
def lineOffs (src n : Nat) : List Nat := (List.range n).map (fun i => (src + i) % 16384 * 64)

/-- The bytes of a list of ranges. -/
def rangeBytes (s : State) (k : Nat) (l : List (Nat × Nat)) : List Byte := l.flatMap (fun r => s.spBytes k r.1 r.2)

/-- Region checks of a line source (R73, R96). -/
def srcRegionBad (s : State) (k : Nat) (ren : Bool) (src : Nat) : Bool :=
  ren && !(tget {} (s.tile k).regions (src % 16)).en
def srcRegionEmpty (s : State) (k : Nat) (ren : Bool) (src n : Nat) : Bool :=
  ren && (s.tile k).popFails (src % 16) n
def srcPop (s : State) (k : Nat) (ren : Bool) (src n : Nat) : State :=
  if ren then s.modTile k (fun t => t.pop (src % 16) n) else s

/-- SRC[13:4] is non-zero while REN = 1: a reserved value (R17). -/
def srcReserved (ren : Bool) (src : Nat) : Bool := ren && decide (16 ≤ src)

/-- cbval (R160): entry `e` of codebook `c` as a signed value. -/
def Mx.cbval (m : Mx) (c e : Nat) : Int := (tget 0 m.cb (c * 256 + e)).toInt

def State.modMx (s : State) (k : Nat) (f : Mx → Mx) : State := s.modTile k (fun t => { t with mx := f t.mx })

/-! ### MNOP, MLOAD, MSWAP -/

/-- MNOP (R159). -/
def execMnop (_x : Site) (s : State) : Out := .next s

/-- Lines of an MLOAD (R160). -/
def mloadLines (kind fmt : Nat) : Nat := if kind = 2 then 1 else if kind = 1 ∧ fmt = 1 then 32 else 16

/-- Where the bytes of line `i` of a weight block go, and the values they expand to (R144-R146): (32 k + n, weight). -/
def expandLine (m : Mx) (fmt cb cseg i : Nat) (bytes : List Byte) : List (Nat × Int) :=
  (bytes.zipIdx).flatMap fun p =>
    let a := 64 * i + p.2
    let v := p.1.toNat
    let kk := a / 32
    let n := a % 32
    if fmt = 0 then [(32 * kk + n, m.cbval cb v)]
    else [(32 * (2 * kk) + n, m.cbval cb (16 * cseg + v % 16)), (32 * (2 * kk + 1) + n, m.cbval cb (16 * cseg + v / 16))]

/-- MLOAD (R160). -/
def execMload (x : Site) (kind : BitVec 2) (fmt : BitVec 1) (cb : BitVec 2) (cseg : BitVec 4) (ren : BitVec 1)
    (src : BitVec 14) (vlast : BitVec 5) (zb : BitVec 2) (s : State) : Out :=
  .next (issue x .mx s fun s =>
    let k := x.key
    let rn := ren == 1
    let lines := mloadLines kind.toNat fmt.toNat
    let n := lines * 64
    checked s k .mx [
      (kind == 3 || (kind == 2 && fmt == 1) || (kind != 0 && cb != 0) || (!(kind == 0 && fmt == 1) && cseg != 0) ||
        srcReserved rn src.toNat || (kind != 1 && vlast != 0) || (kind == 2 && zb == 0) || (kind != 2 && zb != 0),
        .encoding),
      (s.busyRes k .mxLoad, .unitBusy),
      (srcRegionBad s k rn src.toNat, .address),
      (srcRegionEmpty s k rn src.toNat n, .regionEmpty)] fun s =>
    let w : LoadJob := { kind := kind.toNat, fmt := fmt.toNat, cb := cb.toNat, cseg := cseg.toNat, vlast := vlast.toNat
                         zb := zb.toNat
                         lines := (List.range lines).map (fun i => srcWords s k rn src.toNat (64 * i) 64) }
    let s := srcPop s k rn src.toNat n
    occupy (addJob s k .mx (lines + 1) (.load w)) k .mxLoad lines (lines + 1))

/-- MLOAD reads one line a cyc, and expands it with the codebook as it stands in that cyc. -/
def LoadJob.read (s : State) (k : Nat) (j : Job) (w : LoadJob) : State × LoadJob :=
  match w.lines with
  | [] => (s, w)
  | ws :: rest =>
    match readAcc s k j.bundle j.slot (joinWords ws) with
    | (s, false) => (s, w)
    | (s, true) =>
      let bytes := ws.flatMap (fun o => s.spBytes k o 8)
      let vals := if w.kind = 0 then expandLine (s.tile k).mx w.fmt w.cb w.cseg w.next bytes
        else (bytes.zipIdx).map (fun p => (64 * w.next + p.2, (p.1.toNat : Int)))
      (s, { w with lines := rest, next := w.next + 1, got := some (w.next, vals) })

/-- Write a line of a weight block or of an activation set into the plane that is the shadow one now; the first one sets
the plane's tag. -/
def LoadJob.toPlane (w : LoadJob) (p : Plane) (i : Nat) (vals : List (Nat × Int)) : Plane :=
  let p := if i = 0 then { p with kind := w.kind == 1, fmt := w.fmt == 1, vlast := w.vlast } else p
  if w.kind = 0 then { p with w := vals.foldl (fun t v => tset 0 t v.1 v.2) p.w }
  else { p with set := vals.foldl (fun t v => tset 0 t v.1 (BitVec.ofInt 8 v.2)) p.set }

/-- Write the zero points (R158). -/
def LoadJob.toZp (w : LoadJob) (z : Tbl Byte) (vals : List (Nat × Int)) : Tbl Byte :=
  let put (z : Tbl Byte) (base : Nat) : Tbl Byte :=
    (vals.take 32).foldl (fun z v => tset 0 z (base + v.1) (BitVec.ofInt 8 v.2)) z
  let z := if bit w.zb 0 then put z 0 else z
  if bit w.zb 1 then put z 32 else z

/-- The line read in the cyc before is written at the end of this one, before an MSWAP of this cyc exchanges the planes: one
issued L cyc after an MLOAD of L lines makes the whole load active (DESIGN CHOICE, log 121). -/
def LoadJob.write (s : State) (k : Nat) (w : LoadJob) : State × LoadJob :=
  let s := match w.held with
    | some (i, vals) => s.modMx k fun m =>
        if w.kind = 2 then { m with zp := w.toZp m.zp vals } else { m with shadow := w.toPlane m.shadow i vals }
    | none => s
  (s, { w with held := w.got, got := none })

/-- MSWAP (R161). -/
def execMswap (x : Site) (s : State) : Out :=
  .next (issue x .mx s fun s => occupy (addJob s x.key .mx 1 .swap) x.key .mxSwap 1 1)

/-- The planes are exchanged. -/
def swapPlanes (s : State) (k : Nat) : State := s.modMx k fun m => { m with active := m.shadow, shadow := m.active }

/-! ### Activation ramp (R153) -/

def ramp (j : Nat) : Nat :=
  if j < 2 then 4 * j else if j < 6 then 8 + 2 * (j - 2) else if j < 12 then 16 + (j - 6) + (j - 6) / 3 else 24

/-- Cyc at which the entry after `n` entries could occur, from cyc `t`, with `j` entries made since `f`. -/
def rampGo (f : Nat) : Nat → Nat → Nat → Nat
  | 0, t, _ => t
  | n + 1, t, j => rampGo f n ((if j < 13 then max t (f + ramp j) else t) + 1) (j + 1)

/-- The array is idle at cyc `t`. -/
def Mx.idleAt (m : Mx) (t : Nat) : Bool := match m.last with | none => true | some l => decide (l + 64 < t)

/-- The ramp state after `n ≥ 1` entries of a pass issued at cyc `t`, and the offset D of the last entry. -/
def Mx.runEntries (m : Mx) (t n : Nat) : Mx × Nat :=
  let f := if m.idleAt t then t else m.first
  let j := if m.idleAt t then 0 else m.count
  let a := min n 13
  let after := rampGo f a t j + (n - a)
  ({ m with first := f, count := j + n, last := some (after - 1) }, after - 1 - t)

/-- Cyc of the next entry of a pass, no earlier than `t`, with `j` entries made since `f`. -/
def rampNext (f t j : Nat) : Nat := if j < 13 then max t (f + ramp j) else t

/-- Σ over k of x[k] × w[k][n] for one activation row (R147). -/
def rowDot (w : Tbl Int) (row : List Byte) (n : Nat) : Int :=
  (row.zipIdx).foldl (fun a p => a + sext8 p.1 * tget 0 w (32 * p.2 + n)) 0

/-- A pass that issues now: its entries are made from cyc to cyc. -/
def startPass (s : State) (k n : Nat) (w : PassJob) : State :=
  let c := (s.die (k / 256)).cyc
  let m := (s.tile k).mx
  let (m', d) := m.runEntries c n
  let j := if m.idleAt c then 0 else m.count
  let w := { w with at_ := rampNext m'.first c j, first := m'.first, count := j }
  let s := s.modMx k fun _ => m'
  occupy (addJob s k .mx (d + 64) (.pass w)) k .mxEntry (d + 1) (d + 64)

/-- MSTREAM (R162). -/
def execMstream (x : Site) (abank acc ren : BitVec 1) (rows : BitVec 20) (src : BitVec 14) (s : State) : Out :=
  .next (issue x .mx s fun s =>
    let k := x.key
    let rn := ren == 1
    let m := (s.tile k).mx
    let e := if m.active.fmt then 64 else 32
    let n := rows.toNat * e
    checkedWork s k .mx [(srcReserved rn src.toNat, .encoding), (s.busyRes k .mxEntry, .unitBusy)] (rows != 0) [
      (m.active.kind, .mxMode),
      (srcRegionBad s k rn src.toNat, .address),
      (srcRegionEmpty s k rn src.toNat n, .regionEmpty)] fun s =>
    let srcs := (List.range rows.toNat).map (fun i => joinWords (srcWords s k rn src.toNat (i * e) e))
    let s := srcPop s k rn src.toNat n
    startPass s k rows.toNat
      { gemv := false, abank := abank.toNat, acc := acc == 1, e := e, srcs := srcs, at_ := 0, first := 0, count := 0 })

/-! ### MGEMV (R149-R151, R163) -/

/-- V′: the smallest power of two that is at least V. -/
def vPrime (v : Nat) : Nat := if v ≤ 1 then 1 else if v ≤ 2 then 2 else if v ≤ 4 then 4 else if v ≤ 8 then 8 else if v ≤ 16 then 16 else 32

/-- G (R149). -/
def groupsOf (v : Nat) : Nat := min 16 (32 / vPrime v)

/-- Ranges that record `n` is read from (R150). -/
def recordRanges (g bank0 loff n : Nat) : List (Nat × Nat) :=
  if g = 1 then [(bank0 * 65536 + 64 * ((loff + n / 2) % 1024) + 32 * (n % 2), 32)]
  else (List.range (g / 2)).map (fun i => ((bank0 + i) % 16 * 65536 + 64 * ((loff + n) % 1024), 64))

/-- Expanded weights of a record, element by element (R144, R150). -/
def recordWeights (m : Mx) (w4 : Bool) (cb cseg : Nat) (bytes : List Byte) : List Int :=
  if w4 then bytes.flatMap (fun b => [m.cbval cb (16 * cseg + b.toNat % 16), m.cbval cb (16 * cseg + b.toNat / 16)])
  else bytes.map (fun b => m.cbval cb b.toNat)

/-- Element `i` of vector `v` of an activation set (R149). Where an MSWAP during a pass has made a plane of another tag
active, the pass keeps the V, G and W4 of its issue, and its slots follow the FMT and VLAST of the plane active at the entry
(DESIGN CHOICE, log 122). -/
def setElem (p : Plane) (v i : Nat) : Int :=
  let e := if p.fmt then 64 else 32
  sext8 (tget 0 p.set (((i / e) * vPrime (p.vlast + 1) + v) * e + i % e))

/-- Σ over k of x_v[k] × w[k] (R151). -/
def recordDot (p : Plane) (v : Nat) (w : List Int) : Int :=
  (w.zipIdx).foldl (fun a q => a + setElem p v q.2 * q.1) 0

/-- MGEMV (R163). -/
def execMgemv (x : Site) (abank acc : BitVec 1) (nout : BitVec 7) (cb : BitVec 2) (cseg bank0 : BitVec 4)
    (loff : BitVec 10) (s : State) : Out :=
  .next (issue x .mx s fun s =>
    let k := x.key
    let m := (s.tile k).mx
    checkedWork s k .mx [
      (decide (nout ≠ 0) && m.active.kind && !m.active.fmt && cseg != 0, .encoding),
      (s.busyRes k .mxEntry, .unitBusy)] (nout != 0) [(!m.active.kind, .mxMode)] fun s =>
    let v := m.active.vlast + 1
    let g := groupsOf v
    startPass s k nout.toNat
      { gemv := true, abank := abank.toNat, acc := acc == 1, cb := cb.toNat, cseg := cseg.toNat, e := v
        w4 := m.active.fmt, srcs := (List.range nout.toNat).map (recordRanges g bank0.toNat loff.toNat)
        at_ := 0, first := 0, count := 0 })

/-! ### The entries of a pass (R143, R153, R159) -/

/-- Sums of entry `n`, by accumulator key: row n of the bank for MSTREAM, column n for MGEMV. -/
def PassJob.sums (w : PassJob) (m : Mx) (n : Nat) (bytes : List Byte) : List (Nat × Int) :=
  let b := 1024 * ((w.abank + n / 32) % 2)
  if w.gemv then
    let ws := recordWeights m w.w4 w.cb w.cseg bytes
    (List.range w.e).map (fun v => (b + 32 * v + n % 32, recordDot m.active v ws))
  else (List.range 32).map (fun c => (b + 32 * (n % 32) + c, rowDot m.active.w bytes c))

/-- The entry of cyc `c`, if it is due, with the plane that is active in it. -/
def PassJob.read (s : State) (k : Nat) (j : Job) (w : PassJob) (c : Nat) : State × PassJob :=
  match w.srcs with
  | [] => (s, w)
  | rs :: rest =>
    if w.at_ ≠ c then (s, w)
    else match readAcc s k j.bundle j.slot rs with
      | (s, false) => (s, w)
      | (s, true) =>
        let sums := w.sums (s.tile k).mx w.next (rangeBytes s k rs)
        (s, { w with srcs := rest, next := w.next + 1, count := w.count + 1
                     at_ := rampNext w.first (c + 1) (w.count + 1), due := w.due ++ [(c + 63, sums)] })

/-- An entry's sums reach the accumulators at the end of cyc 63 after it. -/
def PassJob.write (s : State) (k : Nat) (w : PassJob) (c : Nat) : State × PassJob :=
  match w.due with
  | (t, sums) :: rest =>
    if t ≤ c then
      (s.modMx k fun m => { m with acc := sums.foldl (fun a p =>
          tset 0 a p.1 (add40 p.2 (if w.acc then tget 0 a p.1 else 0))) m.acc }, { w with due := rest })
    else (s, w)
  | [] => (s, w)

/-! ### MDRAIN (R154-R157, R164) -/

/-- The corrected and saturated bank, and how many values clamped. -/
def DrainJob.values (w : DrainJob) : Tbl Int × Nat :=
  let cs := (List.range 32).map (fun c => signedOf 32 (fieldAt w.cs (4 * c) 4))
  (List.range 32).foldl (fun (o : Tbl Int × Nat) r => (List.range 32).foldl (fun (o : Tbl Int × Nat) c =>
    if r ≤ w.rlast then
      let v := tget 0 w.acc (1024 * w.bank + 32 * r + c)
      let v := if w.zc then v - sext8 (tget 0 w.zp (32 * w.bank + r)) * (cs[c]?).getD 0 else v
      let (y, cl) := sat32 v
      (tset 0 o.1 (32 * r + c) y, if cl then o.2 + 1 else o.2)
    else o) o) ([], 0)

/-- FTQ push latency (Table 2-4). -/
def pushLatency (s : State) : Nat := if s.tp2 then 3 else 4

/-- Insert a push among those of the same cyc by member index (R60). -/
def ftqInsert (q : List FtqEntry) (e : FtqEntry) : List FtqEntry :=
  q.filter (fun f => f.pushAt != e.pushAt || f.member < e.member) ++ e ::
    q.filter (fun f => f.pushAt == e.pushAt && !decide (f.member < e.member))

/-- A push to the reducer's FTQ issues: its entry is reserved, and holds its values once the column sums are read. If the pushes of this
cyc would exceed four entries, every one of them is refused and each pushing tile faults (R61). -/
def ftqPush (s : State) (k : Nat) (act : State → State) : State :=
  let red := s.reducer k
  let now := (s.die (k / 256)).cyc
  let t := s.tile red
  let e : FtqEntry := ⟨[], s.member k, now + pushLatency s, k, now⟩
  if t.ftqOver then tileFault s k .mx .ftqFull
  else if t.ftqReserved < 4 then act (s.setTile red { t with ftq := ftqInsert t.ftq e })
  else
    let mine := t.ftq.filter (fun f => f.pushAt == now)
    let s := s.setTile red { t with ftq := t.ftq.filter (fun f => f.pushAt != now), ftqOver := true }
    let drop (s : State) (f : FtqEntry) : State :=
      (tileFault s f.src .mx .ftqFull).modTile f.src fun u =>
        { u with jobs := u.jobs.filter (fun j => !(match j.work with | .drain w => w.dest == 1 && j.t0 == now | _ => false)) }
    tileFault (mine.foldl drop s) k .mx .ftqFull

/-- MDRAIN (R164). -/
def execMdrain (x : Site) (bank : BitVec 1) (dest : BitVec 2) (zc : BitVec 1) (rlast : BitVec 5) (qpt : BitVec 6)
    (csline dline : BitVec 14) (s : State) : Out :=
  .next (issue x .mx s fun s =>
    let k := x.key
    let one := (s.gang k).1 == 1
    checked s k .mx [
      (dest == 3 || (zc == 0 && csline != 0) || (dest != 2 && dline != 0), .encoding),
      (s.busyRes k .mxRead || (dest == 1 && s.busyRes k .gangLink), .unitBusy),
      (dest == 1 && one, .gang)] fun s =>
    let m := (s.tile k).mx
    let occ := if dest = 2 then 64 else 2
    let lat := if dest = 2 then 66 else if dest = 1 then pushLatency s else 3
    let w : DrainJob := { bank := bank.toNat, dest := dest.toNat, rlast := rlast.toNat, qpt := qpt.toNat
                          dline := dline.toNat, acc := m.acc, zp := m.zp, zc := zc == 1
                          lines := if zc = 1 then lineOffs csline.toNat 2 else [], lat := lat }
    let go (s : State) : State := occupy (addJob s k .mx lat (.drain w)) k .mxRead occ lat
    if dest = 1 then ftqPush s k fun s => occupy (go s) k .gangLink 2 2 else go s)

/-- MDRAIN reads a line of column sums in each of its first two cyc. -/
def DrainJob.read (s : State) (k : Nat) (j : Job) (w : DrainJob) : State × DrainJob :=
  match w.lines with
  | [] => (s, w)
  | o :: rest =>
    match readAcc s k j.bundle j.slot [(o, 64)] with
    | (s, true) => (s, { w with lines := rest, cs := w.cs ++ s.spBytes k o 64 })
    | (s, false) => (s, w)

/-- The values go to their destination from the end of cyc 2 on, those of a push to the FTQ at the end of cyc 1, so that a
pop may take them as soon as they are readable (Table 2-4); the counts come with the last of it. -/
def DrainJob.write (s : State) (k : Nat) (j : Job) (w : DrainJob) (c : Nat) (lost : List Nat) : State :=
  let dt := c - j.t0
  if dt = 0 ∨ !w.lines.isEmpty then s else
  let (out, nsat) := w.values
  let s :=
    if w.dest = 0 ∧ dt = 2 then
      let put (a : Tbl Int) (i : Nat) : Tbl Int := tset 0 a (1024 * w.bank + i) (tget 0 out i)
      s.modMx k fun m => { m with acc := (List.range (32 * (w.rlast + 1))).foldl put m.acc }
    else if w.dest = 1 ∧ dt = 1 then
      s.modTile (s.reducer k) fun t => { t with ftq := t.ftq.map (fun e =>
        if e.src = k ∧ e.pushAt = j.t0 then { e with vals := out } else e) }
    else if w.dest = 2 ∧ 2 ≤ dt ∧ dt < 66 then
      let i := dt - 2
      jobWrite s k j lost ((w.dline + i) % 16384 * 64)
        ((List.range 16).flatMap (fun e => leBytes 4 (unsignedOf 32 (tget 0 out (16 * i + e)))))
    else s
  if dt + 1 = w.lat then countQ s k w.qpt (32 * (w.rlast + 1)) nsat else s

/-- MCLR (R165). -/
def execMclr (x : Site) (banks : BitVec 2) (s : State) : Out :=
  .next (issue x .mx s fun s =>
    checkedWork s x.key .mx [(s.busyRes x.key .mxRead, .unitBusy)] (banks != 0) [] fun s =>
    occupy (addJob s x.key .mx 1 (.clear banks.toNat)) x.key .mxRead 1 1)

/-- The banks are cleared. -/
def clearBanks (s : State) (k banks : Nat) : State :=
  s.modMx k fun m => { m with acc := m.acc.filter (fun e => !bit banks (e.1 / 1024)) }

/-! ### Tables: MCBLOAD and VLUT (R166, R235) -/

/-- MCBLOAD (R166) (log 70). -/
def execMcbload (x : Site) (cb : BitVec 2) (seg0 : BitVec 4) (nseg : BitVec 5) (src : BitVec 14) (s : State) : Out :=
  .next (issue x .mx s fun s =>
    let k := x.key
    let cyc := (nseg.toNat + 1) / 2
    checkedWork s k .mx [(s.busyRes k .mxLoad, .unitBusy)] (nseg != 0) [] fun s =>
    occupy (addJob s k .mx (cyc + 1) (.tab { cb := some cb.toNat, seg0 := seg0.toNat, nseg := nseg.toNat
                                             lines := lineOffs src.toNat cyc })) k .mxLoad cyc (cyc + 1))

/-- A table load reads one line a cyc. -/
def TabJob.read (s : State) (k : Nat) (j : Job) (w : TabJob) : State × TabJob :=
  match w.lines with
  | [] => (s, w)
  | o :: rest =>
    match readAcc s k j.bundle j.slot [(o, 64)] with
    | (s, true) => (s, { w with lines := rest, next := w.next + 1, got := some (w.next, s.spBytes k o 64) })
    | (s, false) => (s, w)

/-- Entries of a codebook from line `m` of an MCBLOAD: two segments of 16 entries, the second only where it is loaded. -/
def TabJob.toCodebook (w : TabJob) (t : Tbl (BitVec 10)) (c m : Nat) (bs : List Byte) : Tbl (BitVec 10) :=
  (List.range (min 32 (16 * (w.nseg - 2 * m)))).foldl (fun t e =>
    tset 0 t (c * 256 + 16 * ((w.seg0 + 2 * m + e / 16) % 16) + e % 16) (BitVec.ofNat 10 (fieldAt bs (2 * e) 2))) t

/-- Entries of the lookup table from line `m` of a VLUT: one segment of 16 entries. -/
def TabJob.toLut (w : TabJob) (t : Tbl (BitVec 32)) (m : Nat) (bs : List Byte) : Tbl (BitVec 32) :=
  (List.range 16).foldl (fun t e =>
    tset 0 t (16 * ((w.seg0 + m) % 16) + e) (BitVec.ofNat 32 (fieldAt bs (4 * e) 4))) t

/-- The line read in the cyc before is written at the end of this one. -/
def TabJob.write (s : State) (k : Nat) (w : TabJob) : State × TabJob :=
  let s := match w.held, w.cb with
    | some (m, bs), some c => s.modMx k fun x => { x with cb := w.toCodebook x.cb c m bs }
    | some (m, bs), none => s.modTile k fun t => { t with lut := w.toLut t.lut m bs }
    | none, _ => s
  (s, { w with held := w.got, got := none })

end Sys2Proof.Machine
end

