-- ==== Sys2Proof/Machine/Sampler.lean ====
section
/-! DEFINITION. Token masks (R291-R293), candidate sets (R284), the draw (R285, R286) and Gauntlet's decision (R310). -/

namespace Sys2Proof.Machine

/-! ### Requests (R271, R272) -/

def State.entry (s : State) (i : Nat) : Entry := tget {} s.sv.entries i
def State.modEntry (s : State) (i : Nat) (f : Entry → Entry) : State :=
  s.modSv fun v => { v with entries := tmod {} v.entries i f }
def State.model (s : State) (m : Nat) : Model := tget {} s.sv.models m

/-- The handle of a slot. -/
def State.handle (s : State) (i : Nat) : Nat := (s.entry i).gen * 65536 + i

/-- NPOS (R272). -/
def Entry.npos (e : Entry) : Nat := e.plen + e.ngen
/-- W (R272). -/
def Entry.w (e : Entry) : Nat := if e.ngen = 0 then e.pdone else e.npos - 1
/-- LIMP of the request's model (R272). -/
def State.limp (s : State) (e : Entry) : Nat := geoLimp (s.model e.midx).kvgeo

/-- The draft model of a model, if its DRAFT is valid (Table 9-1). -/
def Model.draftOf (m : Model) : Option Nat := if bit m.draft 15 then some (bits m.draft 9 0) else none
/-- Some main model names the model as its draft. -/
def State.isDraft (s : State) (m : Nat) : Bool := s.sv.models.any (fun e => e.2.draftOf == some m)
/-- The main model of a draft model. -/
def State.mainOf (s : State) (m : Nat) : Option Nat := (s.sv.models.find? (fun e => e.2.draftOf == some m)).map (·.1)

/-- STATE codes (Table 9-2). -/
def EState.code : EState → Nat
  | .free => 0 | .queued => 1 | .prefill => 2 | .decode => 3 | .paused => 4 | .parked => 5 | .done => 6 | .cancelling => 7

def EState.ofCode (n : Nat) : EState :=
  match n with | 1 => .queued | 2 => .prefill | 3 => .decode | 4 => .paused | 5 => .parked | 6 => .done | 7 => .cancelling | _ => .free

/-! ### Masks (R291-R293, R550) -/

/-- A mask descriptor (Table 20-4). -/
structure MaskDesc where
  start   : Nat
  nstates : Nat
  classes : Nat
  cmap    : Nat
  valid   : Bool
  gen     : Nat
  length  : Nat
  offset  : Nat

def maskDescOf (v : Nat) : MaskDesc :=
  { start := bits v 115 104, nstates := bits v 103 91, classes := bits v 90 79, cmap := bits v 78 75, valid := bit v 70
    gen := bits v 69 64, length := bits v 63 32, offset := bits v 31 0 }

/-- Descriptor `i` of a kind: 1 allow-list, 2 class map, 3 grammar. -/
def State.maskDesc (s : State) (kind i : Nat) : MaskDesc := maskDescOf (tget 0 s.sv.desc (kind * 256 + i)).toNat

/-- The mask store and its descriptors. -/
structure Masks where
  store : Memory
  desc  : Tbl (BitVec 128)

/-- The mask store that the rows of a group's requests read: a commit takes effect for them in the group's own phase 4
(R291). -/
def State.masks (s : State) (g : Nat) : Masks :=
  if s.sv.tblOld.contains g then ⟨s.sv.oldStore, s.sv.oldDesc⟩ else ⟨s.sv.store, s.sv.desc⟩

/-- The mask store of a request's rows. -/
def State.masksOf (s : State) (e : Entry) : Masks := s.masks (s.model e.midx).group

def Masks.at_ (m : Masks) (kind i : Nat) : MaskDesc := maskDescOf (tget 0 m.desc (kind * 256 + i)).toNat

/-- `n` bytes of the mask store, as a number. -/
def Masks.nat (m : Masks) (a n : Nat) : Nat := leNat (mgets m.store a n)

/-- KIND, generation and index of a mask handle (R292). -/
def maskKind (h : Nat) : Nat := bits h 15 14
def maskGen (h : Nat) : Nat := bits h 13 8
def maskIdx (h : Nat) : Nat := bits h 7 0

/-- Byte of the store at which a grammar state's allowed-class bitmap begins (R550). -/
def Masks.bitmapAt (m : Masks) (d : MaskDesc) (g : Nat) : Nat := d.offset + m.nat (d.offset + 8 * g) 4

/-- Class of a token. -/
def Masks.classOf (m : Masks) (d : MaskDesc) (t : Nat) : Nat := m.nat ((m.at_ 2 d.cmap).offset + 2 * t) 2

def Masks.classOk (m : Masks) (d : MaskDesc) (g c : Nat) : Bool :=
  decide (c < d.classes) && bit (m.nat (m.bitmapAt d g + c / 8) 1) (c % 8)

/-- Token `t` is allowed for a request whose grammar state is `g` (R293). -/
def Masks.allowed (m : Masks) (maskh vocab g t : Nat) : Bool :=
  decide (t < vocab) &&
    (match maskKind maskh with
      | 1 => let d := m.at_ 1 (maskIdx maskh); bit (m.nat (d.offset + t / 8) 1) (t % 8)
      | 2 => let d := m.at_ 3 (maskIdx maskh); m.classOk d g (m.classOf d t)
      | _ => true)

/-- The mask allows some token. -/
def Masks.anyAllowed (m : Masks) (maskh vocab g : Nat) : Bool :=
  if maskKind maskh = 0 then decide (0 < vocab) else (List.range vocab).any (m.allowed maskh vocab g)

/-- The grammar state after token `t` (R293). -/
def Masks.gramStep (m : Masks) (maskh g t : Nat) : Nat :=
  if maskKind maskh = 2 then
    let d := m.at_ 3 (maskIdx maskh)
    let c := m.classOf d t
    let rank := ((List.range c).filter (m.classOk d g)).length
    m.nat (m.bitmapAt d g + (d.classes + 7) / 8 + 2 * rank) 2 % 4096
  else g

/-! ### Candidates (R284) -/

/-- Entries of a request's candidate set. -/
def Entry.k (e : Entry) : Nat :=
  if e.smode then max (if e.topk = 0 then 256 else e.topk) e.expk else if e.expk = 0 then 1 else e.expk

/-- Candidate `a` stands before `b`: by logit descending, then by token ascending; a subnormal ranks as zero. -/
def candBefore (a b : Nat × BitVec 32) : Bool :=
  let x := Fp.orderKey (Fp.flush a.2)
  let y := Fp.orderKey (Fp.flush b.2)
  let zero (v : BitVec 32) : Bool := Fp.isZero v
  if zero a.2 && zero b.2 then decide (a.1 < b.1)
  else if y < x then true else if x < y then false else decide (a.1 < b.1)

/-- Offer a logit that the mask allows: false when it is not finite and not +inf. -/
def Row.offer (r : Row) (k t : Nat) (l : BitVec 32) : Row × Bool :=
  if Fp.isNan l ∨ l = Fp.negInf then (r, false)
  else
    let l := if l = Fp.posInf then Fp.maxFinite else l
    ({ r with cands := (insertBy candBefore (t, l) r.cands).take k }, true)

/-! ### The draw (R285, R286) -/

def mix64 (x : BitVec 64) : BitVec 64 :=
  let x := (x ^^^ (x >>> 30)) * 0xBF58476D1CE4E5B9#64
  let x := (x ^^^ (x >>> 27)) * 0x94D049BB133111EB#64
  x ^^^ (x >>> 31)

/-- uniform(seed, pos): an exact FP32 value between 0 and 1. -/
def uniform (seed pos : Nat) : BitVec 32 :=
  let x := mix64 (BitVec.ofNat 64 (seed + (pos + 1) * 0x9E3779B97F4A7C15))
  Fp.roundRatio false (2 * (x.toNat / 2 ^ 41) + 1) (2 ^ 24)

/-- Running sums of the exponentials of the candidates. -/
def expSums (l0 r : BitVec 32) : BitVec 32 → List (Nat × BitVec 32) → List (BitVec 32)
  | _, [] => []
  | p, c :: cs =>
    let p := Fp.add p (Fp.exp (Fp.mul (Fp.sub (Fp.flush c.2) l0) r))
    p :: expSums l0 r p cs

/-- The token drawn from a candidate set that is not empty, at a position. -/
def drawToken (e : Entry) (c : List (Nat × BitVec 32)) (pos : Nat) : Nat :=
  match c with
  | [] => 0
  | c0 :: _ =>
    if e.smode then
      let cs := c.take (if e.topk = 0 then 256 else e.topk)
      let sums := expSums (Fp.flush c0.2) (Fp.recip (BitVec.ofNat 32 e.temp)) Fp.zero cs
      let last (n : Nat) : BitVec 32 := (sums[n - 1]?).getD Fp.zero
      let topp := BitVec.ofNat 32 e.topp
      let n := cs.length
      let n := if Fp.lt topp Fp.one then
          match (List.range n).find? (fun i => !Fp.lt ((sums[i]?).getD Fp.zero) (Fp.mul topp (last n))) with
          | some i => i + 1
          | none => n
        else n
      let x := Fp.mul (uniform e.seed pos) (last n)
      let i := ((List.range n).find? (fun i => Fp.lt x ((sums[i]?).getD Fp.zero))).getD (n - 1)
      ((cs[i]?).map (·.1)).getD 0
    else c0.1

/-! ### Rows and Gauntlet's decision (R285, R288, R310) -/

def Grant.row (g : Grant) (i : Nat) : Row := tget {} g.rows i

/-- What a sampled row gives. -/
inductive Verdict where
  /-- its count has not reached VOCAB -/
  | waiting
  | token (t : Nat)
  /-- an end cause of Table 9-3: 4 MASK_EMPTY, 9 COVER, 10 NONFINITE -/
  | ends (cause : Nat)
  deriving DecidableEq, Repr

/-- The verdict on row `i` of a grant whose grammar state there is `gst`; at the cut a row that is not whole ends the
request. -/
def State.judge (s : State) (e : Entry) (g : Grant) (atCut : Bool) (i gst : Nat) : Verdict :=
  let vocab := (s.model e.midx).vocab
  let r := g.row i
  if !(s.masksOf e).anyAllowed e.maskh vocab gst then .ends 4
  else if r.count < vocab ∧ !atCut then .waiting
  else if r.count ≠ vocab then .ends 9
  else if r.cands.isEmpty then .ends 10
  else .token (drawToken e r.cands (g.pos0 + g.ntok - g.d + i))

/-- A decision: the tokens decided in ascending row order, and what stopped it: nothing, a wait, or an end cause. -/
structure Decision where
  tokens  : List Nat := []
  waiting : Bool := false
  ends    : Option Nat := none
  deriving DecidableEq, Repr

/-- Gauntlet's loop from row `i` on: the next row counts only while the draft before it is real and agrees. -/
def State.decideFrom (s : State) (e : Entry) (g : Grant) (atCut : Bool) : Nat → Nat → Nat → List Nat → Decision
  | 0, _, _, acc => { tokens := acc }
  | fuel + 1, i, gst, acc =>
    match s.judge e g atCut i gst with
    | .waiting => { tokens := acc, waiting := true }
    | .ends c => { tokens := acc, ends := some c }
    | .token x =>
      let acc := acc ++ [x]
      if i < g.d ∧ i < g.dheld ∧ g.tokens[i + 1]? = some x then
        s.decideFrom e g atCut fuel (i + 1) ((s.masksOf e).gramStep e.maskh gst x) acc
      else { tokens := acc }

/-- The decision of a sampling grant (R310); a grant with D = 0 decides its one row. -/
def State.gauntlet (s : State) (e : Entry) (g : Grant) (atCut : Bool) : Decision :=
  s.decideFrom e g atCut (g.d + 1) 0 e.gstate []

/-- The turn ends with one of these tokens: STOP, MAXNEW or LIMIT (R288). -/
def State.turnEnds (s : State) (e : Entry) (tokens : List Nat) : Bool :=
  (tokens.zipIdx).any (fun p =>
    [e.stop0, e.stop1, e.stop2, e.stop3].any (fun st => bit st 18 && bits st 17 0 == p.1) ||
    decide (e.ngen + p.2 + 1 = e.maxnew) || decide (e.npos + p.2 + 1 = s.limp e))

end Sys2Proof.Machine
end

