-- ==== Sys2Proof/Machine/ServeOps.lean ====
section
/-! DEFINITION. Operations of the serving engine that commands and boundaries share: token records (R289), the end and
the freeing of requests, mirror traffic (R455, R458), park images (R297), and expiry (R299). -/

namespace Sys2Proof.Machine

/-- Group of a request. -/
def State.grpOf (s : State) (e : Entry) : Nat := (s.model e.midx).group

/-! ### Mirror traffic (R455, R458, R460) -/

/-- A mirrored entry: of the own half, neither FREE nor a shadow, in a group of one module. -/
def State.mirrored (s : State) (i : Nat) : Bool :=
  let e := s.entry i
  s.tw.paired && i / 32768 == s.id.half && e.state != .free && !e.shadow && tget 0 s.img.gmods (s.grpOf e) == 1

/-- A MIRROR packet to the twin, over P15 alone (log 78). -/
def mirrorMsg (s : State) (why : ReqFor) (kind seq : Nat) (data : List Byte) (bad : List Nat := []) : State :=
  fabReq s why s.tw.mid 0x0D 2 (kind + seq % 2 ^ 24 * 256) 0 data (!bad.isEmpty) (15 + 0x1E * 32) (bad := bad)

/-- The eight FRAMEs of a frame; only its uncorrectable words travel as poison (Table 16-8). -/
def mirrorFrame (s : State) (g seq handle ref : Nat) (bs : List Byte) (bad : List Nat) : State :=
  (List.range 8).foldl (fun s k =>
    mirrorMsg s (.mirror g) 0x02 seq
      (leBytes 4 handle ++ leBytes 4 ref ++ leBytes 1 k ++ leBytes 7 0 ++ (bs.drop (1024 * k)).take 1024)
      ((bad.filter (fun w => w / 128 == k)).map (fun w => 2 + w % 128))) s

/-- Position of the last TOKEN record written for a request, and whether there is one (R460, R467). -/
def Entry.tokPos (e : Entry) : Nat × Bool := match e.lastTok with | some p => (p, true) | none => (e.emitpos, e.ev)

/-- The NOTICE of a slot's request: EMITPOS, EV, END written, FREED (log 78). -/
def notice (s : State) (i : Nat) (endW freed : Bool) : State :=
  let e := s.entry i
  let g := s.grpOf e
  mirrorMsg s (.mirror g) 0x04 (tget {} s.tw.mirrors g).seq
    (leBytes 4 (s.handle i) ++ leBytes 3 e.tokPos.1 ++ leBytes 1 (b2n e.tokPos.2 + 2 * b2n endW + 4 * b2n freed))

/-! ### Token records (R289) -/

/-- The 32 B of a token record (Table 9-9) of a slot's entry as it stands. -/
def State.recordBytes (s : State) (i kind step pos token : Nat) : List Byte :=
  let e := s.entry i
  let keepApplied := kind == 2 && e.keep && !e.late && decide (1 ≤ e.end_ ∧ e.end_ ≤ 3)
  leBytes 4 (s.handle i) ++ leBytes 4 step ++ leBytes 4 pos ++ leBytes 4 token ++ leBytes 4 e.ngen ++ leBytes 4 e.tag ++
    leBytes 1 (if kind = 1 then 0 else e.end_) ++ leBytes 1 (b2n e.late + 2 * b2n keepApplied) ++
    leBytes 1 (if e.end_ = 3 then e.scode else 0) ++ leBytes 4 0 ++ leBytes 1 kind

/-- A record waits for its completion ring. -/
def tokenRecord (s : State) (i kind step pos token : Nat) : State :=
  let b := s.recordBytes i kind step pos token
  s.modCq (s.entry i).cring fun c => { c with wait := c.wait ++ [{ bytes := b, irq := false, sq := none }] }

/-- The record of the end of a turn: POS is NPOS. -/
def endRecord (s : State) (i step : Nat) : State := tokenRecord s i 2 step (s.entry i).npos 0

/-- SERVE_ERROR: cause 1 COVER, 2 PARK_CRC, 3 PARK_IO, 4 PROMPT_IO, 5 PARK_SPACE. -/
def serveError (s : State) (i cause pos : Nat) : State := raise s 0x22 cause (leBytes 4 (s.handle i) ++ leBytes 4 pos)

/-! ### Ends -/

/-- A request's frames, the draft model's included, are released (R250, R305) (log 44). -/
def releaseFrames (s : State) (i : Nat) : State :=
  let e := s.entry i
  let g := (s.model e.midx).kvgeo
  let s := if refV e.pthead then releaseTable s g e.pthead else s
  let s := match (s.model e.midx).draftOf with
    | some d => if refV e.dpthead ∧ !e.shadow then releaseTable s (s.model d).kvgeo e.dpthead else s
    | none => s
  let s := e.spare.foldl refDec s
  s.modEntry i fun e => { e with pthead := 0, dpthead := 0, dheld := 0, lv := false, drafts := [], spare := [] }

/-- The slot is FREE with the next generation; a transfer still running goes on to its end (R271, R290). -/
def freeSlot (s : State) (i : Nat) : State :=
  let e := s.entry i
  let s := if s.mirrored i then notice s i false true else s
  let geo := (s.model e.midx).kvgeo
  let grp := s.grpOf e
  let orphan : Option Orphan := match e.transfer with
    | .collecting _ _ _ _ => some ⟨i, grp, geo, e.parkAddr, e.transfer⟩
    | .writing _ _ => some ⟨i, grp, geo, e.parkAddr, e.transfer⟩
    | .reading _ => some ⟨i, grp, geo, e.parkAddr, e.transfer⟩
    | _ => none
  s.modSv fun v => { v with
    entries := tset {} v.entries i { gen := (e.gen + 1) % 65536 }
    orphans := match orphan with | some o => v.orphans ++ [o] | none => v.orphans }

/-! ### Frames as bytes -/

/-- Read a whole frame: its bytes and its uncorrectable words, if it is of this module. A peer's is on its way, to come as
`why` says; of one that a request without frames lacks the bytes are free values (log 15). -/
def fetchFrame (s : State) (why : ReadFor) (r : Nat) : State × Option (List Byte × List Nat) :=
  if !refV r then
    let (n, s) := s.fresh
    (s, some ((List.range 8192).map (Config.noByte n), []))
  else if s.refLocal r then
    let bad := s.frameBad r
    let (s', bs, _) := frameRead s r 0 8192
    (s', some (bs, bad))
  else (readFrame s (refDie r) why r, none)

/-- Write a whole frame, here or on a peer. -/
def putFrame (s : State) (r : Nat) (bs : List Byte) (poison : Bool := false) : State :=
  if s.refLocal r then frameWrite s r 0 bs poison
  else (List.range 5).foldl (fun s i =>
    pmAsk s (.pm (refDie r) 0) 2 r (2000 * i) (min 2000 (8192 - 2000 * i)) 0 ((bs.drop (2000 * i)).take 2000) poison) s

/-! ### Park images (R188, R297) -/

/-- Blocks of `w` positions. -/
def blocksOf (g w : Nat) : Nat := (w + geoTpp g - 1) / geoTpp g

/-- Block `b` of `nb` is intact in the image. -/
def blockIntact (m : Model) (cls nb b : Nat) : Bool := cls == 0 || decide (b < m.banch) || decide (nb ≤ b + m.bwin)

/-- Bytes of one block in the image. -/
def blockBytes (g : Nat) (intact : Bool) : Nat :=
  if intact then geoBr g * 8192 else geoLayers g * geoTpp g * geoLw g / 2 + geoS g * 8192

/-- Size of a park image. -/
def parkSize (m : Model) (cls w : Nat) : Nat :=
  let g := m.kvgeo
  let nb := blocksOf g w
  0x40 + geoNstate g * 8192 + ((List.range nb).map (fun b => blockBytes g (blockIntact m cls nb b))).sum

/-- Two 4-bit codes in a byte. -/
def packPair (a b : Int) : Byte := BitVec.ofNat 8 ((a % 16).toNat + 16 * (b % 16).toNat)

def packCodes : List Int → List Byte
  | a :: b :: l => packPair a b :: packCodes l
  | _ => []

/-- A 4-bit code as the INT8 code it restores to. -/
def code4 (n : Nat) : Byte := BitVec.ofInt 8 (signedOf 4 n)

def unpackCodes (bs : List Byte) : List Byte := bs.flatMap fun b => [code4 (b.toNat % 16), code4 (b.toNat / 16)]

/-- A block requantised to 4 bits: code bytes in layer and token order, then scale frames with s4 for each scale. -/
def requantBlock (g : Nat) (codes scales : List Byte) : List Byte :=
  let lw := geoLw g
  let tpp := geoTpp g
  let tokens := (List.range (geoLayers g * tpp)).map fun i =>
    let q := ((codes.drop (i / tpp * 8192 + i % tpp * lw)).take lw).map BitVec.toInt
    requant4 q (BitVec.ofNat 32 (fieldAt scales (4 * i) 4))
  tokens.flatMap (fun t => packCodes t.1) ++
    tokens.flatMap (fun t => leBytes 4 t.2.toNat) ++ scales.drop (4 * (geoLayers g * tpp))

/-- The frames of a block, from the bytes of a requantised one. -/
def restoreBlock (g : Nat) (bs : List Byte) : List Byte :=
  let lw := geoLw g
  let tpp := geoTpp g
  let per := tpp * lw / 2
  (List.range (geoLayers g)).flatMap (fun l => padTo 8192 (unpackCodes ((bs.drop (l * per)).take per))) ++
    bs.drop (geoLayers g * per)

/-- References of a block's code and scale frames. -/
def State.blockRefs (s : State) (g head b : Nat) : List Nat :=
  (List.range (geoBr g)).map (fun i => s.refAt g head (b * geoBr g + i))

/-- State-frame references of a page table. -/
def State.stateRefs (s : State) (g head : Nat) : List Nat := (List.range (geoNstate g)).map (s.pageRef head)

/-- What the park image of a slot's request depends on beside its frames. -/
def State.parkHead (s : State) (i : Nat) : ParkHead :=
  let e := s.entry i
  let m := s.model e.midx
  { handle := s.handle i, modelId := e.modelId, cls := e.cls, w := e.w, geo := m.kvgeo, banch := m.banch, bwin := m.bwin }

/-- The park image, from the bytes of its frames: state frames, then the blocks. -/
def ParkHead.pack (h : ParkHead) (raw : List Byte) : List Byte :=
  let g := h.geo
  let nb := blocksOf g h.w
  let n0 := 8192 * geoNstate g
  let per := 8192 * geoBr g
  let body := raw.take n0 ++ (List.range nb).flatMap fun b =>
    let bs := (raw.drop (n0 + per * b)).take per
    if blockIntact { banch := h.banch, bwin := h.bwin } h.cls nb b then bs
    else requantBlock g (bs.take (8192 * geoLayers g)) (bs.drop (8192 * geoLayers g))
  leBytes 4 h.handle ++ leBytes 2 h.modelId ++ leBytes 1 h.cls ++ leBytes 1 0 ++ leBytes 4 nb ++ leBytes 4 h.w ++
    leBytes 4 (crc32 body).toNat ++ leBytes 44 0 ++ body

/-- The write-out of a slot's request begins, from its frames as they stand; those on peers are read first (R298). -/
def parkXfer (s : State) (i : Nat) (pins : List Nat) : State × Xfer :=
  let e := s.entry i
  let h := s.parkHead i
  let id := s.net.nextId
  let s := { s with net := { s.net with nextId := id + 1 } }
  let refs := s.stateRefs h.geo e.pthead ++ (List.range (blocksOf h.geo h.w)).flatMap (s.blockRefs h.geo e.pthead)
  let (s, raw, all) := (refs.zipIdx).foldl (fun (a : State × List Byte × Bool) p =>
    match fetchFrame a.1 (.park id (8192 * p.2)) p.1 with
    | (s, some (bs, _)) => (s, a.2.1 ++ bs, a.2.2)
    | (s, none) => (s, a.2.1 ++ leBytes 8192 0, false)) (s, [], true)
  (s, if all then .writing (h.pack raw) pins else .collecting id h raw pins)

/-! ### Frames of peers as they come (log 15) -/

/-- The bytes of a frame join the image that a transfer collects; with the last of them the image is written. -/
def Xfer.fill (x : Xfer) (id at_ : Nat) (bs : List Byte) (last : Bool) : Xfer :=
  match x with
  | .collecting i h raw pins =>
    if i = id then
      let raw := patch raw at_ bs
      if last then .writing (h.pack raw) pins else .collecting i h raw pins
    else x
  | x => x

/-- A frame that was read has come whole. That of a copy on write stays until its PUT is accepted. -/
def readDone (s : State) (x : PeerRead) : State :=
  let (bs, bad) := x.data
  match x.why with
  | .copy _ => s
  | .park id at_ =>
    let s := dropReads s (fun y => y.id == x.id)
    let last := s.pages.reads.all (fun y => match y.why with | .park j _ => j != id | _ => true)
    s.modSv fun v => { v with
      entries := v.entries.map (fun e => (e.1, { e.2 with transfer := e.2.transfer.fill id at_ bs last }))
      orphans := v.orphans.map (fun o => { o with xfer := o.xfer.fill id at_ bs last }) }
  | .capture g seq handle ref => mirrorFrame (dropReads s (fun y => y.id == x.id)) g seq handle ref bs bad

/-- Part `c` of the reading `id` has come; a reading that was given up takes nothing. -/
def readPart (s : State) (id c : Nat) (bs : List Byte) (bad : Bool) : State :=
  let s := { s with pages := { s.pages with reads := s.pages.reads.map (fun (x : PeerRead) =>
    if x.id = id ∧ x.got.all (fun g => g.1 != c) then { x with got := x.got ++ [(c, bs, bad)] } else x) } }
  match s.pages.reads.find? (fun x => x.id == id) with
  | some x => if x.whole then readDone s x else s
  | none => s

/-- Write the frames of a page table from a park image. -/
def unpackImage (s : State) (m : Model) (cls w root : Nat) (image : List Byte) : State :=
  let g := m.kvgeo
  let nb := blocksOf g w
  let ns := geoNstate g
  let s := (List.range ns).foldl (fun s q => putFrame s (s.pageRef root q) ((image.drop (0x40 + 8192 * q)).take 8192)) s
  let go := (List.range nb).foldl (fun (a : State × Nat) b =>
    let intact := blockIntact m cls nb b
    let n := blockBytes g intact
    let raw := (image.drop a.2).take n
    let bs := if intact then raw else restoreBlock g raw
    let rs := a.1.blockRefs g root b
    ((rs.zipIdx).foldl (fun s p => putFrame s p.1 ((bs.drop (8192 * p.2)).take 8192)) a.1, a.2 + n)) (s, 0x40 + 8192 * ns)
  go.1

/-! ### Expiry (R299) -/

/-- EXPIRY at the transition to PARKED. -/
def State.expiryOf (s : State) (ttl cls : Nat) : Nat :=
  if ttl = 0xFFFFFFFF then 0
  else s.now + (if ttl = 0 then (if cls = 0 then s.sv.ttlA else s.sv.ttlB) else ttl) * 1000000000

/-- A PARKED entry whose time is over becomes FREE, with its END record; a recorded RESTORE prevails. -/
def expireOne (s : State) (i : Nat) : State :=
  let e := s.entry i
  if e.state = .parked ∧ !e.xfer ∧ !e.shadow ∧ !e.restoreRec ∧ e.expiry ≠ 0 ∧ e.expiry ≤ s.now then
    let s := s.modEntry i fun e => { e with end_ := 7 }
    freeSlot (endRecord s i (s.stepNo (s.grpOf e))) i
  else s

/-- Slots whose entries a test holds of, ascending. -/
def State.slotsWhere (s : State) (p : Entry → Bool) : List Nat := (s.sv.entries.filter (fun e => p e.2)).map (·.1)

end Sys2Proof.Machine
end

