-- ==== Sys2Proof/Machine/Serve.lean ====
section
/-! DEFINITION. The serving instructions SLANES, SEMIT and SSTOP (R281-R283, R287), what the serving engine does on its
own with slices, feeds and prompts (R275, R283, R308, R309), and park transfers (R298-R300). -/

namespace Sys2Proof.Machine

/-! ### Lane tables (R281, R282) -/

def State.grantAt (s : State) (midx lane : Nat) : Option Grant := (s.sv.grants.find? (fun e => e.1 == midx * 32 + lane)).map (·.2)
def setGrant (s : State) (midx lane : Nat) (g : Grant) : State :=
  s.modSv fun v => { v with grants := tins (midx * 32 + lane) g v.grants }

/-- The lane record of a lane (Table 9-6). -/
def State.laneRecord (s : State) (midx lane : Nat) : Nat :=
  let step := tget 0 s.sv.tabStep midx
  match s.grantAt midx lane with
  | none => step * 2 ^ 192 + midx
  | some g =>
    step * 2 ^ 192 + g.d * 2 ^ 188 + b2n g.sample * 2 ^ 187 + b2n g.fresh * 2 ^ 186 + g.kind * 2 ^ 184 +
      g.ntok * 2 ^ 160 + g.handle * 2 ^ 128 + g.head * 2 ^ 96 + g.pos0 * 2 ^ 72 + g.limit % 2 ^ 24 * 2 ^ 48 + midx

/-- Token capacity of a lane. -/
def Model.tcap (m : Model) : Nat := (max m.pchunk (m.maxdepth + 1) + 15) / 16 * 16

/-- The bytes SLANES copies. -/
def State.laneBytes (s : State) (sel midx lane : Nat) : List Byte :=
  if sel = 0 then (List.range 32).flatMap (fun l => leBytes 32 (s.laneRecord midx l))
  else
    let toks := match s.grantAt midx lane with | some g => g.tokens | none => []
    (List.range (s.model midx).tcap).flatMap (fun i => leBytes 4 ((toks[i]?).getD 0))

/-- MIDX names a model of the tile's group. -/
def State.modelOfTile (s : State) (k midx : Nat) : Bool :=
  s.sv.models.any (fun e => e.1 == midx && s.groupOf (k / 256) == some e.2.group)

/-- SLANES (R282). -/
def execSlanes (x : Site) (sel : BitVec 1) (midx : BitVec 10) (lane : BitVec 5) (dline : BitVec 14) (s : State) : Out :=
  .next (issue x .nx s fun s =>
    let k := x.key
    let bs := s.laneBytes sel.toNat midx.toNat lane.toNat
    let n := bs.length / 64
    checked s k .nx [
      (sel == 0 && lane != 0, .encoding),
      (s.busyRes k .nxServe, .unitBusy),
      (!s.modelOfTile k midx.toNat, .address)] fun s =>
    let lines := ((lineOffs dline.toNat n).zipIdx).map (fun p => (p.1, (bs.drop (64 * p.2)).take 64))
    occupy (addJob s k .nx (n + 6) (.lanes { lines := lines })) k .nxServe n (n + 6))

/-- Line k of SLANES is written at the end of cyc k + 6. -/
def LanesJob.write (s : State) (k : Nat) (j : Job) (w : LanesJob) (c : Nat) (lost : List Nat) : State × LanesJob :=
  match w.lines with
  | (o, bs) :: rest => if j.t0 + 6 ≤ c then (jobWrite s k j lost o bs, { w with lines := rest }) else (s, w)
  | [] => (s, w)

/-! ### SEMIT (R283) -/

/-- SEMIT: its transfer is a transaction, which the serving engine's acknowledgement completes. -/
def execSemit (x : Site) (src : BitVec 14) (nl : BitVec 11) (pace : BitVec 6) (s : State) : Out :=
  .next (issue x .nx s fun s =>
    let k := x.key
    let n := nl.toNat
    checkedWork s k .nx [(decide (16 < pace.toNat), .encoding), (s.busyRes k .nxServe, .unitBusy)] (n != 0) [] fun s =>
    let w : EmitJob := { src := src.toNat, lines := lineOffs src.toNat (n + 1)
                         pace := if pace = 0 then 16 else pace.toNat, txn := s.net.nextId }
    let p := moveOccupancy (n + 1) w.pace
    let bt : Beat := { op := .write, ga := s.id.slot * 2 ^ 45 + 2 * 2 ^ 40, loc := 0, len := 0, data := [], poison := false
                       st := .out }
    let s := openTxn s x none 0 [bt]
    occupy (addJob s k .nx p (.emit w)) k .nxServe p 1)

/-- The beats of SEMIT that issue in cyc `c`: with the last one the slice is whole and goes to the serving engine. -/
def EmitJob.read (s : State) (k : Nat) (j : Job) (w : EmitJob) (c : Nat) : State × EmitJob :=
  (w.now (c - j.t0)).foldl (fun (a : State × EmitJob) o =>
    match readAcc a.1 k j.bundle j.slot [(o, 64)] with
    | (s, false) => (s, a.2)
    | (s, true) =>
      let w := { a.2 with lines := a.2.lines.drop 1, next := a.2.next + 1, data := a.2.data ++ s.spBytes k o 64 }
      if w.lines.isEmpty then
        (extendTxn (s.modSv fun v => { v with slices := v.slices ++ [{ tile := k, line := w.src, data := w.data, txn := w.txn }] })
          w.txn [] true false, w)
      else (s, w)) (s, w)

/-- SSTOP (R287). -/
def execSstop (x : Site) (midx : BitVec 10) (lane : BitVec 5) (code : BitVec 8) (s : State) : Out :=
  .next (issue x .nx s fun s =>
    let k := x.key
    checked s k .nx [
      (s.busyRes k .nxServe, .unitBusy),
      (!s.modelOfTile k midx.toNat, .address)] fun s =>
    let key := midx.toNat * 32 + lane.toNat
    let s := if (s.grantAt midx.toNat lane.toNat).isSome then
        let old := tget 0 s.sv.sstops key
        let c := code.toNat + 1
        s.modSv fun v => { v with sstops := tset 0 v.sstops key (if old = 0 then c else min old c) }
      else s
    occupy s k .nxServe 1 1)

/-! ### Slices at the serving engine (R283, R284, R309) -/

/-- The die of the serving engine, IOD1 (Table 1-3). -/
def servingDie : Nat := 9

/-- The emit header: MIDX, LANE, PIDX, VBASE, and whether a reserved bit is set. -/
structure EmitHeader where
  midx  : Nat
  lane  : Nat
  pidx  : Nat
  vbase : Nat
  bad   : Bool

def emitHeader (bs : List Byte) : EmitHeader :=
  let h := fieldAt bs 0 64
  { midx := bits h 9 0, lane := bits h 14 10, pidx := bits h 18 15, vbase := bits h 49 32
    bad := bits h 31 19 != 0 || h / 2 ^ 50 != 0 }

/-- The grammar state that a main row's mask uses: GSTATE stepped through the drafts before it (R293). -/
def State.rowState (s : State) (e : Entry) (g : Grant) (i : Nat) : Nat :=
  ((g.tokens.drop 1).take i).foldl ((s.masksOf e).gramStep e.maskh) e.gstate

/-- Tokens decided for a request in the step, if the decision is made. -/
def State.decided (s : State) (main lane : Nat) : Option Decision :=
  match s.grantAt main lane with
  | none => none
  | some g =>
    let d := s.gauntlet (s.entry g.slot) g false
    if d.waiting then none else some d

/-- Draft tokens 1 to n of a draft lane, as far as they are drawn. -/
def Grant.draftTokens (g : Grant) (n : Nat) : List Nat := (List.range n).filterMap (fun j => (g.row (j + 1)).drawn)

/-- The grammar state that draft row `j`'s mask uses: through the tokens decided and drafts 1 to j - 1 (R309). -/
def State.draftState (s : State) (main lane : Nat) (e : Entry) (g : Grant) (j : Nat) : Nat :=
  let toks := match s.decided main lane with | some d => d.tokens | none => []
  (toks ++ g.draftTokens (j - 1)).foldl ((s.masksOf e).gramStep e.maskh) e.gstate

/-- Offer the logits of a slice to a row: the row, and how many were not finite. -/
def State.offerAll (s : State) (e : Entry) (vocab gst vbase : Nat) (logits : List (BitVec 32)) (r : Row) : Row × Nat :=
  let m := s.masksOf e
  (logits.zipIdx).foldl (fun (a : Row × Nat) p =>
    let t := vbase + p.2
    if t < vocab then
      let r := { a.1 with count := a.1.count + 1 }
      if m.allowed e.maskh vocab gst t then
        let (r, ok) := r.offer e.k t p.1
        (r, if ok then a.2 else a.2 + 1)
      else (r, a.2)
    else a) (r, 0)

/-- FP32 words of a slice's logit lines (log 45). -/
def sliceLogits (bs : List Byte) : List (BitVec 32) :=
  (List.range ((bs.length - 64) / 4)).map (fun i => BitVec.ofNat 32 (fieldAt bs (64 + 4 * i) 4))

def emitBad (s : State) : State := s.modSv fun v => { v with emitBad := count64 v.emitBad }

/-- A slice for a row that is filled and samples. -/
def takeSlice (s : State) (h : EmitHeader) (sl : Slice) (g : Grant) : State :=
  let e := s.entry g.slot
  let vocab := (s.model h.midx).vocab
  let r := g.row h.pidx
  let r := { r with tiles := r.tiles ++ [(sl.tile, sl.line)] }
  if g.isDraft ∧ h.pidx = 0 then setGrant s h.midx h.lane { g with rows := tins 0 r g.rows }
  else if g.isDraft ∧ vocab ≤ r.count then emitBad s
  else
    let gst := if g.isDraft then s.draftState ((s.mainOf h.midx).getD 0) h.lane e g h.pidx else s.rowState e g h.pidx
    let (r, bad) := s.offerAll e vocab gst h.vbase (sliceLogits sl.data) r
    let s := s.modSv fun v => { v with nonfinite := count64 v.nonfinite bad }
    setGrant s h.midx h.lane { g with rows := tins h.pidx r g.rows }

/-- SEMIT_SLICE: the serving engine receives slice `i` and acknowledges it (R283). -/
def execSemitSlice (i : Nat) (s : State) : Out :=
  .next (match s.sv.slices[i]? with
    | none => s
    | some sl =>
      if !s.pathUp (sl.tile / 256) servingDie then s else
      let s := s.modSv fun v => { v with slices := dropNth v.slices i }
      let h := emitHeader sl.data
      let s :=
        if h.bad then emitBad s
        else match s.grantAt h.midx h.lane with
          | none => s
          | some g => if g.sample ∧ h.pidx ≤ g.d then takeSlice s h sl g else s
      match s.txn? sl.txn with
      | some t => s.setTxn { t with beats := t.beats.map (fun b => { b with st := .back 0 }) }
      | none => s)

/-! ### Feeds (R308, R309) -/

/-- The 16 B of a feed (Table 10-3). -/
def feedBytes (t0 t1 pos n pidx : Nat) : List Byte :=
  leBytes 4 t0 ++ leBytes 4 t1 ++ leBytes 4 pos ++ leBytes 1 n ++ leBytes 1 pidx ++ leBytes 2 0

/-- Write a feed into the emit header of every slice of the emission, then count it once at each tile. -/
def writeFeed (s : State) (r : Row) (bs : List Byte) : State :=
  let s := r.tiles.eraseDups.foldl (fun s t => arriveAt s t.1 (t.2 * 64 + 8) bs false false s.id.mid) s
  (r.tiles.map (·.1)).eraseDups.foldl (fun s k => bumpAc s k 31) s

/-- A feed of the row can reach every tile that sent a slice of it. -/
def State.feedPath (s : State) (r : Row) : Bool := r.tiles.all (fun t => s.pathUp servingDie (t.1 / 256))

/-- Record what a row's feed gave. -/
def feedDone (s : State) (midx lane : Nat) (g : Grant) (pidx : Nat) (drawn : Option Nat) : State :=
  let r := { g.row pidx with fed := true, drawn := drawn }
  setGrant s midx lane { g with rows := tins pidx r g.rows }

/-- The answer to the base request (Table 10-4). -/
def feedBase (s : State) (midx lane : Nat) (g : Grant) (e : Entry) (d : Decision) : State :=
  let r := g.row 0
  match d.tokens.getLast? with
  | some x =>
    if d.ends.isSome ∨ s.turnEnds e d.tokens then
      feedDone (writeFeed s r (feedBytes 0 0 0 0 0)) midx lane g 0 none
    else
      let pb := e.npos + d.tokens.length - 1
      let bs := if e.lv then feedBytes x 0 pb 1 0 else feedBytes e.last x (e.npos - 1) 2 0
      feedDone (writeFeed s r bs) midx lane g 0 (some x)
  | none => feedDone (writeFeed s r (feedBytes 0 0 0 0 0)) midx lane g 0 none

/-- The answer to draft row `j` (Table 10-4). -/
def feedDraft (s : State) (main midx lane : Nat) (g : Grant) (e : Entry) (d : Decision) (j : Nat) : State :=
  let r := g.row j
  let pos := e.npos + d.tokens.length - 1 + j
  let vocab := (s.model midx).vocab
  let gst := s.draftState main lane e g j
  if s.limp e ≤ pos ∨ !(s.masksOf e).anyAllowed e.maskh vocab gst ∨ r.cands.isEmpty then
    feedDone (writeFeed s r (feedBytes 0 0 0 0 j)) midx lane g j none
  else
    let t := drawToken e r.cands pos
    feedDone (writeFeed s r (feedBytes t 0 pos 1 j)) midx lane g j (some t)

/-- GAUNTLET_FEED: Gauntlet answers emission PIDX of a draft lane once what it waits for is there (R308). A row whose input
token no feed gave draws nothing (log 127). -/
def execGauntletFeed (midx : BitVec 10) (lane : BitVec 5) (pidx : BitVec 4) (s : State) : Out :=
  .next (
    let m := midx.toNat
    let l := lane.toNat
    let j := pidx.toNat
    match s.mainOf m, s.grantAt m l with
    | some main, some g =>
      let r := g.row j
      if g.isDraft ∧ g.kind = 2 ∧ j ≤ g.d ∧ !r.fed ∧ !r.tiles.isEmpty ∧ s.feedPath r then
        let e := s.entry g.slot
        match s.decided main l with
        | none => s
        | some d =>
          if j = 0 then feedBase s m l g e d
          else if (s.model m).vocab ≤ r.count ∧ (List.range j).all (fun i => (g.row i).fed) then
            if (List.range j).all (fun i => (g.row i).drawn.isSome) then feedDraft s main m l g e d j
            else feedDone (writeFeed s r (feedBytes 0 0 0 0 j)) m l g j none
          else s
      else s
    | _, _ => s)

/-! ### Prompts (R275) -/

/-- Positions of the next prefill grant (R278). -/
def State.nextChunk (s : State) (e : Entry) : Nat :=
  let m := s.model e.midx
  min (if m.planes = 0 then m.maxdepth + 1 else m.pchunk) (e.plen - e.pdone)

/-- The entry lacks the tokens of its next prefill grant. -/
def State.wantsPrompt (_ : State) (e : Entry) : Bool :=
  (e.state == .queued || e.state == .prefill || e.state == .cancelling) && refV e.pthead && !e.shadow && !e.xfer &&
    decide (e.pdone < e.plen) && e.staged.isEmpty && !e.badInput

/-- ASEQ `a` comes before `b`, modulo 2^32 (R119, R277). -/
def seqBefore (a b : Nat) : Bool := let d := (b + 2 ^ 32 - a) % 2 ^ 32; decide (1 ≤ d ∧ d ≤ 2 ^ 31 - 1)

/-- Tokens held in the staging store. -/
def State.stagedTokens (s : State) : Nat := (s.sv.entries.map (fun e => e.2.staged.length)).sum

/-- Fetch the tokens of the next prefill grant. -/
def fetchPrompt (s : State) (i : Nat) : State :=
  let e := s.entry i
  let n := s.nextChunk e
  if 16 * 2 ^ 20 < 4 * (s.stagedTokens + n) then s else
  let k := if e.ownFirst then n - 1 else n
  let own := if e.ownFirst then [e.last] else []
  let toks := own ++ (List.range k).map (fun j => leNat (s.hostBytes (e.prompt + 4 * j) 4))
  let vocab := (s.model e.midx).vocab
  if toks.any (fun t => decide (vocab ≤ t) || decide (2 ^ 18 ≤ t)) then
    s.modEntry i fun e => { e with badInput := true, retry := false }
  else s.modEntry i fun e => { e with staged := toks, retry := false }

/-- PROMPT_FETCH: the fetch for a slot, in ASEQ order among those that no failure holds up (R275). -/
def execPromptFetch (slot : Fin 65536) (s : State) : Out :=
  .next (
    let e := s.entry slot.val
    let earlier := s.sv.entries.any (fun o => s.wantsPrompt o.2 && !o.2.retry && seqBefore o.2.aseq e.aseq)
    if s.wantsPrompt e ∧ !e.retry ∧ !earlier then fetchPrompt s slot.val else s)

/-- PROMPT_FETCH_RETRY: a fetch that failed is tried again (R472). -/
def execPromptFetchRetry (slot : Fin 65536) (s : State) : Out :=
  .next (
    let e := s.entry slot.val
    if s.wantsPrompt e ∧ e.retry then fetchPrompt s slot.val else s)

/-! ### Park transfers (R298-R300) -/

/-- A transfer that outlived its request ends: its pins or frames are released (R290). -/
def endOrphan (s : State) (o : Orphan) : State :=
  let s := s.modSv fun v => { v with orphans := v.orphans.erase o }
  match o.xfer with
  | .writing image pins => pins.foldl hpinDec (hostPut s o.addr image)
  | .reading root => releaseTable s o.geo root
  | _ => s

/-- PARK_WRITEOUT_DONE: the write-out of a slot's park image completes; its pins are released (R298). -/
def execParkWriteoutDone (slot : Fin 65536) (s : State) : Out :=
  .next (
    let e := s.entry slot.val
    match e.transfer with
    | .writing image pins =>
      let s := pins.foldl hpinDec (hostPut s e.parkAddr image)
      s.modEntry slot.val fun e => { e with transfer := .written [] }
    | _ =>
      match s.sv.orphans.find? (fun o => o.slot == slot.val && (match o.xfer with | .writing _ _ => true | _ => false)) with
      | some o => endOrphan s o
      | none => s)

/-- A read-in is abandoned: the entry stays PARKED (R300). -/
def abandonReadin (s : State) (i root cause : Nat) : State :=
  let e := s.entry i
  let s := releaseTable s (s.model e.midx).kvgeo root
  let s := s.modEntry i fun e => { e with transfer := .none, xfer := false }
  serveError s i cause (s.entry i).npos

/-- RESTORE_READIN_DONE: the read-in of a slot's park image completes, or its CRC fails (R300). -/
def execRestoreReadinDone (slot : Fin 65536) (s : State) : Out :=
  .next (
    let e := s.entry slot.val
    match e.transfer with
    | .reading root =>
      let m := s.model e.midx
      let image := s.hostBytes e.parkAddr (parkSize m e.cls e.w)
      if fieldAt image 0x10 4 = (crc32 (image.drop 0x40)).toNat then
        let s := unpackImage s m e.cls e.w root image
        s.modEntry slot.val fun e => { e with transfer := .read root }
      else abandonReadin s slot.val root 2
    | _ =>
      match s.sv.orphans.find? (fun o => o.slot == slot.val && (match o.xfer with | .reading _ => true | _ => false)) with
      | some o => endOrphan s o
      | none => s)

/-- PARK_EXPIRY_CHECK: the check made every 100 ms while no boundary occurs (R299). -/
def execParkExpiryCheck (s : State) : Out :=
  .next ((s.slotsWhere (fun e => e.state == .parked)).foldl expireOne s)

end Sys2Proof.Machine
end

