-- ==== Sys2Proof/Machine/Vector.lean ====
section
/-! DEFINITION. The vector slot (R198-R236): issue, and the run of a VRUN cyc by cyc, with its reads, its elements at FN
and its writes each in the cyc of R230 and R231. -/

namespace Sys2Proof.Machine

/-- VNOP (R233). -/
def execVnop (_x : Site) (s : State) : Out := .next s

/-- Bytes of a chain configuration. -/
def Tile.cfgBytes (t : Tile) (i off n : Nat) : List Byte := (List.range n).map (fun b => tget 0 t.vxcfg (128 * i + off + b))

/-- Store bytes into a chain configuration. -/
def Tile.setCfg (t : Tile) (i off : Nat) (bs : List Byte) : Tile :=
  { t with vxcfg := (bs.zipIdx).foldl (fun c p => tset 0 c (128 * i + off + p.2) p.1) t.vxcfg }

/-! ### VCFG and VLUT -/

/-- VCFG (R234). -/
def execVcfg (x : Site) (cfg : BitVec 4) (src : BitVec 14) (s : State) : Out :=
  .next (issue x .vx s fun s =>
    let k := x.key
    checked s k .vx [(s.busyRes k .vxCfg, .unitBusy)] fun s =>
    occupy (addJob s k .vx 3 (.cfg { cfg := cfg.toNat, lines := lineOffs src.toNat 2 })) k .vxCfg 2 3)

/-- The reads of VCFG: a line in each of its two cyc. -/
def CfgJob.read (s : State) (k : Nat) (j : Job) (w : CfgJob) : State × CfgJob :=
  match w.lines with
  | [] => (s, w)
  | o :: rest =>
    match readAcc s k j.bundle j.slot [(o, 64)] with
    | (s, true) => (s, { w with lines := rest, bytes := w.bytes ++ s.spBytes k o 64 })
    | (s, false) => (s, w)

/-- The configuration is replaced at the end of cyc 2: line SRC goes to bytes 0-63 and line SRC + 1 to bytes 64-127. R234 writes
{lo, hi}, in which R23 puts the first operand high and the names say the opposite (DESIGN CHOICE, log 129). -/
def CfgJob.write (s : State) (k : Nat) (j : Job) (w : CfgJob) (c : Nat) : State :=
  if c = j.t0 + 2 ∧ w.lines.isEmpty then s.modTile k fun t => t.setCfg w.cfg 0 w.bytes else s

/-- VLUT (R235). -/
def execVlut (x : Site) (seg0 : BitVec 4) (nseg : BitVec 5) (src : BitVec 14) (s : State) : Out :=
  .next (issue x .vx s fun s =>
    let k := x.key
    let n := nseg.toNat
    checkedWork s k .vx [(s.busyRes k .vxTab, .unitBusy)] (n != 0) [] fun s =>
    occupy (addJob s k .vx (n + 1) (.tab { cb := none, seg0 := seg0.toNat, nseg := n, lines := lineOffs src.toNat n }))
      k .vxTab n (n + 1))

/-! ### Vectors -/

/-- The 32 raw elements of a vector at its pieces. -/
def rawVec (s : State) (k fmt : Nat) (ps : List Nat) : List Nat :=
  let lo := (ps[0]?).getD 0
  match fmt with
  | 0 => (s.spBytes k lo 32).map BitVec.toNat
  | 1 => (List.range 32).map (fun l => s.spNat k (lo + 2 * l) 2)
  | _ =>
    let hi := (ps[1]?).getD lo
    (List.range 32).map (fun l => if l < 16 then s.spNat k (lo + 4 * l) 4 else s.spNat k (hi + 4 * (l - 16)) 4)

/-- Lane broadcast (R202). -/
def laneB (lb : Bool) (v : List Nat) : List Nat := if lb then v.map (fun _ => (v[0]?).getD 0) else v

/-- CVT of a raw element (R211). -/
def cvtRaw (fmt raw : Nat) : F32 :=
  match fmt with
  | 0 => Fp.ofInt (signedOf 8 raw)
  | 1 => Fp.ofBf16 (BitVec.ofNat 16 raw)
  | 2 => BitVec.ofNat 32 raw
  | _ => Fp.ofInt (signedOf 32 raw)

/-! ### Element arithmetic and reductions (R211-R218) -/

/-- DEQ, ADD and MUL of one element: the value that enters FN (R211-R213). -/
def VCfg.element (c : VCfg) (p : RowRec) (raw : Nat) (b w : F32) : F32 :=
  let x := match c.deq with
    | 1 => deqAcc (signedOf 32 raw) p.scale w
    | 2 => deq8 (signedOf 8 raw) p.zp p.scale
    | _ => cvtRaw c.a.fmt raw
  let x := match c.addop with | 1 => Fp.add x b | 2 => Fp.sub x b | _ => x
  let op (m : Nat) (y : F32) : F32 := match m with
    | 1 => Fp.mul y b | 2 => Fp.mul y w | 3 => Fp.mul y p.x0 | 4 => Fp.mul y x | _ => y
  op c.mul2 (op c.mul1 x)

def redId (red : Nat) : F32 := match red with | 1 => Fp.negZero | 2 => Fp.negInf | _ => Fp.posInf
def redOp (red : Nat) (a b : F32) : F32 := match red with | 1 => Fp.add a b | 2 => Fp.fmax a b | _ => Fp.fmin a b

/-- One level of the reduction tree: pairs combined. -/
def pairUp (f : F32 → F32 → F32) : List F32 → List F32
  | a :: b :: r => f a b :: pairUp f r
  | l => l

/-- tree(v) of R217, over 32 lanes. -/
def tree (f : F32 → F32 → F32) (v : List F32) : F32 :=
  ((List.range 5).foldl (fun l _ => pairUp f l) v).headD Fp.nan

/-- add_score (R195) over the first `n` elements. -/
def Partial.addScore (q : Partial) (sc : F32) (val : List F32) : Partial :=
  if Fp.isNan sc ∨ sc = Fp.negInf then q else
  let m2 := Fp.fmax q.m sc
  let a := Fp.exp (Fp.sub q.m m2)
  let b := Fp.exp (Fp.sub sc m2)
  { m := m2, l := Fp.add (Fp.mul q.l a) b
    acc := (val.zipIdx).foldl (fun t p =>
      tset 0 t p.2 (Fp.add (Fp.mul (tget 0 t p.2) a) (Fp.mul b p.1))) q.acc }

/-- merge (R196) over the first elements. -/
def Partial.merge (q : Partial) (m l : F32) (acc : List F32) : Partial :=
  let put (f : Nat → F32 → F32) : Tbl F32 := (acc.zipIdx).foldl (fun t p => tset 0 t p.2 (f p.2 p.1)) q.acc
  if q.m = Fp.negInf then { m := m, l := l, acc := put (fun _ v => v) }
  else if m = Fp.negInf then q
  else
    let mm := Fp.fmax q.m m
    let a1 := Fp.exp (Fp.sub q.m mm)
    let a2 := Fp.exp (Fp.sub m mm)
    { m := mm, l := Fp.add (Fp.mul q.l a1) (Fp.mul l a2)
      acc := put (fun i v => Fp.add (Fp.mul (tget 0 q.acc i) a1) (Fp.mul v a2)) }

/-- finish (R197): outputs of `n` elements and the log-sum-exp. -/
def Partial.finish (q : Partial) (n : Nat) : List F32 × F32 :=
  if q.m = Fp.negInf then (List.replicate n Fp.zero, Fp.negInf)
  else
    let r := Fp.recip q.l
    ((List.range n).map (fun i => Fp.mul (tget 0 q.acc i) r), Fp.add q.m (Fp.ln q.l))

/-! ### Quantisation (R182-R185, R220-R222) -/

/-- fmin and fmax over the unmasked finite elements, or none. -/
def rowRange (els : List (F32 × Bool)) : Option (F32 × F32) :=
  els.foldl (fun o e => if e.2 || !Fp.isFinite e.1 then o else
    match o with
    | none => some (Fp.flush e.1, Fp.flush e.1)
    | some (lo, hi) => some (Fp.fmin lo e.1, Fp.fmax hi e.1)) none

/-- A history record entry at `p`: VALID, POS, HI, LO (Table 6-5). -/
def histEntry (p : Nat) (lo hi : F32) : List Byte := leBytes 16 (lo.toNat + hi.toNat * 2 ^ 32 + p * 2 ^ 64 + 2 ^ 88)

/-- predict (R185). -/
def predict (rec_ : Nat → Nat) (p kq h : Nat) (cal : F32 × Int) : F32 × Int :=
  let o := (List.range kq).foldl (fun (o : Option (F32 × F32)) i =>
    if p + i < kq then o else
    let q := p + i - kq
    let e := rec_ (q % 16)
    if bit e 88 && bits e 87 64 == q then
      let lo := BitVec.ofNat 32 (bits e 31 0)
      let hi := BitVec.ofNat 32 (bits e 63 32)
      match o with
      | none => some (Fp.fmin Fp.posInf lo, Fp.fmax Fp.negInf hi)
      | some (a, b) => some (Fp.fmin a lo, Fp.fmax b hi)
    else o) none
  match o with | none => cal | some (lo, hi) => quantParams lo hi h

/-- The pair of EXACT and SYMMETRIC modes from the row itself (Table 6-4). -/
def rowPair (qnt qh : Nat) (els : List (F32 × Bool)) : F32 × Int :=
  let r := (rowRange els).getD (Fp.zero, Fp.zero)
  if qnt = 3 then quantParams r.1 r.2 qh
  else
    let a := Fp.fmax (Fp.abs r.1) (Fp.abs r.2)
    if Fp.isZero a then (Fp.one, 0) else
      let q := Fp.div a (Fp.ofInt 127)
      (if Fp.isZero q then Fp.minNormal else q, 0)

/-- QNT of one element: its bytes in D's format and whether it clipped. A masked element carries +0 (R210). -/
def quantElem (qnt : Nat) (pair : F32 × Int) (x : F32) (masked : Bool) : List Byte × Bool :=
  match qnt with
  | 0 => (leBytes 4 (if masked then 0 else x.toNat), false)
  | 5 => (leBytes 2 (if masked then 0 else (Fp.toBf16 x).toNat), false)
  | _ =>
    if masked then (leBytes 1 (unsignedOf 8 pair.2), false) else
    let (v, c) := qnt8 x pair.1 pair.2
    let v := if qnt = 4 ∧ v = -128 then -127 else v
    (leBytes 1 (unsignedOf 8 v), c)

/-! ### What a VRUN reads (R205, R207, R221, R230) -/

/-- A pop of the tile's FTQ in cyc `t`: the head entry if it is readable (R60, R61, R206). -/
def ftqPop (s : State) (k t : Nat) : Option (Tbl Int × State) :=
  match (s.tile k).ftq with
  | e :: rest => if e.readyAt ≤ t then
      some (e.vals, s.modTile k fun u => { u with ftq := rest, ftqGone := u.ftqGone + 1 }) else none
  | [] => none

/-- Raw elements of vector j: of A, of B, of W, and for ADDTO the old ones of D. -/
def RunJob.gather (w : RunJob) (s : State) (k j : Nat) : List (List Nat) :=
  let r := j / w.c.cols
  let latch (t : Tbl Int) : List Nat := (List.range 32).map (fun l => unsignedOf 32 (tget 0 t (32 * r + l)))
  let a := match w.c.asrc with
    | 0 => rawVec s k w.c.a.fmt (w.piecesA j)
    | 1 =>
      let eb := (w.c.a.base + w.aoff) % 16384
      let row := (eb / 2 % 32 + r) % 32
      (List.range 32).map (fun l => unsignedOf 32 (sat32 (tget 0 (s.tile k).mx.acc (1024 * (eb % 2) + 32 * row + l))).1)
    | _ => latch w.la
  let b := match w.c.bsrc with
    | 0 => []
    | 1 => rawVec s k w.c.b.fmt (w.piecesB j)
    | _ => latch (w.lb.getD [])
  [a, b, if w.c.usesW then rawVec s k w.c.w.fmt (w.piecesW j) else [],
    if w.c.wr = 2 then rawVec s k 2 (w.piecesD j) else []]

/-- The vector as it enters FN. -/
def RunJob.enter (w : RunJob) (p : RowRec) (j : Nat) (raw : List (List Nat)) : VRead :=
  let get (i : Nat) : List Nat := (raw[i]?).getD []
  let a := laneB w.c.a.lb (get 0)
  let b := if w.c.bsrc = 0 then List.replicate 32 Fp.zero
    else (laneB w.c.b.lb (get 1)).map (cvtRaw (if w.c.bsrc = 2 then 3 else w.c.b.fmt))
  let v := if w.c.usesW then (laneB w.c.w.lb (get 2)).map (cvtRaw w.c.w.fmt) else List.replicate 32 Fp.zero
  { j := j
    pre := (List.range 32).map fun l => w.c.element p ((a[l]?).getD 0) ((b[l]?).getD 0) ((v[l]?).getD 0)
    mask := (List.range 32).map fun l => p.masked w.c.maskm (32 * (j % w.c.cols) + l)
    old := (get 3).map (BitVec.ofNat 32)
    b0 := b.headD Fp.zero }

/-- The row record of a row in work. -/
def RunJob.recOf (w : RunJob) (r : Nat) : RowRec :=
  match w.row.find? (fun v => v.r == r) with | some v => v.rec_ | none => {}

/-- The pop of B, in the cyc after issue: what it takes is fixed at the end of the cyc before, and an empty queue faults
in its own cyc (R206). -/
def RunJob.popB (w : RunJob) (s : State) (k : Nat) (j : Job) (c : Nat) : State × RunJob :=
  if w.c.bsrc ≠ 2 then (s, w)
  else if c = j.t0 then
    match ftqPop s k (c + 1) with
    | some p => (p.2, { w with lb := some p.1 })
    | none => (s, w)
  else if c = j.t0 + 1 ∧ w.lb.isNone then (faultAt s k j.bundle j.slot .ftqEmpty, { w with reads := [] })
  else (s, w)

/-- The row record read in this cyc, if one is (R207); the flag says that the row goes on. -/
def RunJob.readRec (w : RunJob) (s : State) (k : Nat) (j : Job) (dt : Nat) : State × RunJob × Bool :=
  match w.recNow s.tp2 dt with
  | some r =>
    let a := w.c.p.rowAddr r
    if a % 32 ≠ 0 then (faultAt s k j.bundle j.slot .address, w, false)
    else match readAcc s k j.bundle j.slot [(a, 32)] with
      | (s, true) => (s, { w with row := w.row ++ [{ r := r, rec_ := .ofNat (s.spNat k a 32) }] }, true)
      | (s, false) => (s, w, false)
  | none =>
    match w.c.readNow s.tp2 w.rows dt with
    | some (i, 0) =>
      (s, if !w.c.pen && i % w.c.cols == 0 then { w with row := w.row ++ [{ r := i / w.c.cols, rec_ := {} }] } else w, true)
    | _ => (s, w, true)

/-- The vector, or with PACE2 the half of one, read in this cyc (R202, R230). -/
def RunJob.readVec (w : RunJob) (s : State) (k : Nat) (j : Job) (dt : Nat) : State × RunJob :=
  match w.c.readNow s.tp2 w.rows dt with
  | none => (s, w)
  | some (i, half) =>
    let p := readAcc s k j.bundle j.slot (w.vecReads i half)
    if w.vecBad i half then (faultAt p.1 k j.bundle j.slot .address, w)
    else if !p.2 then (p.1, w)
    else
      let raw := w.gather p.1 k i
      if w.c.pace2 ∧ half = 0 then (p.1, { w with half := (raw.take 3).map (List.take 16) })
      else
        let raw := if w.c.pace2 then (w.half.zip raw).map (fun p => p.1 ++ p.2.drop 16) ++ raw.drop 3 else raw
        (p.1, { w with half := [], reads := w.reads ++ [w.enter (w.recOf (i / w.c.cols)) i raw] })

/-- The history lines read in this cyc (R221). -/
def RunJob.readHist (w : RunJob) (s : State) (k : Nat) (j : Job) (dt : Nat) : State × RunJob :=
  (w.histNow s.tp2 dt).foldl (fun (a : State × RunJob) h =>
    match readAcc a.1 k j.bundle j.slot [(h.2.2, 64)] with
    | (s, false) => (s, a.2)
    | (s, true) =>
      let put (v : VRow) : VRow := if v.r = h.1 then { v with hist := tins h.2.1 (s.spBytes k h.2.2 64) v.hist } else v
      (s, { a.2 with row := a.2.row.map put })) (s, w)

/-! ### FN, reductions and row results (R214-R222) -/

/-- A vector past FN. A masked element becomes +0 unless MKEEP holds (R210); RED takes the identity for it in any case. -/
def RunJob.pastFn (w : RunJob) (lut : Tbl (BitVec 32)) (v : VRead) : VEls :=
  { j := v.j, mask := v.mask, old := v.old, b0 := v.b0
    els := (v.pre.zip v.mask).map fun p =>
      if p.2 && !w.mkeep && !w.c.isPart then Fp.zero else Fp.fn lut w.c.lutS w.c.lutB w.c.fnc p.1 }

/-- Vectors of a row past FN, in order. -/
def RunJob.rowEls (w : RunJob) (r : Nat) : List VEls := w.els.filter (fun e => e.j / w.c.cols == r)

/-- Elements of a row with their masks. -/
def RunJob.flat (w : RunJob) (r : Nat) : List (F32 × Bool) := (w.rowEls r).flatMap (fun e => e.els.zip e.mask)

/-- SUM, MAX or MIN of a row, with RPOST (R217). -/
def RunJob.redOf (w : RunJob) (r : Nat) : F32 :=
  let ident (p : F32 × Bool) : F32 := if p.2 then redId w.c.red else p.1
  let v := (w.rowEls r).foldl (fun a e => redOp w.c.red a (tree (redOp w.c.red) ((e.els.zip e.mask).map ident)))
    (redId w.c.red)
  match w.c.rpost with
  | 1 => Fp.rsqrt (Fp.add (Fp.mul v w.c.rsc) w.c.reps)
  | 2 => Fp.recip (Fp.add (Fp.mul v w.c.rsc) w.c.reps)
  | _ => v

/-- S after a row of ONLINE or MERGE (R218). -/
def RunJob.partAfter (w : RunJob) (q : Partial) (r : Nat) : Partial :=
  let q : Partial := if r = 0 ∧ !w.c.rcont then {} else q
  let p := w.recOf r
  let els := (w.flat r).map (·.1)
  if p.masked w.c.maskm 0 then q
  else if w.c.red = 4 then q.addScore (((w.rowEls r).headD ⟨0, [], [], [], 0⟩).b0) els
  else q.merge p.x0 p.x1 els

/-- The output of ONLINE or MERGE once the last row is in (R218). -/
def RunJob.latch (w : RunJob) (q : Partial) : RunJob :=
  let n := 32 * w.c.cols
  if w.c.rfin then
    let (o, l) := q.finish n
    { w with out := o, outX := (l, Fp.zero) }
  else { w with out := (List.range n).map (fun i => tget 0 q.acc i), outX := (q.m, q.l) }

/-- A row whose last vector has left FN. -/
def RunJob.rowDone (w : RunJob) (s : State) (k r : Nat) : State × RunJob :=
  if w.c.isPart then
    let q := w.partAfter (s.tile k).part r
    let s := s.modTile k fun t => { t with part := q }
    let w := if r + 1 = w.rows then w.latch q else w
    (s, { w with els := w.els.filter (fun e => e.j / w.c.cols != r), row := w.row.filter (fun v => v.r != r) })
  else
    let p := w.recOf r
    let w := if 1 ≤ w.c.red ∧ w.c.red ≤ 3 then { w with reds := w.reds ++ [(r, w.redOf r)] } else w
    let w := if (w.c.qnt = 2 ∨ w.c.qnt = 3) ∧ p.hline ≠ 0x3FFF then
        let (lo, hi) := (rowRange (w.flat r)).getD (Fp.zero, Fp.zero)
        { w with fwd := w.fwd ++ [(r, p.hline, p.pos % 16, leNat (histEntry p.pos lo hi))] }
      else w
    (s, w)

/-- Vectors that reach FN in this cyc, with the table as it stands in it (R216). -/
def RunJob.fnStage (w : RunJob) (s : State) (k dt : Nat) : State × RunJob :=
  let due (v : VRead) : Bool := w.c.readEnd s.tp2 v.j + w.c.fnAt == dt
  (w.reads.filter due).foldl (fun (a : State × RunJob) v =>
    let w : RunJob := { a.2 with els := a.2.els ++ [a.2.pastFn (a.1.tile k).lut v] }
    if v.j % w.c.cols = w.c.cols - 1 then w.rowDone a.1 k (v.j / w.c.cols) else (a.1, w))
    (s, { w with reads := w.reads.filter (fun v => !due v) })

/-- What a VRUN does in cyc `c` before the writes at its end. -/
def RunJob.read (s : State) (k : Nat) (j : Job) (w : RunJob) (c : Nat) : State × RunJob :=
  let dt := c - j.t0
  let (s, w) := w.popB s k j c
  let (s, w) := w.fnStage s k dt
  if w.c.bsrc = 2 ∧ c ≠ j.t0 ∧ w.lb.isNone then (s, w) else
  let (s, w, go) := w.readRec s k j dt
  let p := w.readVec s k j dt
  (if go then p.2 else w).readHist p.1 k j dt

/-- A cyc in which a VRUN loses a bank: what it has read goes on, its other accesses are made and their faults raised
(R204, R236). -/
def RunJob.lostRead (s : State) (k : Nat) (j : Job) (w : RunJob) (c : Nat) (ok : List (Nat × Nat)) : State × RunJob :=
  let dt := c - j.t0
  let (s, w) := w.popB s k j c
  let (s, w) := w.fnStage s k dt
  let s := (readAcc s k j.bundle j.slot ok).1
  let vec := match w.c.readNow s.tp2 w.rows dt with | some p => w.vecBad p.1 p.2 | none => false
  let rec_ := match w.recNow s.tp2 dt with | some r => w.c.p.rowAddr r % 32 != 0 | none => false
  (if vec || rec_ then faultAt s k j.bundle j.slot .address else s, w)

/-- The history records that the rows of a VRUN name, as they stand now (R185). -/
def historyNow (s : State) (k : Nat) (c : VCfg) (rows : Nat) : Tbl (List Byte) :=
  if c.qnt ≠ 2 ∨ !c.pen then [] else
  (List.range rows).foldl (fun t r =>
    let h := (RowRec.ofNat (s.spNat k (c.p.rowAddr r) 32)).hline
    if h = 0x3FFF ∨ t.any (fun e => e.1 == h) then t else tins h (s.spBytes k (h * 64) 256) t) []

/-- History of a row for PREDICTED: the entries of this VRUN's earlier rows, else the record as it stood at issue; one that
no row named then, as it is read (R185, R221) (log 110). -/
def RunJob.history (w : RunJob) (s : State) (k r e : Nat) : Nat :=
  let hl := (w.recOf r).hline
  match w.fwd.reverse.find? (fun h => decide (h.1 < r) && h.2.1 == hl && h.2.2.1 == e) with
  | some h => h.2.2.2
  | none =>
    match tget [] w.hist0 hl with
    | b :: bs => fieldAt (b :: bs) (16 * e) 16
    | [] =>
    match (w.row.find? (fun v => v.r == r)).map (fun v => tget [] v.hist (e / 4)) with
    | some (b :: bs) => fieldAt (b :: bs) (16 * (e % 4)) 16
    | _ => s.spNat k ((hl * 64 + 16 * e) % 2 ^ 20) 16

/-- The pair (s, z) of a row (Table 7-5). -/
def RunJob.pairOf (w : RunJob) (s : State) (k r : Nat) : F32 × Int :=
  let p := w.recOf r
  let cal := (w.c.fs, w.c.fz)
  match w.c.qnt with
  | 2 => if p.hline ≠ 0x3FFF then predict (w.history s k r) p.pos (if w.c.qk = 0 then 4 else w.c.qk) w.c.qh cal else cal
  | 3 => rowPair 3 w.c.qh (w.flat r)
  | 4 => rowPair 4 w.c.qh (w.flat r)
  | _ => cal

/-! ### What a VRUN writes (R210, R220-R225) -/

/-- Scratchpad offset of lane l of a D vector (R202). -/
def laneOff (fmt : Nat) (ps : List Nat) (l : Nat) : Nat :=
  let lo := (ps[0]?).getD 0
  match fmt with
  | 0 => lo + l
  | 1 => lo + 2 * l
  | _ => if l < 16 then lo + 4 * l else (ps[1]?).getD 0 + 4 * (l - 16)

/-- Join writes that go on from one another within a line. -/
def joinRuns : List (Nat × List Byte) → List (Nat × List Byte)
  | [] => []
  | (o, a) :: l => match joinRuns l with
    | (p, b) :: r => if o + a.length = p ∧ o / 64 = p / 64 then (o, a ++ b) :: r else (o, a) :: (p, b) :: r
    | [] => [(o, a)]

/-- WR of one vector: its writes of own scratchpad, or its scatter-adds. -/
def RunJob.wrVec (w : RunJob) (j : Nat) (pair : F32 × Int) (els : List (F32 × Bool)) (old : List F32) :
    List (Nat × List Byte) × List Beat :=
  let ps := w.piecesD j
  let lanes := els.zipIdx
  let off (l : Nat) : Nat := laneOff w.c.d.fmt ps l
  match w.c.wr with
  | 1 => (joinRuns (lanes.filterMap fun e => if e.1.2 && w.mkeep then none
      else some (off e.2, (quantElem w.c.qnt pair e.1.1 e.1.2).1)), [])
  | 2 => (joinRuns (lanes.filterMap fun e => if e.1.2 then none
      else some (off e.2, leBytes 4 (Fp.add ((old[e.2]?).getD 0) e.1.1).toNat)), [])
  | 3 => ([], (lanes.filter (fun e => !e.1.2)).map fun e =>
      { op := .add, ga := w.c.target * 2 ^ 32 + off e.2 % 2 ^ 20, loc := 0, len := 4, data := leBytes 4 e.1.1.toNat
        poison := false, st := .out : Beat })
  | _ => ([], [])

/-- Write one vector, unless a piece of it runs past its line (R202). -/
def RunJob.putVec (w : RunJob) (s : State) (k : Nat) (j : Job) (lost : List Nat) (i : Nat) (pair : F32 × Int)
    (els : List (F32 × Bool)) (old : List F32) : State :=
  if w.c.wr = 0 then s
  else if w.c.d.bad (w.piecesD i) then faultAt s k j.bundle j.slot .address
  else
    let (ws, adds) := w.wrVec i pair els old
    let s := ws.foldl (fun s p => jobWrite s k j lost p.1 p.2) s
    match w.txn with
    | some id => extendTxn s id (adds.map fun b => { b with at_ := (s.die (k / 256)).cyc }) false false
    | none => s

/-- A vector whose WR cyc this is. The first vector of a row fixes the row's pair. -/
def RunJob.dWrite (w : RunJob) (s : State) (k : Nat) (j : Job) (lost : List Nat) (e : VEls) : State × RunJob :=
  let r := e.j / w.c.cols
  let known := (w.row.find? (fun v => v.r == r)).bind VRow.pair
  let pair := match known with | some p => p | none => w.pairOf s k r
  let w := { w with row := w.row.map (fun v => if v.r = r then { v with pair := some pair } else v) }
  let whole := w.c.qnt != 3 && w.c.qnt != 4 || (w.rowEls r).length == w.c.cols
  (if whole then w.putVec s k j lost e.j pair (e.els.zip e.mask) e.old else s, w)

/-- Outputs of a row that become readable with its last vector: O bytes, the history entry and the counts. -/
def RunJob.rowOut (w : RunJob) (s : State) (k : Nat) (j : Job) (lost : List Nat) (v : VRow) : State :=
  let pair := v.pair.getD (w.c.fs, w.c.fz)
  let oa := w.c.o.rowAddr v.r
  let zp := leBytes 1 (unsignedOf 8 pair.2)
  let s :=
    if !w.c.owr then s
    else if oa % 32 ≠ 0 then faultAt s k j.bundle j.slot .address
    else
      let s := jobWrite s k j lost oa (leBytes 4 pair.1.toNat ++ zp)
      if w.c.o.fmt = 1 then jobWrite s k j lost (w.c.splitOff v.r) zp else s
  let s := match w.fwd.find? (fun h => h.1 == v.r) with
    | some h => jobWrite s k j lost (histOff v.rec_) (leBytes 16 h.2.2.2)
    | none => s
  let live := (w.flat v.r).filter (fun e => !e.2)
  countQ s k w.c.qpt live.length (live.countP (fun e => (quantElem w.c.qnt pair e.1 false).2))

/-- O of a SUM, MAX or MIN row. -/
def RunJob.redOut (w : RunJob) (s : State) (k : Nat) (j : Job) (lost : List Nat) (p : Nat × BitVec 32) : State :=
  let oa := w.c.o.rowAddr p.1
  if oa % 32 ≠ 0 then faultAt s k j.bundle j.slot .address else jobWrite s k j lost (oa + 8) (leBytes 4 p.2.toNat)

/-- D row 0 and O of ONLINE or MERGE. -/
def RunJob.partOut (w : RunJob) (s : State) (k : Nat) (j : Job) (lost : List Nat) (dt : Nat) : State :=
  let s := (w.partNow s.tp2 dt).foldl (fun s c =>
    w.putVec s k j lost c (Fp.one, 0) (((w.out.drop (32 * c)).take 32).map (fun x => (x, false))) []) s
  if w.partO s.tp2 dt then
    let oa := w.c.o.rowAddr 0
    if oa % 32 ≠ 0 then faultAt s k j.bundle j.slot .address
    else jobWrite s k j lost (oa + 8) (leBytes 4 w.outX.1.toNat ++ leBytes 4 w.outX.2.toNat)
  else s

/-- Rows whose last vector has been written are done with. -/
def RunJob.trim (w : RunJob) (tp2 : Bool) (dt : Nat) : RunJob :=
  if w.c.isPart then w else
  let past (r : Nat) : Bool := decide (w.c.readEnd tp2 (r * w.c.cols + w.c.cols - 1) + w.c.lc tp2 ≤ dt + 1)
  { w with els := w.els.filter (fun e => !past (e.j / w.c.cols)), row := w.row.filter (fun v => !past v.r) }

/-- The adds of an ATOMADD are all issued. Where every element was masked and the target is a peer, an add of no lane
carries GCNT to it (R225, R366). -/
def RunJob.closeAdds (w : RunJob) (s : State) (id : Nat) : State :=
  let ga := w.c.target * 2 ^ 32
  let own := gaSlot ga == s.id.slot
  let none_ := match s.txn? id with | some t => t.beats.isEmpty | none => false
  let bare : Beat := { op := .add, ga := ga, loc := 0, len := 0, data := [], poison := false, st := .out }
  extendTxn s id (if none_ && !own && w.c.gcnt != 0 then [bare] else []) true own

/-- What a VRUN does at the end of cyc `c`. -/
def RunJob.write (s : State) (k : Nat) (j : Job) (w : RunJob) (c : Nat) (lost : List Nat) : State × RunJob :=
  let dt := c - j.t0
  let (s, w) := (w.writeNow s.tp2 dt).foldl (fun (a : State × RunJob) e => a.2.dWrite a.1 k j lost e) (s, w)
  let s := (w.rowsNow s.tp2 dt).foldl (fun s v => w.rowOut s k j lost v) s
  let s := (w.redsNow s.tp2 dt).foldl (fun s p => w.redOut s k j lost p) s
  let s := w.partOut s k j lost dt
  let s := match w.txn with
    | some id => if dt + 1 = w.c.readEnd s.tp2 (w.rows * w.c.cols - 1) + w.c.lc s.tp2 then w.closeAdds s id else s
    | none => s
  (s, w.trim s.tp2 dt)

/-! ### VRUN (R227, R228, R236, R237) -/

/-- Occupancy and latency of a VRUN (Table 7-14). -/
def VCfg.timing (c : VCfg) (tp2 : Bool) (rows : Nat) : Nat × Nat :=
  let n := rows * c.cols
  if c.isPart then
    let o := rows * c.q tp2 + c.cols
    (o, o + c.lm tp2 + 1 + (if c.rfin then 6 else 0))
  else
    let n := if c.pace2 then 2 * n else n
    if c.atom then (n, n + c.lc tp2)
    else (n, n - 1 + max (c.lc tp2) (if 1 ≤ c.red ∧ c.red ≤ 3 then c.lo tp2 else 0))

/-- BASE := (BASE + INC) mod 16,384 in every descriptor (R227). -/
def Tile.stepBases (t : Tile) (cfg : Nat) : Tile :=
  (List.range 6).foldl (fun t i =>
    let d := fieldAt (t.cfgBytes cfg (32 + 16 * i) 16) 0 4
    let b := (bits d 13 0 + bits d 27 14) % 16384
    t.setCfg cfg (32 + 16 * i) (leBytes 2 (d % 65536 / 16384 * 16384 + b))) t

/-- VRUN (R236). -/
def execVrun (x : Site) (cfg : BitVec 4) (rows : BitVec 11) (mkeep : BitVec 1) (aoff boff doff : BitVec 14)
    (s : State) : Out :=
  .next (issue x .vx s fun s =>
    let k := x.key
    let t := s.tile k
    let c := VCfg.ofBytes (t.cfgBytes cfg.toNat 0 128)
    let side := (s.gang k).1
    let isRed := side != 1 && s.reducer k == k
    let now := (s.die x.die.val).cyc
    let reg (i : Nat) : Region := tget {} t.regions i
    let nv := rows.toNat * c.cols
    let na := nv * vecBytes c.a.fmt
    let nb := nv * vecBytes c.b.fmt
    let nd := nv * vecBytes c.d.fmt
    let wrD := c.wr != 0 && c.d.ren
    let rdA := c.asrc == 0 && c.a.ren
    let rdB := c.bsrc == 1 && c.b.ren
    let ga := c.target * 2 ^ 32
    let own := gaSlot ga == s.id.slot
    checkedWork s k .vx [(s.busyRes k .vxChain, .unitBusy)] (rows != 0) [
      (c.refused rows.toNat, .vxCfg),
      ((c.asrc == 1 && side != 1) || (c.asrc == 2 && !isRed) || (c.bsrc == 2 && !isRed), .gang),
      (c.atom && s.ce.strict, .strict),
      (c.asrc == 2 && (ftqPop s k now).isNone, .ftqEmpty),
      ((rdA && !(reg c.a.region).en) || (rdB && !(reg c.b.region).en) || (wrD && !(reg c.d.region).en), .address),
      (c.atom && own && !s.bound (gaDie ga) (gaBlock ga), .noTile),
      (c.atom && !own && s.noPeer (gaSlot ga), .noPeer),
      (wrD && t.pushFails c.d.region nd, .regionFull),
      ((rdA && t.popFails c.a.region na) ||
        (rdB && decide (t.avail c.b.region < nb + (if rdA && c.a.region == c.b.region then na else 0))), .regionEmpty)]
      fun s =>
    let ra := reg c.a.region
    let rb0 := reg c.b.region
    let rb := if rdA && c.a.region == c.b.region then { rb0 with head := (rb0.head + na) % rb0.size } else rb0
    let s := s.modTile k fun t =>
      let t := if rdA then t.pop c.a.region na else t
      let t := if rdB then t.pop c.b.region nb else t
      let t := if wrD then t.push c.d.region nd else t
      t.stepBases cfg.toNat
    let (la, s) := if c.asrc = 2 then (match ftqPop s k now with | some p => p | none => ([], s)) else ([], s)
    let (occ, lat) := c.timing s.tp2 rows.toNat
    let w : RunJob := { c := c, mkeep := mkeep == 1, aoff := aoff.toNat, boff := boff.toNat, doff := doff.toNat
                        rows := rows.toNat, ra := ra, rb := rb, rd := reg c.d.region, la := la
                        hist0 := historyNow s k c rows.toNat
                        txn := if c.atom then some s.net.nextId else none }
    let s := occupy (addJob s k .vx lat (.run w)) k .vxChain occ lat
    if c.atom then openTxn s x (some (gaDie ga * 256 + gaBlock ga, c.gcnt)) 0 else s)

end Sys2Proof.Machine
end

