-- ==== Sys2Proof/Machine/Tick.lean ====
section
/-! DEFINITION. The passing of one cyc (R101, R105, R107, R110): the work under way reads, then writes, each tile's sequencer
goes on, faults are reported, and a fault stops the die. -/

namespace Sys2Proof.Machine

/-! ### Jobs -/

/-- What a job does in cyc `c` before the writes at its end. -/
def Job.read (s : State) (k c : Nat) (j : Job) : State × Work :=
  match j.work with
  | .load w => let p := LoadJob.read s k j w; (p.1, .load p.2)
  | .pass w => let p := PassJob.read s k j w c; (p.1, .pass p.2)
  | .drain w => let p := DrainJob.read s k j w; (p.1, .drain p.2)
  | .tab w => let p := TabJob.read s k j w; (p.1, .tab p.2)
  | .cfg w => let p := CfgJob.read s k j w; (p.1, .cfg p.2)
  | .run w => let p := RunJob.read s k j w c; (p.1, .run p.2)
  | .move w => let p := MoveJob.read s k j w c; (p.1, .move p.2)
  | .trn w => let p := TrnJob.read s k j w c; (p.1, .trn p.2)
  | .gath w => let p := GathJob.read s k j w c; (p.1, .gath p.2)
  | .send w => let p := SendJob.read s k j w c; (p.1, .send p.2)
  | .emit w => let p := EmitJob.read s k j w c; (p.1, .emit p.2)
  | .lanes w => (s, .lanes w)
  | .swap => (s, .swap)
  | .clear b => (s, .clear b)
  | .region r o b n => (s, .region r o b n)
  | .post ch p => (s, .post ch p)

/-- What a job that loses the banks of `lost` does in cyc `c`: its other accesses are made (R68). -/
def Job.lostRead (s : State) (k c : Nat) (lost : List Nat) (j : Job) : State × Work :=
  let ok := (j.reads s.tp2 c).filter (fun r => !lost.contains (r.1 % 2 ^ 20 / 65536))
  match j.work with
  | .run w => let p := RunJob.lostRead s k j w c ok; (p.1, .run p.2)
  | w => ((readAcc s k j.bundle j.slot ok).1, w)

/-- What a job does at the end of cyc `c`; `lost` are the banks in which its writes are not performed. -/
def Job.write (s : State) (k c : Nat) (lost : List Nat) (j : Job) : State × Work :=
  match j.work with
  | .load w => let p := LoadJob.write s k w; (p.1, .load p.2)
  | .pass w => let p := PassJob.write s k w c; (p.1, .pass p.2)
  | .drain w => (DrainJob.write s k j w c lost, .drain w)
  | .tab w => let p := TabJob.write s k w; (p.1, .tab p.2)
  | .cfg w => (CfgJob.write s k j w c, .cfg w)
  | .run w => let p := RunJob.write s k j w c lost; (p.1, .run p.2)
  | .move w => let p := MoveJob.write s k j w c lost; (p.1, .move p.2)
  | .trn w => let p := TrnJob.write s k j w c lost; (p.1, .trn p.2)
  | .gath w => (GathJob.write s k j w c lost, .gath w)
  | .send w => (SendJob.write s k j w c, .send w)
  | .emit w => (s, .emit w)
  | .lanes w => let p := LanesJob.write s k j w c lost; (p.1, .lanes p.2)
  | .swap => (swapPlanes s k, .swap)
  | .clear b => (clearBanks s k b, .clear b)
  | .region r o b n => (setRegion s k r o b n, .region r o b n)
  | .post ch p => (postChannel s k ch p, .post ch p)

/-- The transaction of a job whose instruction stops: beats already issued complete. -/
def Job.cut (s : State) (j : Job) : State :=
  match j.work with
  | .move w => (match w.txn with | some id => cutTxn s id | none => s)
  | .run w => (match w.txn with | some id => cutTxn s id | none => s)
  | .emit w => (match s.txn? w.txn with
    | some t => if t.more then cutTxn (s.setTxn { t with beats := [] }) w.txn else s
    | none => s)
  | _ => s

/-- A job whose instruction has faulted: it reads no more, and what it has read or issued completes, where its rule says
so (R77, R159, R236) (log 108). -/
def Job.drain (s : State) (k c : Nat) (j : Job) : State :=
  let later := (List.range (j.fin - (c + 1))).map (fun i => c + 1 + i)
  let s := match j.work with
    | .pass w => (w.due.foldl (fun (a : State × PassJob) e => PassJob.write a.1 k a.2 e.1) (s, w)).1
    | .run w => (later.foldl (fun (a : State × RunJob) c =>
        let p := a.2.fnStage a.1 k (c - j.t0)
        RunJob.write p.1 k j p.2 c []) (s, w)).1
    | .move w => w.air.foldl (fun s a => w.land s k j [] a) s
    | .trn w => (later.foldl (fun (a : State × TrnJob) c => TrnJob.write a.1 k j a.2 c []) (s, w)).1
    | _ => s
  j.cut s

/-- A job's instruction is among those that faulted. -/
def Job.failed (fs : List TFault) (j : Job) : Bool := fs.any (fun f => f.slot == j.slot && f.bundle == j.bundle)

/-- Every job of a tile in turn, each with what `marks` says of it. -/
def runJobs (f : State → List Nat → Job → State × Work) (marks : List (List Nat)) (s : State) (k : Nat) : State :=
  let go := ((s.tile k).jobs.zip marks).foldl (fun (a : State × List Job) p =>
    let r := f a.1 p.2 p.1
    (r.1, a.2 ++ [{ p.1 with work := r.2 }])) (s, [])
  go.1.modTile k fun t => { t with jobs := go.2 }

/-! ### One cyc of a tile -/

/-- What the banks of a tile decide for a cyc: the banks that each job reads or writes in vain, and the lines that land
with whether they do (R68). -/
structure Banks where
  rd   : List (List Nat)
  wr   : List (List Nat)
  land : List (MeshLine × Bool)

/-- The claims of the present cyc, settled. -/
def State.banks (s : State) (k : Nat) : Banks :=
  let c := (s.die (k / 256)).cyc
  let l := s.claims k
  let lost (wr : Bool) : List (List Nat) := (s.tile k).jobs.map (fun j => lostBanks l s.tp2 k c j wr)
  { rd := lost false, wr := lost true, land := (s.meshLandings k).map (fun m => (m, (s.landClaims k m).any (Claim.loses l))) }

/-- Every instruction that loses a bank faults (R68). -/
def bankFaults (s : State) (k : Nat) (b : Banks) : State :=
  ((s.tile k).jobs.zip (b.rd.zip b.wr)).foldl (fun s p =>
    if p.2.1.isEmpty && p.2.2.isEmpty then s else faultAt s k p.1.bundle p.1.slot .bankConflict) s

/-- The reads of a tile: its fetch and its jobs; one that loses a bank makes its other accesses only. -/
def readPhase (s : State) (k : Nat) (b : Banks) : State :=
  let c := (s.die (k / 256)).cyc
  runJobs (fun s lost j => if lost.isEmpty then j.read s k c else j.lostRead s k c lost) b.rd (fetchLine s k) k

/-- The writes of a tile: lines that land, then its jobs. -/
def writePhase (s : State) (k : Nat) (b : Banks) : State :=
  let c := (s.die (k / 256)).cyc
  let s := b.land.foldl (fun s m => meshLand s k m.2 m.1) s
  runJobs (fun s lost j => j.write s k c lost) b.wr s k

/-- The end of a tile's cyc: its faults are reported, jobs that failed or are over leave. -/
def closeTile (s : State) (k : Nat) : State :=
  let c := (s.die (k / 256)).cyc
  let fs := (s.tile k).faults
  let s := reportFaults s k
  let s := ((s.tile k).jobs.filter (Job.failed fs)).foldl (fun s j => j.drain s k c) s
  s.modTile k fun t =>
    { t with jobs := t.jobs.filter (fun j => !j.failed fs && decide (c + 1 < j.fin)), fetch := false, used := [] }

/-! ### One cyc of a die -/

/-- Keys of the tiles of a die that hold anything, and of those that lines land at, ascending. -/
def State.liveTiles (s : State) (d : Nat) : List Nat :=
  let c := (s.die d).cyc
  let dst := (s.die d).mesh.flatMap (fun m => (m.dests.filter (fun v => m.landsAt v c)).map (fun v => d * 256 + v))
  let own := (s.tiles.filter (fun e => e.1 / 256 == d)).map (·.1)
  dst.foldl (fun l k => if own.contains k || l.contains k then l else insertBy (fun a b => decide (a < b)) k l) own

/-- Some tile of the die issues or waits in a CWAIT: the cyc counts for a STEP (R536). -/
def State.cycIssues (s : State) (d : Nat) : Bool :=
  s.tiles.any (fun e => e.1 / 256 == d &&
    (match e.2.seq with | .issuing => true | .waiting _ => true | .starting _ => true | _ => false))

/-- The work of a die in one cyc. -/
def workStep (s : State) (d : Nat) : State :=
  let ks := s.liveTiles d
  let s := ks.foldl (fun s k => s.modTile k Tile.settle) s
  let s := linkStep s d
  let bs := ks.map (fun k => (k, s.banks k))
  let s := bs.foldl (fun s b => bankFaults s b.1 b.2) s
  let s := ks.foldl takeHeld s
  let s := bs.foldl (fun s b => readPhase s b.1 b.2) s
  let s := bs.foldl (fun s b => writePhase s b.1 b.2) s
  s.modDie d Die.landed

/-- The end of one cyc of a die: its work, its bundles, a fault that stops it, gates that hold it (R107, R110). -/
def tickDie (s : State) (d : Nat) : State :=
  let x := s.die d
  if x.runs then
    let counts := s.cycIssues d
    let s := workStep s d
    let ks := s.liveTiles d
    let s := ks.foldl closeTile (ks.foldl seqStep s)
    s.modDie d (fun x => { x with
      cyc := x.cyc + 1
      held := !x.gates.isEmpty
      gatesDone := []
      stop := { x.stop with
        fault := x.stop.fault || x.stop.atEnd
        halted := !x.stop.atEnd && (x.stop.halted || x.stop.haltEnd)
        haltEnd := false
        atEnd := false
        step := if x.stop.atEnd || x.stop.haltEnd then none else
          match x.stop.step with | some n => some (if counts then n - 1 else n) | none => none } })
  else
    let ks := s.liveTiles d
    let s := ks.foldl (fun s k => (takeHeld s k).modTile k fun t => { t with used := [] }) s
    let x := s.die d
    -- a fault raised by an arrival while the die holds stops it too
    let s := if x.stop.atEnd then
        let s := ks.foldl (fun s k => if (s.tile k).faultNow then (reportFaults s k).modTile k Tile.toFaulted else s) s
        s.modDie d (fun x => { x with stop := { x.stop with fault := true, atEnd := false } })
      else s
    let s := if x.stop.haltEnd then
        s.modDie d (fun x => { x with stop := { x.stop with haltEnd := false, halted := !x.stop.fault, step := none } })
      else s
    let anyHalted := (List.range 8).any (fun e => (s.die e).stop.halted)
    if x.held && !anyHalted && !x.stop.ref && !x.stop.xing then
      s.modDie d (fun x => { x with gates := x.gates.map (fun g => { g with count := g.count + 1 }) })
    else s

/-- One cyc of every die (log 5). -/
def tick (s : State) : State := taskEndCheck ((List.range 8).foldl tickDie s)

end Sys2Proof.Machine
end

