-- ==== Sys2Proof/Machine/Bundle.lean ====
section
/-! DEFINITION. Bundles (R100): the encodings of the five slots (Tables 3-7 to 3-13, 4-9, 4-10, 5-5 to 5-11, 7-10 to 7-13,
8-10, 9-7, 9-8, 11-5 to 11-7), read and written, and what the loader rejects in them (R16, R17, R103). A slot word is a number
whose bit i is bit i of the slot's field. -/

namespace Sys2Proof.Machine

/-- The field of a slot in a 256-bit bundle. -/
def Slot.field (b : Nat) : Slot → Nat
  | .ct => bits b 31 0
  | .mv => bits b 95 32
  | .nx => bits b 143 96
  | .mx => bits b 191 144
  | .vx => bits b 255 192
  | .other => 0

/-- Bits of a slot's field. -/
def Slot.width : Slot → Nat
  | .ct => 32 | .mv => 64 | .nx => 48 | .mx => 48 | .vx => 64 | .other => 0

/-- A field of a slot word. -/
def fld (w n hi lo : Nat) : BitVec n := BitVec.ofNat n (bits w hi lo)

/-! ### Decoding -/

/-- CT (Tables 4-9, 4-10). -/
def decodeCt (x : Site) (w : Nat) : Option Instr :=
  match bits w 31 27 with
  | 0 => some (.cnop x)
  | 1 => some (.cset x (fld w 4 26 23) (fld w 20 19 0))
  | 2 => some (.cjmp x (fld w 13 12 0))
  | 3 => some (.cloop x (fld w 4 26 23) (fld w 13 12 0))
  | 4 => some (.cwait x (fld w 16 15 0))
  | 5 => some (.skipidle x (fld w 10 26 17) (fld w 13 12 0))
  | 6 => some (.stepb x (fld w 13 12 0))
  | 7 => some (.cend x)
  | _ => none

/-- MV (Tables 3-7 to 3-13, 8-10). -/
def decodeMv (x : Site) (w : Nat) : Option Instr :=
  match bits w 63 59 with
  | 0 => some (.dnop x)
  | 1 => some (.dset x (fld w 5 58 54) (fld w 3 53 51) (fld w 32 31 0))
  | 2 => some (.dreg x (fld w 4 58 55) (fld w 2 54 53) (fld w 14 52 39) (fld w 14 38 25))
  | 3 => some (.dmov x (fld w 5 58 54) (fld w 5 53 49) (fld w 11 48 38) (fld w 12 37 26) (fld w 1 25 25) (fld w 1 24 24)
      (fld w 6 23 18))
  | 4 => some (.dmovx x (fld w 5 58 54) (fld w 5 53 49) (fld w 11 48 38) (fld w 12 37 26) (fld w 1 25 25) (fld w 1 24 24)
      (fld w 6 23 18) (fld w 5 17 13))
  | 5 => some (.dtrn x (fld w 5 58 54) (fld w 5 53 49) (fld w 1 48 48) (fld w 12 47 36) (fld w 1 35 35) (fld w 1 34 34))
  | 6 => some (.dgath x (fld w 2 58 57) (fld w 1 56 56) (fld w 5 55 51) (fld w 5 50 46) (fld w 6 45 40) (fld w 9 39 31)
      (fld w 6 30 25) (fld w 5 24 20) (fld w 1 19 19) (fld w 1 18 18) (fld w 1 17 17))
  | _ => none

/-- NX (Tables 11-5 to 11-7, R340) and the serving instructions (Tables 9-7, 9-8, R287). -/
def decodeNx (x : Site) (w : Nat) : Option Instr :=
  match bits w 47 43 with
  | 0 => some (.nnop x)
  | 1 => some (.nsend x (fld w 4 42 39) (fld w 3 38 36) (fld w 1 35 35) (fld w 14 34 21) (fld w 11 20 10) (fld w 5 9 5))
  | 2 => some (.nrecv x (fld w 3 42 40) (fld w 1 39 39) (fld w 14 38 25) (fld w 11 24 14) (fld w 5 13 9))
  | 3 => some (.ngate x (fld w 5 42 38) (fld w 14 37 24) (fld w 24 23 0))
  | 4 => some (.nmcast x (fld w 4 42 39) (fld w 3 38 36) (fld w 1 35 35) (fld w 14 34 21) (fld w 11 20 10) (fld w 5 9 5))
  | 5 => some (.nred x (fld w 4 42 39) (fld w 3 38 36) (fld w 1 35 35) (fld w 14 34 21) (fld w 11 20 10) (fld w 5 9 5))
  | 24 => some (.slanes x (fld w 1 42 42) (fld w 10 41 32) (fld w 5 31 27) (fld w 14 26 13))
  | 25 => some (.semit x (fld w 14 42 29) (fld w 11 28 18) (fld w 6 17 12))
  | 26 => some (.sstop x (fld w 10 42 33) (fld w 5 32 28) (fld w 8 27 20))
  | _ => none

/-- MX (Tables 5-5 to 5-11, R162, R165). -/
def decodeMx (x : Site) (w : Nat) : Option Instr :=
  match bits w 47 44 with
  | 0 => some (.mnop x)
  | 1 => some (.mload x (fld w 2 43 42) (fld w 1 41 41) (fld w 2 40 39) (fld w 4 38 35) (fld w 1 34 34) (fld w 14 33 20)
      (fld w 5 19 15) (fld w 2 14 13))
  | 2 => some (.mswap x)
  | 3 => some (.mstream x (fld w 1 43 43) (fld w 1 42 42) (fld w 1 41 41) (fld w 20 40 21) (fld w 14 20 7))
  | 4 => some (.mgemv x (fld w 1 43 43) (fld w 1 42 42) (fld w 7 41 35) (fld w 2 34 33) (fld w 4 32 29) (fld w 4 28 25)
      (fld w 10 24 15))
  | 5 => some (.mdrain x (fld w 1 43 43) (fld w 2 42 41) (fld w 1 40 40) (fld w 5 39 35) (fld w 6 34 29) (fld w 14 28 15)
      (fld w 14 14 1))
  | 6 => some (.mclr x (fld w 2 43 42))
  | 7 => some (.mcbload x (fld w 2 43 42) (fld w 4 41 38) (fld w 5 37 33) (fld w 14 32 19))
  | _ => none

/-- VX (Tables 7-10 to 7-13). -/
def decodeVx (x : Site) (w : Nat) : Option Instr :=
  match bits w 63 60 with
  | 0 => some (.vnop x)
  | 1 => some (.vcfg x (fld w 4 59 56) (fld w 14 55 42))
  | 2 => some (.vrun x (fld w 4 59 56) (fld w 11 55 45) (fld w 1 44 44) (fld w 14 41 28) (fld w 14 27 14) (fld w 14 13 0))
  | 3 => some (.vlut x (fld w 4 59 56) (fld w 5 55 51) (fld w 14 50 37))
  | _ => none

/-- The instruction that a slot word holds at a tile; none for a reserved opcode. -/
def decodeSlot (x : Site) (sl : Slot) (w : Nat) : Option Instr :=
  match sl with
  | .ct => decodeCt x w
  | .mv => decodeMv x w
  | .nx => decodeNx x w
  | .mx => decodeMx x w
  | .vx => decodeVx x w
  | .other => none

/-! ### Encoding -/

/-- The slot and the slot word of an instruction; none for a command that is no instruction. -/
def encodeSlot : Instr → Option (Slot × Nat)
  | .cnop _ => some (.ct, 0)
  | .cset _ c i => some (.ct, 1 * 2 ^ 27 + c.toNat * 2 ^ 23 + i.toNat)
  | .cjmp _ t => some (.ct, 2 * 2 ^ 27 + t.toNat)
  | .cloop _ c t => some (.ct, 3 * 2 ^ 27 + c.toNat * 2 ^ 23 + t.toNat)
  | .cwait _ n => some (.ct, 4 * 2 ^ 27 + n.toNat)
  | .skipidle _ m t => some (.ct, 5 * 2 ^ 27 + m.toNat * 2 ^ 17 + t.toNat)
  | .stepb _ t => some (.ct, 6 * 2 ^ 27 + t.toNat)
  | .cend _ => some (.ct, 7 * 2 ^ 27)
  | .dnop _ => some (.mv, 0)
  | .dset _ m s i => some (.mv, 1 * 2 ^ 59 + m.toNat * 2 ^ 54 + s.toNat * 2 ^ 51 + i.toNat)
  | .dreg _ r o b z => some (.mv, 2 * 2 ^ 59 + r.toNat * 2 ^ 55 + o.toNat * 2 ^ 53 + b.toNat * 2 ^ 39 + z.toNat * 2 ^ 25)
  | .dmov _ a b l r si di p => some (.mv, 3 * 2 ^ 59 + a.toNat * 2 ^ 54 + b.toNat * 2 ^ 49 + l.toNat * 2 ^ 38 +
      r.toNat * 2 ^ 26 + si.toNat * 2 ^ 25 + di.toNat * 2 ^ 24 + p.toNat * 2 ^ 18)
  | .dmovx _ a b l r si di p g => some (.mv, 4 * 2 ^ 59 + a.toNat * 2 ^ 54 + b.toNat * 2 ^ 49 + l.toNat * 2 ^ 38 +
      r.toNat * 2 ^ 26 + si.toNat * 2 ^ 25 + di.toNat * 2 ^ 24 + p.toNat * 2 ^ 18 + g.toNat * 2 ^ 13)
  | .dtrn _ a b h n si di => some (.mv, 5 * 2 ^ 59 + a.toNat * 2 ^ 54 + b.toNat * 2 ^ 49 + h.toNat * 2 ^ 48 +
      n.toNat * 2 ^ 36 + si.toNat * 2 ^ 35 + di.toNat * 2 ^ 34)
  | .dgath _ o k m h l n p g pin ri st => some (.mv, 6 * 2 ^ 59 + o.toNat * 2 ^ 57 + k.toNat * 2 ^ 56 + m.toNat * 2 ^ 51 +
      h.toNat * 2 ^ 46 + l.toNat * 2 ^ 40 + n.toNat * 2 ^ 31 + p.toNat * 2 ^ 25 + g.toNat * 2 ^ 20 + pin.toNat * 2 ^ 19 +
      ri.toNat * 2 ^ 18 + st.toNat * 2 ^ 17)
  | .nnop _ => some (.nx, 0)
  | .nsend _ r c e s n k => some (.nx, 1 * 2 ^ 43 + r.toNat * 2 ^ 39 + c.toNat * 2 ^ 36 + e.toNat * 2 ^ 35 + s.toNat * 2 ^ 21 +
      n.toNat * 2 ^ 10 + k.toNat * 2 ^ 5)
  | .nrecv _ c e d n g => some (.nx, 2 * 2 ^ 43 + c.toNat * 2 ^ 40 + e.toNat * 2 ^ 39 + d.toNat * 2 ^ 25 + n.toNat * 2 ^ 14 +
      g.toNat * 2 ^ 9)
  | .ngate _ c v t => some (.nx, 3 * 2 ^ 43 + c.toNat * 2 ^ 38 + v.toNat * 2 ^ 24 + t.toNat)
  | .nmcast _ r c e s n k => some (.nx, 4 * 2 ^ 43 + r.toNat * 2 ^ 39 + c.toNat * 2 ^ 36 + e.toNat * 2 ^ 35 +
      s.toNat * 2 ^ 21 + n.toNat * 2 ^ 10 + k.toNat * 2 ^ 5)
  | .nred _ r c e s n k => some (.nx, 5 * 2 ^ 43 + r.toNat * 2 ^ 39 + c.toNat * 2 ^ 36 + e.toNat * 2 ^ 35 + s.toNat * 2 ^ 21 +
      n.toNat * 2 ^ 10 + k.toNat * 2 ^ 5)
  | .slanes _ s m l d => some (.nx, 24 * 2 ^ 43 + s.toNat * 2 ^ 42 + m.toNat * 2 ^ 32 + l.toNat * 2 ^ 27 + d.toNat * 2 ^ 13)
  | .semit _ s n p => some (.nx, 25 * 2 ^ 43 + s.toNat * 2 ^ 29 + n.toNat * 2 ^ 18 + p.toNat * 2 ^ 12)
  | .sstop _ m l c => some (.nx, 26 * 2 ^ 43 + m.toNat * 2 ^ 33 + l.toNat * 2 ^ 28 + c.toNat * 2 ^ 20)
  | .mnop _ => some (.mx, 0)
  | .mload _ k f c g e s v z => some (.mx, 1 * 2 ^ 44 + k.toNat * 2 ^ 42 + f.toNat * 2 ^ 41 + c.toNat * 2 ^ 39 +
      g.toNat * 2 ^ 35 + e.toNat * 2 ^ 34 + s.toNat * 2 ^ 20 + v.toNat * 2 ^ 15 + z.toNat * 2 ^ 13)
  | .mswap _ => some (.mx, 2 * 2 ^ 44)
  | .mstream _ b a e r s => some (.mx, 3 * 2 ^ 44 + b.toNat * 2 ^ 43 + a.toNat * 2 ^ 42 + e.toNat * 2 ^ 41 + r.toNat * 2 ^ 21 +
      s.toNat * 2 ^ 7)
  | .mgemv _ b a n c g k l => some (.mx, 4 * 2 ^ 44 + b.toNat * 2 ^ 43 + a.toNat * 2 ^ 42 + n.toNat * 2 ^ 35 + c.toNat * 2 ^ 33 +
      g.toNat * 2 ^ 29 + k.toNat * 2 ^ 25 + l.toNat * 2 ^ 15)
  | .mdrain _ b d z r q c l => some (.mx, 5 * 2 ^ 44 + b.toNat * 2 ^ 43 + d.toNat * 2 ^ 41 + z.toNat * 2 ^ 40 + r.toNat * 2 ^ 35 +
      q.toNat * 2 ^ 29 + c.toNat * 2 ^ 15 + l.toNat * 2)
  | .mclr _ b => some (.mx, 6 * 2 ^ 44 + b.toNat * 2 ^ 42)
  | .mcbload _ c g n s => some (.mx, 7 * 2 ^ 44 + c.toNat * 2 ^ 42 + g.toNat * 2 ^ 38 + n.toNat * 2 ^ 33 + s.toNat * 2 ^ 19)
  | .vnop _ => some (.vx, 0)
  | .vcfg _ c s => some (.vx, 1 * 2 ^ 60 + c.toNat * 2 ^ 56 + s.toNat * 2 ^ 42)
  | .vrun _ c r m a b d => some (.vx, 2 * 2 ^ 60 + c.toNat * 2 ^ 56 + r.toNat * 2 ^ 45 + m.toNat * 2 ^ 44 + a.toNat * 2 ^ 28 +
      b.toNat * 2 ^ 14 + d.toNat)
  | .vlut _ g n s => some (.vx, 3 * 2 ^ 60 + g.toNat * 2 ^ 56 + n.toNat * 2 ^ 51 + s.toNat * 2 ^ 37)
  | _ => none

/-! ### What the loader rejects -/

/-- No field of the instruction holds a reserved value that the bundle alone shows (R17). -/
def fieldsLegal : Instr → Bool
  | .dset _ _ s i => decide (s.toNat ≤ 4) && (s != 1 || decide (i.toNat < 2 ^ 16)) && (s != 2 || decide (i.toNat < 2 ^ 24)) &&
      (s != 3 || decide (i.toNat < 2 ^ 6))
  | .dreg _ _ o b z => o != 3 && (o == 0 || (b == 0 && z == 0))
  | .dmov _ _ _ _ _ _ _ p => decide (p.toNat ≤ 32)
  | .dmovx _ _ _ _ _ _ _ p _ => decide (p.toNat ≤ 32)
  | .dgath _ o k _ _ _ _ p _ _ _ _ => o != 3 && (o != 2 || k == 0) && decide (p.toNat ≤ 32)
  | .nsend _ _ _ e s _ _ => e == 0 || decide (s.toNat < 16)
  | .nmcast _ _ _ e s _ _ => e == 0 || decide (s.toNat < 16)
  | .nred _ _ _ e s _ _ => e == 0 || decide (s.toNat < 16)
  | .nrecv _ _ e d _ _ => e == 0 || decide (d.toNat < 16)
  | .ngate _ c _ _ => c != 0
  | .slanes _ s _ l _ => s != 0 || l == 0
  | .semit _ _ _ p => decide (p.toNat ≤ 16)
  | .mload _ k f c g e s v z =>
      k != 3 && (k != 2 || f == 0) && (k == 0 || c == 0) && ((k == 0 && f == 1) || g == 0) &&
      (e == 0 || decide (s.toNat < 16)) && (k == 1 || v == 0) && (if k = 2 then z != 0 else z == 0)
  | .mstream _ _ _ e _ s => e == 0 || decide (s.toNat < 16)
  | .mdrain _ _ d z _ _ c l => d != 3 && (z == 1 || c == 0) && (d == 2 || l == 0)
  | _ => true

/-- The slot word is one that R16 and R17 admit: its opcode is defined, its reserved bits are 0, its fields legal. -/
def slotLegal (sl : Slot) (w : Nat) : Bool :=
  match decodeSlot ⟨0, 0⟩ sl w with
  | some i => encodeSlot i == some (sl, w) && fieldsLegal i
  | none => false

/-- Every slot of a bundle is admitted. -/
def bundleLegal (b : Nat) : Bool := [Slot.ct, .mv, .nx, .mx, .vx].all fun sl => slotLegal sl (sl.field b)

/-- The target of a control transfer that a bundle's CT field holds. -/
def transferTarget (b : Nat) : Option Nat :=
  match bits b 31 27 with
  | 2 => some (bits b 12 0)
  | 3 => some (bits b 12 0)
  | 5 => some (bits b 12 0)
  | _ => none

/-- R103 for bundle `i` of a code region of `n` bundles, followed by bundle `next`. -/
def transferLegal (n i b next : Nat) : Bool :=
  match transferTarget b with
  | some t => i % 2 == 0 && t % 2 == 0 && decide (t < n) && decide (bits next 31 27 ≤ 1)
  | none => bits b 31 27 != 6 || bits b 0 0 == 0

/-- The bundle holds an N form: NRED (Table 4-2). -/
def bundleN (b : Nat) : Bool := bits b 143 139 == 5

end Sys2Proof.Machine
end

