-- ==== Sys2Proof/Machine/PowerOps.lean ====
section
/-! DEFINITION. Power states, limiters and the target of phase 8 (R426-R428, R434), distribution modes (R407), the change of
the tile clock (R413) and the fallback (R417). -/

namespace Sys2Proof.Machine

/-- Tile clock of a power state in MHz (Table 15-2). -/
def stateMhz (p : Nat) : Nat := 1800 - 100 * p

/-- The slowest of a list of power states. -/
def slowest (l : List Nat) : Nat := l.foldl max 0

/-- The local limit: the slowest state of the limiters of Table 15-3. -/
def Power.localLimit (p : Power) : Nat := slowest [p.ceil, p.cap, p.therm, p.margin, p.alert, p.lock]

/-- CAUSE of THROTTLE: the limiters slower than P0 (Table 15-4). -/
def Power.limitCause (p : Power) : Nat :=
  maskOf ((([p.ceil, p.cap, p.therm, p.margin, p.alert, p.lock].zipIdx).filter (fun x => x.1 != 0)).map (·.2))

/-- Key of a member in the tables of limits and of JOBFREQs. -/
def jobKey (g mid : Nat) : Nat := g * 1024 + mid % 1024

/-- Echo group `g`. -/
def State.group (s : State) (g : Nat) : Group := tget {} s.groups g
def State.modGroup (s : State) (g : Nat) (f : Group → Group) : State := { s with groups := tmod {} s.groups g f }

/-- GROUP_MODULES of a group. -/
def State.gmods (s : State) (g : Nat) : Nat := tget 0 s.img.gmods g

/-- This module leads the group. -/
def State.leads (s : State) (g : Nat) : Bool := (s.group g).leader == s.id.mid

/-- Groups the loaded image uses. -/
def State.usedGroups (s : State) : List Nat := if s.img.loaded then (List.range 8).filter (fun g => !(s.groupDies g).isEmpty) else []

/-- Limits that the members of a group have announced (log 65). -/
def State.memberLimits (s : State) (g : Nat) : List Nat :=
  (s.pw.limits.filter (fun e => e.1 / 1024 == g)).map (fun e => (e.2 - 1) % 16)

/-- The job state of a group (R434). -/
def State.jobState (s : State) (g : Nat) : Nat :=
  if s.gmods g ≤ 1 then tget 0 s.pw.host g
  else if s.leads g then slowest (tget 0 s.pw.host g :: s.pw.localLimit :: s.memberLimits g)
  else tget 0 s.pw.job g

/-- The target of phase 8: the slowest of the local limit and every job state (R428). -/
def State.target (s : State) : Nat := slowest (s.pw.localLimit :: s.usedGroups.map s.jobState)

/-! ### THROTTLE and JOBFREQ (R435-R437, Table 15-4) -/

/-- JGID, LIMIT and CAUSE of a THROTTLE with the limit as it stands. -/
def State.throttleHead (s : State) (g : Nat) : List Byte :=
  leBytes 2 (tget 0 s.img.jgid g) ++ leBytes 1 s.pw.localLimit ++ leBytes 1 s.pw.limitCause

/-- Announce the local limit to the leader of a group under announcement count `n`; a limit slower than the job state held is
an event (R435). -/
def throttleSend (s : State) (g n : Nat) : State :=
  let limit := s.pw.localLimit
  let s := s.modPw fun p => { p with annSeq := tset 0 p.annSeq g n, annLim := tset 0 p.annLim g (limit + 1) }
  let s := ctrlReq s .power (s.group g).leader 0x20 (s.throttleHead g ++ leBytes 4 n ++ leBytes 8 0)
  if s.jobState g < limit then raise s 0x74 0 (s.throttleHead g) else s

/-- Send a member the job state of a group (R436). -/
def jobFreqSend (s : State) (g m : Nat) : State :=
  ctrlReq s .power m 0x21 (leBytes 2 (tget 0 s.img.jgid g) ++ leBytes 1 (s.jobState g) ++ leBytes 1 0 ++
    leBytes 4 (s.group g).next ++ leBytes 8 0)

/-! ### Distribution modes (R407) -/

/-- A die's clock is off: unused by the loaded image, turned off, or not yet powered. -/
def State.clockOff (s : State) (d : Nat) : Bool :=
  s.pw.off || !s.boot.started || s.boot.phase == 0 || bit s.pw.dieOffCur d || (s.img.loaded && tget 0 s.img.grid d == 0)

/-- Mode with which a region runs at a tile clock: 1 Stalactite, 2 Flowstone. -/
def State.modeAt (s : State) (i mhz : Nat) : Nat :=
  let want := s.ck.want / 4 ^ i % 4
  if 1600 < mhz then 1 else if want = 1 then 1 else 2

/-- Every region takes the mode that the setting and the tile clock give it. -/
def setModes (s : State) : State :=
  s.modCk fun c => { c with modes := (List.range 24).foldl (fun t i => tset 0 t i (s.modeAt i c.cur)) c.modes }

/-- The mode CK_FREQ_STATUS reports for a region. -/
def State.modeOf (s : State) (i : Nat) : Nat :=
  if s.clockOff (i / 3) then 0
  else
    let m := tget 0 s.ck.modes i
    if m = 0 then s.modeAt i s.ck.cur else m

/-! ### Changes of the tile clock -/

def freqEvent (s : State) (cause old new : Nat) : State :=
  raise s 0x61 cause (leBytes 2 old ++ leBytes 2 new ++ leBytes 1 s.ck.fb)

/-- No boundary is needed: no image is loaded, RUN has not been issued, or the task has ended (R415); during start-up,
phase 1 has ended (R514). -/
def State.idleClock (s : State) : Bool :=
  match s.ce.state with
  | .starting => s.boot.started && decide (2 ≤ s.boot.phase)
  | .running => false
  | _ => true

/-- Crossings marked for realignment are realigned and counted (R409). -/
def realign (s : State) : State :=
  s.modCk fun c => { c with pending := 0, realigns := min (2 ^ 32 - 1) (c.realigns + popCount c.pending 8) }

/-- FREQUENCY_CHANGE: every die stops, takes the target and its modes, aligns and restarts (R413). The tile supply has risen to
the target's voltage before the stop, or falls to it after the restart (R427). -/
def applyFreq (s : State) (target : Nat) : State :=
  let old := s.ck.cur
  let new := stateMhz target
  let s := s.modPw fun p => { p with state := target, volt := some target, rise := none }
  let s := if new = old then s else
    freqEvent (s.modCk fun c => { c with cur := new }) 1 old new
  let s := if old = 400 ∧ new ≠ 400 then s.modCk fun c => { c with fb := 0 } else s
  realign (setModes s)

/-- The module falls back to 0.4 GHz (R417): bit 0 ALERT, 1 margin CRIT, 2 THERM of FB. Targets taken at a cut are
discarded (R418), a rise of the tile supply is abandoned and it falls to P14's voltage (R427, R444), and the alert limiter holds
P14 (Table 15-3) (log 55) (log 67). -/
def fallback (s : State) (causeBit : Nat) : State :=
  let old := s.ck.cur
  let s := s.modCk fun c => { c with fb := if bit c.fb causeBit then c.fb else c.fb + 2 ^ causeBit, cur := 400, fbAt := s.now + 1 }
  let s := s.modPw fun p => { p with
    state := 14, volt := some 14, rise := none, alert := 14, alertAt := s.now + p.hold * 1000000 }
  let s := { s with groups := s.groups.map (fun g => (g.1, { g.2 with target := 14 })) }
  let s := if old = 400 then s else freqEvent s 2 old 400
  setModes s

/-- Some main PLL does not lock: 0.4 GHz, CLOCK_FAULT(LOCK), and the lock limiter (R416). -/
def lockFails (s : State) (die : Nat) : State :=
  let s := s.modCk fun c => { c with cur := 400, fb := if bit c.fb 3 then c.fb else c.fb + 8 }
  let s := s.modPw fun p => { p with state := 14, volt := some 14, rise := none, lock := 14, lockAt := s.now + 100000000 }
  realign (setModes (raise s 0x60 3 (leBytes 1 die ++ leBytes 1 0 ++ leBytes 2 0)))

end Sys2Proof.Machine
end

