-- ==== Sys2Proof/Machine/Tables.lean ====
section
/-! DEFINITION. Commits of the mask store and of the governor table: their staging, checks and application (R291, R315,
R549, R550). -/

namespace Sys2Proof.Machine

/-! ### The staging of the mask store -/

/-- The store word a reader of the staging area sees. -/
def State.stagedWord (s : State) (w : Nat) : Nat :=
  if s.sv.stWritten.contains w then tget 0 s.sv.stWords w else leNat (mgets s.sv.store (8 * w) 8)

/-- The staged value of a descriptor; its GEN is read-only. -/
def State.stagedDesc (s : State) (key : Nat) : BitVec 128 :=
  match (s.sv.stDesc.find? (fun e => e.1 == key)).map (·.2) with
  | some v => v
  | none => tget 0 s.sv.desc key

/-- Bytes of the store as the commit would leave it. -/
def State.newStore (s : State) (a n : Nat) : Nat :=
  leNat ((List.range n).map fun i =>
    BitVec.ofNat 8 (s.stagedWord ((a + i) / 8) / 2 ^ (8 * ((a + i) % 8))))

/-- Keys of every descriptor that holds something before or after the commit, ascending. -/
def State.descKeys (s : State) : List Nat :=
  sortBy (fun a b => decide (a < b)) ((s.sv.desc.map (·.1) ++ s.sv.stDesc.map (·.1)).eraseDups)

/-- A staged store word lies in an object. -/
def State.touches (s : State) (d : MaskDesc) : Bool :=
  d.valid && s.sv.stWritten.any (fun w => decide (d.offset < 8 * w + 8 ∧ 8 * w < d.offset + d.length))

/-- The commit rewrites or deletes an object: its descriptor or a word of it was written. -/
def State.rewrites (s : State) (key : Nat) : Bool :=
  s.sv.stDesc.any (fun e => e.1 == key) || s.touches (maskDescOf (tget 0 s.sv.desc key).toNat) ||
    s.touches (maskDescOf (s.stagedDesc key).toNat)

/-- An entry that is not FREE names the object: an allow-list, a grammar, or the class map of a grammar (log 43). -/
def State.objectUsed (s : State) (key : Nat) : Bool :=
  s.sv.entries.any (fun e => e.2.state != .free &&
    ((maskKind e.2.maskh == 1 && key == 256 + maskIdx e.2.maskh) ||
     (maskKind e.2.maskh == 2 &&
       (key == 768 + maskIdx e.2.maskh || key == 512 + (s.maskDesc 3 (maskIdx e.2.maskh)).cmap))))

/-- A next-state entry of a grammar object names a state of NSTATES or more. -/
def State.badNext (s : State) (d : MaskDesc) : Bool :=
  (List.range d.nstates).any fun g =>
    let at_ := d.offset + s.newStore (d.offset + 8 * g) 4
    let n := ((List.range d.classes).filter (fun c => bit (s.newStore (at_ + c / 8) 1) (c % 8))).length
    (List.range n).any fun r => decide (d.nstates ≤ s.newStore (at_ + (d.classes + 7) / 8 + 2 * r) 2 % 4096)

/-- Why a descriptor is refused: a reason of HC_TBL_STATUS (log 43). -/
def State.descReason (s : State) (keys : List Nat) (key : Nat) : Option Nat :=
  let d := maskDescOf (s.stagedDesc key).toNat
  let others := keys.filter (· != key)
  let overlap := others.any fun k =>
    let o := maskDescOf (s.stagedDesc k).toNat
    o.valid && decide (d.offset < o.offset + o.length ∧ o.offset < d.offset + d.length)
  let grammar := key / 256 == 3
  if d.valid && overlap then some 1
  else if d.valid && decide (64 * 2 ^ 20 < d.offset + d.length) then some 2
  else if d.valid && grammar && (decide (d.nstates ≤ d.start) || s.badNext d) then some 3
  else if d.valid && grammar && !(maskDescOf (s.stagedDesc (512 + d.cmap)).toNat).valid then some 4
  else if s.rewrites key && s.objectUsed key then some 5
  else none

/-- The first refusal of the staged commit: its reason and object. -/
def State.tblRefusal (s : State) : Option (Nat × Nat) :=
  if s.sv.stFull then some (6, 0) else
  let keys := s.descKeys
  match keys.filterMap (fun k => (s.descReason keys k).map (fun r => (r, k))) with
  | (r, k) :: _ => some (r, k / 256 * 2 ^ 14 + k % 256)
  | [] => none

/-- The staging discarded. -/
def Serve.dropTbl (v : Serve) : Serve := { v with stWords := [], stWritten := [], stDesc := [], stFull := false }

def refuseTbl (s : State) (r obj : Nat) : State :=
  s.modSv fun v => { v.dropTbl with tblState := 2, tblReason := r, tblObj := obj }

/-- GO of HC_TBL_COMMIT: the check, and the update recorded. -/
def recordTbl (s : State) : State :=
  if s.sv.tblState = 1 then s else
  match s.tblRefusal with
  | some (r, obj) => refuseTbl s r obj
  | none => s.modSv fun v => { v with tblState := 1, tblReason := 0, tblObj := 0 }

/-- The group has boundaries to come: not every tile of it on this module has ended, or other modules keep it going. -/
def State.groupGoesOn (s : State) (g : Nat) : Bool :=
  ((s.groupDies g).any fun d => (s.boundTiles d).any fun vt => !s.hasEnded (d * 256 + vt)) ||
    (decide (1 < s.gmods g) && (s.group g).bnd != .idle)

/-- The other groups with boundaries to come, for which an update applied in phase 4 of group `g` is not yet in force. -/
def State.laterGroups (s : State) (g : Nat) : List Nat := s.usedGroups.filter (fun h => h != g && s.groupGoesOn h)

/-- The update takes effect for group `g`; for the last of the groups it is done. -/
def tblReach (s : State) (g : Nat) : State :=
  let left := s.sv.tblOld.filter (fun h => h != g && s.groupGoesOn h)
  s.modSv fun v => if left.isEmpty then { v with tblOld := [], oldStore := [], oldDesc := [], tblState := 0 }
    else { v with tblOld := left }

/-- Phase 4 of group `g`: a recorded update is checked again and applied in the first group to come to it, and takes effect for
each group in its own phase 4 (log 42). -/
def applyTbl (s : State) (g : Nat) : State :=
  if s.sv.tblState ≠ 1 then s else
  if !s.sv.tblOld.isEmpty then tblReach s g else
  match s.tblRefusal with
  | some (r, obj) => refuseTbl s r obj
  | none =>
    let desc := s.descKeys.foldl (fun t k =>
      let old := (tget 0 s.sv.desc k).toNat
      let new := (s.stagedDesc k).toNat
      let gen := if s.rewrites k then (bits old 69 64 + 1) % 64 else bits old 69 64
      tset 0 t k (BitVec.ofNat 128 (setBits new 64 6 gen))) s.sv.desc
    let store := s.sv.stWritten.foldl (fun m w => mputs m (8 * w) (leBytes 8 (tget 0 s.sv.stWords w))) s.sv.store
    let s := s.modSv fun v => { v.dropTbl with
      desc := desc, store := store, oldStore := v.store, oldDesc := v.desc, tblOld := s.laterGroups g }
    tblReach s g

/-! ### The governor table (Table 10-6) -/

def govWin (v : BitVec 64) : Nat := bits v.toNat 39 32
def govLo (v : BitVec 64) : Nat := bits v.toNat 31 24
def govHi (v : BitVec 64) : Nat := bits v.toNat 23 16
def govMin (v : BitVec 64) : Nat := bits v.toNat 15 12
def govMax (v : BitVec 64) : Nat := bits v.toNat 11 8

/-- Why a staged entry is refused: a reason of HC_GT_STATUS. -/
def State.govReason (s : State) (midx : Nat) (v : BitVec 64) : Option Nat :=
  let m := s.model midx
  if bits v.toNat 63 40 ≠ 0 ∨ bits v.toNat 7 0 ≠ 0 then some 1
  else if ¬(govMin v ≤ govMax v ∧ govMax v ≤ m.maxdepth) then some 2
  else if govHi v < govLo v then some 3
  else if govWin v ≠ 0 ∧ govMin v = 0 then some 4
  else if govWin v ≠ 0 ∧ m.draftOf.isNone then some 5
  else none

def State.gtRefusal (s : State) : Option (Nat × Nat) :=
  match s.sv.stGov.filterMap (fun e => (s.govReason e.1 e.2).map (fun r => (r, e.1))) with
  | p :: _ => some p
  | [] => none

def refuseGt (s : State) (r midx : Nat) : State :=
  s.modSv fun v => { v with stGov := [], gtState := 2, gtReason := r, gtMidx := midx }

/-- GO of HC_GT_COMMIT. -/
def recordGt (s : State) : State :=
  if s.sv.gtState = 1 then s else
  match s.gtRefusal with
  | some (r, m) => refuseGt s r m
  | none => s.modSv fun v => { v with gtState := 1, gtReason := 0, gtMidx := 0 }

/-- The staged entries that `p` names come into force. -/
def Serve.takeGov (v : Serve) (p : Nat → Bool) : Serve :=
  { v with gov := (v.stGov.filter (fun e => p e.1)).foldl (fun t e => tset 0 t e.1 e.2) v.gov
           stGov := v.stGov.filter (fun e => !p e.1) }

/-- Phase 4 of group `g`: a recorded governor update is checked again in the first group to come to it, and the entries of
each group's models come into force in its own phase 4 (log 42). -/
def applyGt (s : State) (g : Nat) : State :=
  if s.sv.gtState ≠ 1 then s else
  let take (s : State) (left : List Nat) : State :=
    if left.isEmpty then s.modSv fun v => { v.takeGov (fun _ => true) with govOld := [], gtState := 0 }
    else s.modSv fun v => { v.takeGov (fun m => (s.model m).group == g) with govOld := left }
  if !s.sv.govOld.isEmpty then take s (s.sv.govOld.filter (fun h => h != g && s.groupGoesOn h)) else
  match s.gtRefusal with
  | some (r, m) => refuseGt s r m
  | none => take s (s.laterGroups g)

end Sys2Proof.Machine
end

