-- ==== Sys2Proof/Machine/TwinOps.lean ====
section
/-! DEFINITION. Mirror points (R456-R459): the 128 B of an entry, the capture of a point, its placing and installing on the
twin; adoption (R465, R467) and the end of a pairing (R453). -/

namespace Sys2Proof.Machine

/-! ### The 128 B of an entry (Tables 9-2, 10-1, 16-6) -/

/-- Words E0 to E15. -/
def Entry.words (e : Entry) : List Nat :=
  [ e.gen * 2 ^ 48 + e.modelId * 2 ^ 32 + e.midx * 2 ^ 22 + e.state.code * 2 ^ 19 + e.prio * 2 ^ 16 + e.cls * 2 ^ 15 +
      e.depth * 2 ^ 11 + b2n e.keep * 2 ^ 10 + b2n e.late * 2 ^ 9 + b2n e.xfer * 2 ^ 8 + e.end_ * 2 ^ 4 +
      b2n e.fresh * 2 ^ 3 + b2n e.shadow * 2 ^ 2,
    e.plen * 2 ^ 40 + e.pdone * 2 ^ 16 + e.maskh,
    e.ngen * 2 ^ 40 + e.maxnew * 2 ^ 16 + e.gstate,
    e.pthead * 2 ^ 32 + e.prefH,
    e.deadline, e.seed, e.temp * 2 ^ 32 + e.topp,
    e.topk * 2 ^ 55 + b2n e.smode * 2 ^ 54 + e.expk * 2 ^ 47 + e.last * 2 ^ 29 + e.cring * 2 ^ 23,
    e.ttl * 2 ^ 32 + e.tag,
    e.stop0 * 2 ^ 45 + e.stop1 * 2 ^ 26 + e.stop2 * 2 ^ 7,
    e.stop3 * 2 ^ 45 + e.scode * 2 ^ 37 + e.aseq,
    e.prompt, e.parkAddr, e.expiry,
    e.dpthead * 2 ^ 32 + e.dheld * 2 ^ 28 + b2n e.lv * 2 ^ 27,
    e.emitpos * 2 ^ 40 + b2n e.ev * 2 ^ 39 + e.wprop * 2 ^ 20 + e.wacc * 2 ^ 8 + e.wgr ]

def Entry.bytes (e : Entry) : List Byte := e.words.flatMap (leBytes 8)

/-- An entry from its 128 B. -/
def entryOfBytes (bs : List Byte) : Entry :=
  let w (i : Nat) : Nat := fieldAt bs (8 * i) 8
  { gen := bits (w 0) 63 48, modelId := bits (w 0) 47 32, midx := bits (w 0) 31 22
    state := EState.ofCode (bits (w 0) 21 19), prio := bits (w 0) 18 16, cls := bits (w 0) 15 15
    depth := bits (w 0) 14 11, keep := bit (w 0) 10, late := bit (w 0) 9, xfer := bit (w 0) 8, end_ := bits (w 0) 7 4
    fresh := bit (w 0) 3, shadow := bit (w 0) 2
    plen := bits (w 1) 63 40, pdone := bits (w 1) 39 16, maskh := bits (w 1) 15 0
    ngen := bits (w 2) 63 40, maxnew := bits (w 2) 39 16, gstate := bits (w 2) 11 0
    pthead := bits (w 3) 63 32, prefH := bits (w 3) 31 0, deadline := w 4, seed := w 5
    temp := bits (w 6) 63 32, topp := bits (w 6) 31 0
    topk := bits (w 7) 63 55, smode := bit (w 7) 54, expk := bits (w 7) 53 47, last := bits (w 7) 46 29
    cring := bits (w 7) 28 23, ttl := bits (w 8) 63 32, tag := bits (w 8) 31 0
    stop0 := bits (w 9) 63 45, stop1 := bits (w 9) 44 26, stop2 := bits (w 9) 25 7
    stop3 := bits (w 10) 63 45, scode := bits (w 10) 44 37, aseq := bits (w 10) 31 0
    prompt := w 11, parkAddr := w 12, expiry := w 13
    dpthead := bits (w 14) 63 32, dheld := bits (w 14) 31 28, lv := bit (w 14) 27
    emitpos := bits (w 15) 63 40, ev := bit (w 15) 39, wprop := bits (w 15) 31 20, wacc := bits (w 15) 19 8
    wgr := bits (w 15) 7 0 }

/-! ### The capture of a point (R456, R457) -/

/-- Frames of a mirrored entry that its point carries: (reference index or 0xFFFFF000 + q, reference). -/
def State.pointFrames (s : State) (e : Entry) : List (Nat × Nat) :=
  if !refV e.pthead ∨ e.state = .paused ∨ e.state = .parked then [] else
  let g := (s.model e.midx).kvgeo
  let br := geoBr g
  let states := ((s.stateRefs g e.pthead).zipIdx).map (fun p => (0xFFFFF000 + p.2, p.1))
  let b0 := e.mpos / geoTpp g
  let b1 := if e.w = 0 then 0 else (e.w - 1) / geoTpp g + 1
  let blocks := (List.range (b1 - b0)).flatMap (fun j =>
    ((s.blockRefs g e.pthead (b0 + j)).zipIdx).map (fun p => ((b0 + j) * br + p.2, p.1)))
  (states ++ blocks).filter (fun p => refV p.2)

/-- Capture one entry: its ENTRY, its FRAMEs in eighths as the frames stand, and a mirror pin on each frame. Answers
the pins and the number of FRAMEs. -/
def captureEntry (s : State) (g seq i : Nat) : State × List Nat :=
  let e := s.entry i
  let s := mirrorMsg s (.mirror g) 0x01 seq
    (leBytes 4 (s.handle i) ++ leBytes 4 e.w ++ leBytes 1 g ++ leBytes 7 0 ++ e.bytes)
  let frames := s.pointFrames e
  let s := frames.foldl (fun s p =>
    match fetchFrame (hpinInc s p.2) (.capture g seq (s.handle i) p.1) p.2 with
    | (s, some (bs, bad)) => mirrorFrame s g seq (s.handle i) p.1 bs bad
    | (s, none) => s) s
  (s, frames.map (·.2))

/-- The step number meets the mirror interval (R456). -/
def State.pointDue (s : State) (m : Mirror) (step : Nat) : Bool :=
  step % s.tw.interval == 0 || (m.seq != 0 && decide (s.tw.interval ≤ (step + 2 ^ 32 - m.at_) % 2 ^ 32))

/-- MIRROR_POINT: at the end of phase 4 of a group's boundary. Mirroring stands still while P15 is out of service. -/
def mirrorPoint (s : State) (g : Nat) : State :=
  let m := tget {} s.tw.mirrors g
  let step := s.stepNo g
  if !s.tw.paired ∨ s.tw.linkOff ∨ tget 0 s.img.gmods g ≠ 1 ∨ !s.pointDue m step then s
  else if m.busy then s.modTw fun t => { t with skip := count64 t.skip }
  else
    let seq := m.seq + 1
    let slots := (s.slotsWhere (fun e => s.grpOf e == g && !e.xfer)).filter s.mirrored
    let marks := slots.map (fun i => (s.handle i, (s.entry i).w))
    let (s, pins) := slots.foldl (fun (a : State × List Nat) i =>
      let (s, p) := captureEntry a.1 g seq i
      (s, a.2 ++ p)) (s, [])
    let s := mirrorMsg s (.pointEnd g) 0x03 seq
      (leBytes 1 g ++ leBytes 3 0 ++ leBytes 4 slots.length ++ leBytes 4 (8 * pins.length) ++ leBytes 4 step)
    let m : Mirror := { seq := seq, at_ := step, busy := true, pins := pins, marks := marks }
    s.modTw fun t => { t with mirrors := tset {} t.mirrors g m }

/-! ### Placing and installing a point on the twin (R459) -/

/-- A shadow of this module for a handle (log 53). -/
def State.shadowOf (s : State) (h : Nat) : Option Entry :=
  let e := s.entry (h % 65536)
  if e.shadow && e.state != .free && e.gen == h / 65536 then some e else none

/-- Blocks named by the frames that arrived for a handle. -/
def Landing.blocksFor (l : Landing) (h br : Nat) : List Nat :=
  ((l.frames.filter (fun f => f.1 == h && decide (f.2.1 < 0xFFFFF000))).map (fun f => f.2.1 / br)).eraseDups

/-- Tables and block frames that a page table lacks for a list of blocks. -/
def coverBlocks (s : State) (g grp head : Nat) (bs : List Nat) : State × Option Unit :=
  bs.foldl (fun (a : State × Option Unit) b =>
    match a with
    | (s, none) => (s, none)
    | (s, some _) => coverBlock s g grp head b) (s, some ())

/-- PM allocates what one entry of a point needs; nothing when its pools fall short. -/
def placeEntry (s : State) (grp : Nat) (l : Landing) (h : Nat) (e : Entry) : State × Option (Option (Nat × List Nat)) :=
  let g := (s.model e.midx).kvgeo
  let blocks := l.blocksFor h (geoBr g)
  orNothing s <|
    match s.shadowOf h with
    | some sh =>
      if refV sh.pthead then
        match coverBlocks s g grp sh.pthead blocks with
        | (s, some _) => (s, some none)
        | (s, none) => (s, none)
      else (s, some none)
    | none =>
      match allocSequence s g grp 1 with
      | (s, none) => (s, none)
      | (s, some root) =>
        match allocEach s (geoHome g) grp (geoNstate g) with
        | (s, none) => (s, none)
        | (s, some spare) =>
          match coverBlocks s g grp root blocks with
          | (s, some _) => (s, some (some (root, spare)))
          | (s, none) => (s, none)

/-- Every packet of the point has arrived. -/
def Landing.whole (l : Landing) : Bool :=
  l.ended.isSome && l.entries.length == l.entryN && l.frames.length == l.frameN && !l.gone

/-- Place a group's point, if it has arrived whole: an entry whose frames PM cannot supply is deferred. -/
def placePoint (s : State) (g : Nat) : State :=
  let l := tget {} s.tw.landings g
  if !l.whole ∨ l.placed then s else
  let (s, l) := l.entries.foldl (fun (a : State × Landing) p =>
    let (s, l) := a
    match placeEntry s g l p.1 (entryOfBytes p.2.2) with
    | (s, some none) => (s, l)
    | (s, some (some r)) => (s, { l with roots := l.roots ++ [(p.1, r)] })
    | (s, none) =>
      (s.modTw fun t => { t with defer_ := count64 t.defer_ },
       { l with entries := l.entries.filter (fun q => q.1 != p.1), entryN := l.entryN - 1
                frames := l.frames.filter (fun f => f.1 != p.1)
                frameN := l.frameN - (l.frames.filter (fun f => f.1 == p.1)).length })) (s, l)
  s.modTw fun t => { t with landings := tset {} t.landings g { l with placed := true } }

/-- Write bytes of a frame, here or on a peer. -/
def putPart (s : State) (r off : Nat) (bs : List Byte) (poison : Bool) : State :=
  if s.refLocal r then frameWrite s r off bs poison
  else pmAsk s (.pm (refDie r) 0) 2 r off bs.length 0 bs poison

/-- Write 1,024 B of one eighth of a frame; the words that came as poison are stored poisoned. -/
def putEighth (s : State) (r k : Nat) (bs : List Byte) (bad : List Nat) : State :=
  bad.foldl (fun s w => putPart s r (1024 * k + 8 * w) ((bs.drop (8 * w)).take 8) true) (putPart s r (1024 * k) bs false)

/-- A point of `p` reflects a command forwarded while `q` was the last point taken: a CANCEL or PARK recorded before its
cut has been applied; a RESTORE when the entry is no longer PARKED (R461). -/
def reflected (p : Nat) (e : Entry) (f : Nat × Nat × List Byte) : Bool :=
  let d := (p + 2 ^ 24 - f.1) % 2 ^ 24
  decide (1 ≤ d ∧ d ≤ 2 ^ 23) && (f.2.1 != 0x0043 || e.state != .parked)

/-- The next prefill grant begins with LAST: the 128 B do not tell for a continuation that waits for its first grant,
and the flag is then a free value (log 16). -/
def ownFirstOf (s : State) (e : Entry) : State × Bool :=
  if e.state = .queued ∧ !e.fresh ∧ e.ngen = 0 ∧ e.pdone < e.plen then
    let (n, s) := s.fresh
    (s, Config.ownFirst n)
  else (s, false)

/-- Write one entry's data and install its shadow (log 50). -/
def installEntry (s : State) (l : Landing) (h w : Nat) (bs : List Byte) : State :=
  let i := h % 65536
  let new := entryOfBytes bs
  let old := s.shadowOf h
  let place : Nat × List Nat := match old with
    | some o => (o.pthead, o.spare)
    | none => ((l.roots.find? (fun r => r.1 == h)).map (·.2)).getD (0, [])
  let root := place.1
  let spare := place.2
  let g := (s.model new.midx).kvgeo
  let mine := l.frames.filter (fun f => f.1 == h)
  let s := mine.foldl (fun s f =>
    let r := if 0xFFFFF000 ≤ f.2.1 then (spare[f.2.1 - 0xFFFFF000]?).getD 0 else s.refAt g root f.2.1
    if refV r then putEighth s r f.2.2.1 f.2.2.2.1 f.2.2.2.2 else s) s
  let swaps := mine.any (fun f => decide (0xFFFFF000 ≤ f.2.1))
  let active := s.stateRefs g root
  let s := if swaps then (spare.zipIdx).foldl (fun s p => setPageRef s root p.2 p.1) s else s
  let (s, own) := ownFirstOf s new
  let keep := (match old with | some o => o.forwards | none => []).filter (fun f => !reflected l.seq new f)
  s.modEntry i fun _ => { new with
    shadow := true, pthead := root, spare := if swaps then active else spare, mpos := w, ownFirst := own, forwards := keep
    freed := (match old with | some o => o.freed | none => false)
    pointSeq := l.seq, pointStep := l.step
    emitpos := (match old with | some o => o.emitpos | none => new.emitpos)
    ev := (match old with | some o => o.ev | none => new.ev) }

/-- Mirror intervals by which a shadow's point lies behind a step of its group. -/
def State.behind (s : State) (step : Nat) (e : Entry) : Nat := (step + 2 ^ 32 - e.pointStep) % 2 ^ 32 / s.tw.interval

/-- The group has reached a step: MIRROR_LAG, logged as every twin event, for each shadow whose point has now fallen more than
four intervals behind (R459, R452) (log 50). -/
def lagCheck (s : State) (g step : Nat) : State :=
  let prev := tget step s.tw.stepAt g
  let s := s.modTw fun t => { t with stepAt := tset 0 t.stepAt g step }
  (s.slotsWhere (fun e => e.shadow && e.state != .free && s.grpOf e == g)).foldl (fun s i =>
    let e := s.entry i
    if 4 < s.behind step e ∧ s.behind prev e ≤ 4 then
      raise (logErr s { kind := 8, cause := 0x86 }) 0x86 0
        (leBytes 4 (s.handle i) ++ leBytes 1 g ++ leBytes 3 0 ++ leBytes 4 (s.behind step e))
    else s) s

/-- Install a placed point as one change and answer its POINT_END (log 50). -/
def installPoint (s : State) (g : Nat) : State :=
  let l := tget {} s.tw.landings g
  match l.placed, l.ended with
  | true, some (src, tag, tgen) =>
    let s := (l.entries.filter (fun e => !l.drop.contains e.1)).foldl (fun s e => installEntry s l e.1 e.2.1 e.2.2) s
    let s := dropLanding s { l with roots := l.roots.filter (fun r => l.drop.contains r.1) }
    let s := s.modTw fun t => { t with landings := tset {} t.landings g { seq := l.seq }, pointAt := tset 0 t.pointAt g l.seq }
    respond s twinDie src 0x04 1 0 tag tgen
  | _, _ => s

/-- WACK of the twin engine, on IOD3. -/
def twinAck (s : State) (p : Packet) (st : Nat) : State := wackFrom s twinDie p st

/-! ### Adoption (R465, R467) -/

/-- A forwarded command applies to an adopted entry. -/
def applyForward (e : Entry) (f : Nat × Nat × List Byte) : Entry :=
  let pl := f.2.2
  if f.2.1 = 0x0041 then { e with came := e.state, state := .cancelling }
  else if f.2.1 = 0x0042 then { e with parkRec := some (fieldAt pl 8 8, fieldAt pl 16 8, fieldAt pl 4 4) }
  else if f.2.1 = 0x0043 then { e with restoreRec := true }
  else e

/-- A shadow becomes active. -/
def Entry.adopt (e : Entry) : Entry :=
  let e := { e with shadow := false, depth := 0, dpthead := 0, dheld := 0, lv := false, wprop := 0, wacc := 0, wgr := 0
                    drafts := [] }
  e.forwards.foldl applyForward { e with forwards := [] }

/-- FENCE and GUEST_RELEASE (Table 16-7) (log 52). -/
def adoptMessages (s : State) : State :=
  let lost := s.tw.mid
  let fence := leBytes 2 s.id.mid ++ leBytes 6 0
  let s := ctrlOn s (15 + 0x1E * 32) lost 0x32 fence
  let s := ctrlOn s s.tw.alt lost 0x32 fence
  (List.range 8).foldl (fun s t =>
    let m := lost / 8 * 8 + t
    if m = lost then s else
    match s.pathOf m with
    | some p => ctrlOn s p m 0x33 (leBytes 2 lost ++ leBytes 6 0)
    | none => s) s

/-- ADOPTION in phase 5 of a group. The pairing ends with the first adopting boundary (log 52). -/
def adoptGroup (s : State) (g : Nat) : State :=
  if !s.tw.adopting.contains g then s else
  let slots := s.slotsWhere (fun e => e.shadow && e.state != .free && s.grpOf e == g)
  let first := !s.tw.sentFence
  let s := if first then (abandonPoints s).modTw fun t => { t with paired := false, ownHalf := true, sentFence := true } else s
  let s := slots.foldl (fun s i => s.modEntry i Entry.adopt) s
  let s := s.modTw fun t => { t with adopting := t.adopting.filter (· != g) }
  if first then
    raise (logErr (adoptMessages s) { kind := 8, cause := 0x84 }) 0x84 0 (leBytes 4 slots.length ++ leBytes 1 g)
  else s

/-- The shadows of this module are to be freed at the next phase 3 of their groups (R453). -/
def freeShadows (s : State) : State :=
  (s.slotsWhere (fun e => e.shadow)).foldl (fun s i => s.modEntry i fun e => { e with freed := true }) s

/-- The pairing ends (R453). -/
def endPairing (s : State) : State :=
  if s.tw.paired then
    let s := freeShadows (abandonPoints s)
    s.modTw fun t => { t with paired := false, asking := false, linkOff := false, mirrors := [] }
  else s

end Sys2Proof.Machine
end

