-- ==== Sys2Proof/Machine/Boundary.lean ====
section
/-! DEFINITION. The work of a step boundary, phases 1 to 7 of Table 4-4 (R121, R122): commit (R288, R289, R294, R312,
R314, R316), cancellation (R290), reclamation (R252), table updates (R276, R298-R300), adoption (R465), the epoch switch
(R372) and lane fill (R277-R281, R305, R306). -/

namespace Sys2Proof.Machine

/-- An entry belongs to the group and is no shadow. -/
def State.activeIn (s : State) (g : Nat) (e : Entry) : Bool := e.state != .free && !e.shadow && s.grpOf e == g

/-- Slots of the group's entries, ascending. -/
def State.slotsOf (s : State) (g : Nat) (p : Entry → Bool) : List Nat :=
  s.slotsWhere (fun e => s.activeIn g e && p e)

/-! ### Quantisation windows (R191, R192) -/

/-- One point advances its window; the share of a window that drifted. -/
def QPoint.advance (q : QPoint) : QPoint × Option Nat :=
  if q.win = 0 then (q, none) else
  let q := { q with wsteps := q.wsteps + 1 }
  if q.wsteps = q.win then
    let drift := decide (0 < q.wtotal ∧ q.thresh * q.wtotal < q.wclip * 65536)
    ({ q with wsteps := 0, wclip := 0, wtotal := 0 },
     if drift then some (min 65535 (q.wclip * 65536 / q.wtotal)) else none)
  else (q, none)

/-- Every point of one tile advances. -/
def tileWindows (s : State) (step k : Nat) : State :=
  (s.tile k).qp.foldl (fun s p =>
    let (q, share) := p.2.advance
    let s := s.modTile k fun t => { t with qp := tset {} t.qp p.1 q }
    match share with
    | some sh => raise s 0x15 0 (leBytes 1 (k / 256) ++ leBytes 1 (k % 256) ++ leBytes 1 p.1 ++ leBytes 1 (b2n q.mvalid) ++
        leBytes 2 q.model ++ leBytes 2 sh ++ leBytes 4 step)
    | none => s) s

/-- QUANT_WINDOW_CLOSE of a group's tiles, by die, tile and point. -/
def quantWindows (s : State) (g step : Nat) : State :=
  ((s.tiles.map (·.1)).filter (fun k => s.groupOf (k / 256) == some g && s.bound (k / 256) (k % 256))).foldl
    (fun s k => tileWindows s step k) s

/-! ### Phase 1: commit -/

/-- A record or an export of a position already emitted by the lost twin is suppressed (R467). -/
def Entry.suppressed (e : Entry) (p : Nat) : Bool := e.ev && decide (p ≤ e.emitpos)

/-- The bytes of an export record (Table 9-12) (log 45). -/
def State.exportBytes (s : State) (i step pos token : Nat) (cands : List (Nat × BitVec 32)) : List Byte :=
  let e := s.entry i
  let cs := cands.take e.expk
  let l0 := Fp.flush (((cs[0]?).map (·.2)).getD 0)
  let sum := cs.foldl (fun acc x => Fp.add acc (Fp.exp (Fp.sub (Fp.flush x.2) l0))) Fp.zero
  let lsek := if cs.isEmpty then Fp.negInf else Fp.add l0 (Fp.ln sum)
  let bs := leBytes 4 (s.handle i) ++ leBytes 4 pos ++ leBytes 4 token ++ leBytes 1 cs.length ++
    leBytes 1 (b2n (maskKind e.maskh != 0)) ++ leBytes 2 0 ++ leBytes 4 step ++ leBytes 4 lsek.toNat ++
    leBytes 4 e.tag ++ leBytes 4 0 ++ cs.flatMap (fun x => leBytes 4 x.2.toNat ++ leBytes 4 x.1)
  padTo ((bs.length + 31) / 32 * 32) bs

/-- Write an export record at the ring's tail, wrapping; without room it is dropped (R294, R295). -/
def exportRecord (s : State) (bs : List Byte) : State :=
  let v := s.sv
  let used := (v.expTail + v.expSize - v.expHead) % v.expSize
  if !v.expEn ∨ v.expSize < 64 ∨ v.expSize - 32 < used + bs.length then
    s.modSv fun v => { v with expDrop := count64 v.expDrop }
  else
    let first := min bs.length (v.expSize - v.expTail)
    let s := hostPut s (v.expBase + v.expTail) (bs.take first)
    let s := hostPut s v.expBase (bs.drop first)
    s.modSv fun v => { v with expTail := (v.expTail + bs.length) % v.expSize, expLast := bs.length }

/-- The end cause that committing token `t` gives an entry that now counts it: STOP, MAXNEW or LIMIT (R288). -/
def State.tokenEnd (s : State) (e : Entry) (t : Nat) : Option Nat :=
  if [e.stop0, e.stop1, e.stop2, e.stop3].any (fun st => bit st 18 && bits st 17 0 == t) then some 2
  else if e.ngen = e.maxnew then some 1
  else if e.npos = s.limp e then some 5
  else none

/-- Commit one token: counts, grammar, records. -/
def commitToken (s : State) (i step t : Nat) (cands : List (Nat × BitVec 32)) : State × Option Nat :=
  let p := (s.entry i).npos
  let s := s.modEntry i fun e => { e with
    ngen := e.ngen + 1, last := t, gstate := (s.masksOf e).gramStep e.maskh e.gstate t }
  let e := s.entry i
  let s := if e.suppressed p then s else
    let s := tokenRecord s i 1 step p t
    if e.expk = 0 then s else exportRecord s (s.exportBytes i step p t cands)
  (s, s.tokenEnd e t)

/-- Commit decided tokens in ascending position until one ends the turn; row `r` holds the candidates of the first. -/
def commitTokens (s : State) (i step : Nat) (g : Grant) : Nat → List Nat → State × Option Nat
  | _, [] => (s, none)
  | r, t :: ts =>
    match commitToken s i step t (g.row r).cands with
    | (s, some c) => (s, some c)
    | (s, none) => commitTokens s i step g (r + 1) ts

/-- The state that END gives a turn (Table 9-3). -/
def Entry.endState (e : Entry) (cause : Nat) : EState :=
  if 1 ≤ cause ∧ cause ≤ 3 ∧ e.keep ∧ !e.late then .paused else .done

/-- A turn ends in phase 1. A CANCELLING entry waits for phase 2 to complete it with CANCEL_LATE (R290). -/
def endTurn (s : State) (i step cause code : Nat) : State :=
  let e := s.entry i
  let next := e.endState cause
  let s := s.modEntry i fun e => { e with
    end_ := cause, scode := code, ended := true, staged := [], badInput := false
    parkRec := if next = .done then none else e.parkRec }
  let s := if next = .done then releaseFrames s i else s
  if e.state = .cancelling then s
  else endRecord (s.modEntry i fun e => { e with state := next }) i step

/-- Count a verifying grant (R314): proposed, accepted, filler and drawn drafts. -/
def countVerify (s : State) (i midx d r a n : Nat) : State :=
  let cap (n k : Nat) : Nat := min (n + k) (2 ^ 48 - 1)
  let s := s.modSv fun v => { v with counts := tmod {} v.counts midx fun c =>
    { c with verifies := cap c.verifies 1, proposed := cap c.proposed r, accepted := cap c.accepted a
             fillers := cap c.fillers (d - r), drawn := cap c.drawn n } }
  if (s.entry i).wgr = 255 then
    let (n, s) := s.fresh
    let w := (Config.windowOver n).toNat
    s.modEntry i fun e => { e with wprop := bits w 31 20, wacc := bits w 19 8, wgr := bits w 7 0 }
  else s.modEntry i fun e => { e with wprop := e.wprop + r, wacc := e.wacc + a, wgr := e.wgr + 1 }

/-- GOVERNOR_WINDOW_CLOSE (R316). -/
def closeWindow (s : State) (i midx : Nat) : State :=
  let v := tget 0 s.sv.gov midx
  let e := s.entry i
  if govWin v = 0 ∨ e.wgr ≠ govWin v then s else
  let s := if 0 < e.wprop ∧ e.depth ≠ 0 then
      let share := e.wacc * 256 / e.wprop
      let new := if share < govLo v then e.depth - 1 else if govHi v ≤ share then e.depth + 1 else e.depth
      s.modEntry i fun e => { e with depthRec := some (min (max new (govMin v)) (govMax v)) }
    else s
  s.modEntry i fun e => { e with wprop := 0, wacc := 0, wgr := 0 }

/-- The draft lane of a main lane. -/
def State.draftGrant (s : State) (midx lane : Nat) : Option Grant :=
  match (s.model midx).draftOf with
  | some d => match s.grantAt d lane with
    | some g => if g.isDraft ∧ g.kind = 2 then some g else none
    | none => none
  | none => none

/-- The cut comes before the decision is made: the base request is answered with FN = 0 (R311). -/
def lateBase (s : State) (midx lane : Nat) : State :=
  match s.draftGrant midx lane with
  | some g =>
    let r := g.row 0
    if r.tiles.isEmpty ∨ r.fed then s
    else feedDone (writeFeed s r (feedBytes 0 0 0 0 0)) ((s.model midx).draftOf.getD 0) lane g 0 none
  | none => s

/-- E14 after a main decode grant's commit (R312). -/
def setDrafts (s : State) (i midx lane : Nat) (ended : Bool) : State :=
  match ended, s.draftGrant midx lane with
  | false, some g =>
    let held := g.draftTokens g.d
    s.modEntry i fun e => { e with dheld := held.length, drafts := held, lv := (g.row 0).drawn.isSome }
  | _, _ => s.modEntry i fun e => { e with dheld := 0, drafts := [], lv := false }

/-- Prefill part of a grant's commit: PDONE, PROMPT and the staged tokens (R275, R276). -/
def commitPrefill (s : State) (i : Nat) (g : Grant) : State :=
  s.modEntry i fun e =>
    let own := if e.ownFirst then 1 else 0
    let done := e.pdone + g.ntok
    { e with
      pdone := done, prompt := e.prompt + 4 * (g.ntok - own), ownFirst := false, staged := []
      dheld := 0, drafts := [], lv := false
      state := if e.state = .prefill ∧ e.plen ≤ done then .decode else e.state }

/-- MASK_EMPTY and SERVE_ERROR(COVER) name the position the row's token would take (log 57). -/
def rowEnd (s : State) (i cause pos : Nat) : State :=
  if cause = 4 then raise s 0x21 0 (leBytes 4 (s.handle i) ++ leBytes 4 pos)
  else if cause = 9 then serveError s i 1 pos
  else s

/-- Commit the decided tokens of a sampling grant and what stopped the decision: the end cause, if any. -/
def commitSampled (s : State) (i step midx lane : Nat) (g : Grant) : State × Option Nat :=
  let s := if (s.gauntlet (s.entry i) g false).waiting then lateBase s midx lane else s
  let d := s.gauntlet (s.entry i) g true
  let (s, c) := commitTokens s i step g 0 d.tokens
  let a := if d.ends.isSome then d.tokens.length else d.tokens.length - 1
  let s := if g.kind = 2 ∧ 1 ≤ g.d then
      let drawn := match s.draftGrant midx lane with | some x => (x.draftTokens x.d).length | none => 0
      closeWindow (countVerify s i midx g.d (min g.d g.dheld) (min a g.d) drawn) i midx
    else s
  match c, d.ends with
  | some c, _ => (s, some c)
  | none, some c => (rowEnd s i c (g.pos0 + g.ntok - g.d + d.tokens.length), some c)
  | none, none => (s, none)

/-- COMMIT of one filled main lane (R288) (log 57). -/
def commitGrant (s : State) (step midx lane : Nat) (g : Grant) : State :=
  let i := g.slot
  let s := s.modEntry i fun e => { e with fresh := false }
  let s := if g.kind = 1 then commitPrefill s i g else s
  let (s, c) := if g.sample then commitSampled s i step midx lane g
    else
      let e := s.entry i
      (s, if e.plen ≤ e.pdone ∧ e.maxnew = 0 then some 1 else none)
  let stop := tget 0 s.sv.sstops (midx * 32 + lane)
  let (c, code) := match c with
    | some c => (some c, 0)
    | none => if stop ≠ 0 then (some 3, stop - 1) else (none, 0)
  let s := if g.kind = 2 then setDrafts s i midx lane c.isSome else s
  match c with
  | some c => endTurn s i step c code
  | none => s

/-- Main lanes filled for a group: (slot, resident index, lane, grant). -/
def State.mainGrants (s : State) (g : Nat) : List (Nat × Nat × Nat × Grant) :=
  (s.sv.grants.filter (fun p => (s.model (p.1 / 32)).group == g && !p.2.isDraft)).map
    (fun p => (p.2.slot, p.1 / 32, p.1 % 32, p.2))

/-- Phase 1 of a group: grants and bad prompts in ascending slot; then the step number increments. -/
def phase1 (s : State) (g : Nat) : State :=
  let step := s.stepNo g
  let lanes := s.mainGrants g
  let bad := s.slotsOf g (fun e => e.badInput)
  let slots := sortBy (fun a b => decide (a < b)) ((lanes.map (·.1) ++ bad).eraseDups)
  let s := slots.foldl (fun s i =>
    match lanes.find? (fun l => l.1 == i) with
    | some (_, m, l, gr) => commitGrant s step m l gr
    | none => endTurn s i step 8 0) s
  let s := s.modSv fun v => { v with
    grants := v.grants.filter (fun p => (s.model (p.1 / 32)).group != g)
    sstops := v.sstops.filter (fun p => (s.model (p.1 / 32)).group != g) }
  s.modCe fun c => { c with step := tset 0 c.step g ((step + 1) % 2 ^ 32) }

/-! ### Phase 2: cancellation (R290) -/

/-- A cancelled request gives up its transfer: one still running goes on to its end. -/
def dropTransfer (s : State) (i : Nat) : State :=
  let e := s.entry i
  let geo := (s.model e.midx).kvgeo
  let orphan (s : State) : State :=
    s.modSv fun v => { v with orphans := v.orphans ++ [⟨i, s.grpOf e, geo, e.parkAddr, e.transfer⟩] }
  let s := match e.transfer with
    | .collecting _ _ _ _ => orphan s
    | .writing _ _ => orphan s
    | .reading _ => orphan s
    | .read root => releaseTable s geo root
    | .readFailed root => releaseTable s geo root
    | .written pins => pins.foldl hpinDec s
    | .writeFailed pins => pins.foldl hpinDec s
    | .none => s
  s.modEntry i fun e => { e with transfer := .none, xfer := false, parkRec := none, restoreRec := false, staged := [] }

/-- CANCEL_APPLY of one entry: completion wins over a cancellation. -/
def cancelOne (s : State) (step i : Nat) : State :=
  let late := (s.entry i).ended
  let s := dropTransfer s i
  let s := releaseFrames s i
  let s := s.modEntry i fun e =>
    if late then { e with state := .done, late := true }
    else { e with state := .done, end_ := 6, ended := true }
  endRecord s i step

/-- Phase 2 of a group. -/
def phase2 (s : State) (g step : Nat) : State :=
  (s.slotsOf g (fun e => e.state == .cancelling)).foldl (fun s i => cancelOne s step i) s

/-! ### Phase 3: free -/

/-- Phase 3 of a group: DONE entries of earlier boundaries and freed shadows become FREE, frames are reclaimed. -/
def phase3 (s : State) (g : Nat) : State :=
  let s := (s.slotsOf g (fun e => e.state == .done && !e.ended)).foldl freeSlot s
  let s := (s.slotsWhere (fun e => e.shadow && e.freed && s.grpOf e == g)).foldl
    (fun s i => freeSlot (releaseFrames s i) i) s
  let s := reclaimGroup s g
  let s := s.tw.guests.foldl reclaimGuests s
  s.modTw fun t => { t with guests := [] }

/-! ### Phase 4: table updates -/

/-- A PARKED or RESTORED record: Table 9-9 gives its POS no meaning, and it holds a free value (log 18) (log 49). -/
def moveRecord (s : State) (i kind step : Nat) : State :=
  let (n, s) := s.fresh
  tokenRecord s i kind step (Config.recordPos n).toNat 0

/-- The first phase 4 after a transfer completes (R298, R300). -/
def finishTransfer (s : State) (i : Nat) : State :=
  let e := s.entry i
  let step := s.stepNo (s.grpOf e)
  match e.transfer with
  | .written _ =>
    let s := releaseFrames s i
    let s := s.modEntry i fun e => { e with
      xfer := false, transfer := .none, state := .parked, expiry := s.expiryOf e.ttl e.cls }
    moveRecord s i 3 step
  | .writeFailed pins =>
    let s := (pins.foldl hpinDec s).modEntry i fun e => { e with xfer := false, transfer := .none }
    serveError s i 3 e.npos
  | .read root =>
    let s := s.modEntry i fun e => { e with
      xfer := false, transfer := .none, pthead := root, state := if e.end_ = 0 then .queued else .paused }
    moveRecord s i 4 step
  | .readFailed root =>
    let s := releaseTable s (s.model e.midx).kvgeo root
    let s := s.modEntry i fun e => { e with xfer := false, transfer := .none }
    serveError s i 3 e.npos
  | _ => s

/-- The prefix slot a current prefix handle names (log 56). -/
def State.prefixOf (s : State) (h : Nat) : Option PrefixSlot :=
  let p := tget {} s.sv.prefixes (h % 65536)
  if h ≠ 0 ∧ p.live ∧ (s.sv.prefGen + p.gen) % 65536 = h / 65536 then some p else none

/-- Table frames with which a sequence starts. -/
def firstTables (g blocks : Nat) : Nat := max 1 ((blocks * geoBr g + 2047) / 2048)

/-- ADMISSION of one entry: its page tables, and its prefix attached; PROMPT names the first position that the module
fetches (R255, R275, R276, R305) (log 56). -/
def admitOne (s : State) (i : Nat) : State :=
  let e := s.entry i
  let m := s.model e.midx
  let g := m.kvgeo
  let pre := s.prefixOf e.prefH
  let blocks := match pre with | some p => p.blocks | none => 0
  let main := allocSequence s g m.group (firstTables g blocks)
  let both := orNothing s <|
    match main with
    | (s, none) => (s, none)
    | (s, some root) =>
      match (if e.depth = 0 then none else m.draftOf) with
      | none => (s, some (root, 0))
      | some d => match allocSequence s (s.model d).kvgeo m.group 1 with
        | (s, none) => (s, none)
        | (s, some droot) => (s, some (root, droot))
  match both with
  | (s, none) => s
  | (s, some (root, droot)) =>
    let refs := match pre with | some p => p.refs | none => []
    let s := (refs.zipIdx).foldl (fun s p => if refV p.1 then refInc (setRefAt s g root p.2 p.1) p.1 else s) s
    s.modEntry i fun e => { e with pthead := root, dpthead := droot, prompt := e.prompt + 4 * e.pdone }

/-- The states that have a PARK row in Table 9-5. -/
def Entry.parks (e : Entry) : Bool :=
  !e.xfer && (e.state == .queued || e.state == .prefill || e.state == .decode || e.state == .paused)

/-- PARK_WRITEOUT_START of one recorded PARK (R298, R305). -/
def parkOne (s : State) (i : Nat) : State :=
  let e := s.entry i
  match e.parkRec with
  | none => s
  | some (addr, len, ttl) =>
    let s := s.modEntry i fun e => { e with parkRec := none }
    let m := s.model e.midx
    if len < parkSize m e.cls e.w then serveError s i 5 e.w else
    let s := match m.draftOf with
      | some d => if refV e.dpthead then releaseTable s (s.model d).kvgeo e.dpthead else s
      | none => s
    let s := s.modEntry i fun e => { e with
      state := .paused, xfer := true, parkAddr := addr, ttl := if ttl = 0 then e.ttl else ttl, staged := [], retry := false
      depth := 0, dpthead := 0, dheld := 0, lv := false, drafts := [], depthRec := none }
    let g := m.kvgeo
    let pins := if refV e.pthead then
        (s.stateRefs g e.pthead ++ (List.range (blocksOf g e.w)).flatMap (s.blockRefs g e.pthead)).filter refV
      else []
    let (s, x) := parkXfer s i pins
    (pins.foldl hpinInc s).modEntry i fun e => { e with transfer := x }

/-- RESTORE_READIN_START of one recorded RESTORE: every frame or none (R300). -/
def restoreOne (s : State) (i : Nat) : State :=
  let e := s.entry i
  let m := s.model e.midx
  let g := m.kvgeo
  let nb := blocksOf g e.w
  match orNothing s (match allocSequence s g m.group (firstTables g nb) with
    | (s, none) => (s, none)
    | (s, some root) =>
      match coverBlocks s g m.group root (List.range nb) with
      | (s, some _) => (s, some root)
      | (s, none) => (s, none)) with
  | (s, some root) =>
    s.modEntry i fun e => { e with restoreRec := false, xfer := true, transfer := .reading root }
  | (s, none) => s

/-- DEPTH recorded by the governor. -/
def Entry.takeDepth (e : Entry) : Entry :=
  match e.depthRec with
  | some d => { e with depth := d, depthRec := none }
  | none => e

/-- ASEQ ascending among slots. -/
def State.byAseq (s : State) (l : List Nat) : List Nat :=
  sortBy (fun a b => seqBefore (s.entry a).aseq (s.entry b).aseq) l

/-- Phase 4 of a group (log 49). -/
def phase4 (s : State) (g : Nat) : State :=
  let s := (s.slotsOf g (fun e => e.xfer)).foldl finishTransfer s
  let s := (s.byAseq (s.slotsOf g (fun e => e.state == .queued && !refV e.pthead))).foldl admitOne s
  let s := (s.slotsOf g (fun e => e.parkRec.isSome && e.parks)).foldl parkOne s
  let s := (s.byAseq (s.slotsOf g (fun e => e.restoreRec && e.state == .parked && !e.xfer))).foldl restoreOne s
  let s := (s.slotsOf g (fun e => e.state == .parked)).foldl expireOne s
  let s := applyGt (applyTbl s g) g
  let s := (s.slotsOf g (fun e => e.depthRec.isSome)).foldl (fun s i => s.modEntry i Entry.takeDepth) s
  placePoint s g

/-! ### Phase 7: lane fill (R277-R281, R306) -/

/-- Candidates of a model, best first; what a candidate's PDONE must be. -/
def candLess (a b : Entry) : Bool :=
  if a.prio ≠ b.prio then decide (b.prio < a.prio)
  else if a.deadline ≠ b.deadline then
    (if a.deadline = 0 then false else if b.deadline = 0 then true else decide (a.deadline < b.deadline))
  else seqBefore a.aseq b.aseq

/-- The conditions of R277 on the entry. A CANCELLING entry is served like the state from which it came. -/
def State.candidate (_ : State) (midx : Nat) (e : Entry) : Bool :=
  let state := if e.state = .cancelling then e.came else e.state
  e.midx == midx && !e.shadow && !e.xfer && !e.ended && refV e.pthead &&
    (state == .queued || state == .prefill || state == .decode) &&
    (if e.pdone < e.plen then !e.staged.isEmpty else true)

/-- 1,024 or more token records wait for a ring (R478). -/
def State.ringStalled (s : State) (q : Nat) : Bool :=
  decide (1024 ≤ ((s.cqr q).wait.filter (fun e => e.sq.isNone)).length)

/-- The grant a lane would give an entry (R278). Where a term of D is negative, D is 0 (DESIGN CHOICE, log 126). -/
def State.grantFor (s : State) (midx i : Nat) (prefill : Bool) : Grant :=
  let e := s.entry i
  if prefill then
    let n := s.nextChunk e
    { slot := i, handle := s.handle i, pos0 := e.pdone, ntok := n, kind := 1
      sample := decide (e.plen ≤ e.pdone + n ∧ 1 ≤ e.maxnew), fresh := e.fresh, head := e.pthead
      limit := e.pdone + n, tokens := e.staged.take n }
  else
    let d := min e.depth (min (e.maxnew - e.ngen - 1) ((s.model midx).kvgeo |> geoLimp |> (· - e.npos - 1)))
    let held := (List.range d).map (fun j => (e.drafts[j]?).getD 0)
    { slot := i, handle := s.handle i, pos0 := e.npos - 1, ntok := d + 1, d := d, kind := 2, sample := true
      fresh := e.fresh, head := e.pthead, limit := e.npos + d, tokens := e.last :: held, dheld := e.dheld }

/-- The draft lane's grant beside a main grant (Table 10-2). -/
def State.draftFor (s : State) (dm i : Nat) (g : Grant) : Grant :=
  let e := s.entry i
  if g.kind = 1 then { g with head := e.dpthead, sample := false, d := 0, isDraft := true }
  else
    let lim := min (e.npos + 2 * e.depth + 1) (geoLimp (s.model dm).kvgeo)
    { g with head := e.dpthead, d := e.depth, ntok := e.depth + 2, fresh := false, pos0 := e.npos - 1, limit := lim
             tokens := [], dheld := 0, isDraft := true }

/-- Round up to a multiple of 16. -/
def up16 (n : Nat) : Nat := (n + 15) / 16 * 16

/-- Sampler entries in use. -/
def State.poolUsed (s : State) : Nat := (s.sv.grants.map (fun p => p.2.pool)).sum

/-- What became of one lane: filled, no room in the sampler, or short of frames at a home die. -/
inductive FillEnd where
  | filled | full | short (home : Nat)
  deriving DecidableEq, Repr

/-- Fill one lane with one entry (R279, R306, R249). -/
def fillLane (s : State) (midx lane i : Nat) (prefill : Bool) : State × FillEnd :=
  let e := s.entry i
  let m := s.model midx
  let g := s.grantFor midx i prefill
  let main := if g.sample then up16 ((g.d + 1) * e.k) else 0
  let dm := if 1 ≤ e.depth ∧ refV e.dpthead then m.draftOf else none
  let draft := if dm.isSome ∧ g.kind = 2 then up16 (e.depth * e.k) else 0
  if 4194304 < s.poolUsed + main + draft then
    (s.modSv fun v => { v with full := count64 v.full }, .full)
  else
    match coverGrant s m.kvgeo m.group g.head g.pos0 g.ntok with
    | (s', none) => (undoAlloc s s', .short (geoHome m.kvgeo))
    | (s1, some _) =>
      let done (s : State) : State :=
        (setGrant s midx lane { g with pool := main }).modEntry i fun e => { e with
          state := if e.state = .queued then (if e.pdone < e.plen then .prefill else .decode) else e.state }
      match dm with
      | none => (done s1, .filled)
      | some d =>
        let dg := s.draftFor d i g
        let geo := (s.model d).kvgeo
        match coverGrant s1 geo m.group dg.head dg.pos0 (dg.limit - dg.pos0) with
        | (s', none) => (undoAlloc s s', .short (geoHome geo))
        | (s2, some _) => (setGrant (done s2) d lane { dg with pool := draft }, .filled)

/-- Lanes left unfilled, by home die. -/
abbrev Shorts := Tbl Nat

/-- Fill a run of lanes with candidates, one each, in order. -/
def fillLanes (s : State) (midx : Nat) : Nat → List Nat → Nat → Shorts → State × Shorts
  | _, [], _, sh => (s, sh)
  | _, _, 0, sh => (s, sh)
  | lane, i :: is, n + 1, sh =>
    let e := s.entry i
    match fillLane s midx lane i (decide (e.pdone < e.plen)) with
    | (s, .short h) => fillLanes s midx (lane + 1) is n (tset 0 sh h (tget 0 sh h + 1))
    | (s, _) => fillLanes s midx (lane + 1) is n sh

/-- Fill the lanes of one model: decode lanes, then prefill lanes. -/
def fillModel (s : State) (midx : Nat) (sh : Shorts) : State × Shorts :=
  let m := s.model midx
  let all := s.slotsWhere (s.candidate midx)
  let (stalled, free) := all.partition (fun i => s.ringStalled (s.entry i).cring)
  let s := stalled.foldl (fun s i => s.modCq (s.entry i).cring fun c => { c with stall := count64 c.stall }) s
  let order := sortBy (fun a b => candLess (s.entry a) (s.entry b)) free
  let (pre, dec) := order.partition (fun i => decide ((s.entry i).pdone < (s.entry i).plen))
  if m.planes = 0 then fillLanes s midx 0 order m.lanes sh
  else
    let (s, sh) := fillLanes s midx 0 dec m.lanes sh
    fillLanes s midx m.lanes pre m.planes sh

/-- Resident indices of a group's models, ascending. -/
def State.modelsOf (s : State) (g : Nat) : List Nat := (s.sv.models.filter (fun e => e.2.group == g)).map (·.1)

/-- LANE_FILL: phase 7 of a group, with its lane tables, idle masks and PM_EXHAUSTED. -/
def phase7 (s : State) (g : Nat) : State :=
  let ms := s.modelsOf g
  let step := s.stepNo g
  let (s, sh) := ms.foldl (fun (a : State × Shorts) m => fillModel a.1 m a.2) (s, [])
  let idle := (s.sv.models.map (·.1)).filter (fun m => s.sv.grants.all (fun p => p.1 / 32 != m))
  let s := s.modSv fun v => { v with tabStep := ms.foldl (fun t m => tset 0 t m step) v.tabStep }
  let s := (s.groupDies g).foldl (fun s d => s.modDie d fun x => { x with idle := maskOf idle }) s
  sh.foldl (fun s h =>
    let s := s.modPm h.1 fun p => { p with exhausted := count64 p.exhausted h.2 }
    raise s 0x20 0 (leBytes 1 h.1 ++ leBytes 1 g ++ leBytes 2 0 ++ leBytes 4 step ++ leBytes 4 h.2)) s

/-! ### The boundary -/

/-- EPOCH_APPLY: a completed switch takes effect (R372). -/
def epochStep (s : State) : State := applyEpoch s

/-- The flags of one boundary are cleared. -/
def clearEnded (s : State) (g : Nat) : State :=
  (s.slotsOf g (fun e => e.ended)).foldl (fun s i => s.modEntry i fun e => { e with ended := false }) s

/-- Phases 1 to 7 of a group's boundary, from its cut (R121). -/
def boundary (s : State) (g : Nat) : State :=
  let step := s.stepNo g
  let s := quantWindows s g ((step + 1) % 2 ^ 32)
  let s := phase1 s g
  let s := phase2 s g step
  let s := phase3 s g
  let s := mirrorPoint (phase4 s g) g
  let s := epochStep (adoptGroup s g)
  clearEnded (phase7 s g) g

/-- Phases 4 and 7, which RUN performs (R123). -/
def firstFill (s : State) (g : Nat) : State := phase7 (phase4 s g) g

end Sys2Proof.Machine
end

