-- ==== Sys2Proof/Machine/Fabric.lean ====
section
/-! DEFINITION. The fabric: links (R347-R350), routing (R355-R358), multicast and reduction (R362-R364), transactions
(R365-R368, R375), the epoch handshake (R369-R373), and ports as they train (R374, R515). -/

namespace Sys2Proof.Machine

/-! ### Codes of control messages that the spec does not number (log 13) -/

def ctlNeighbour : Nat := 0x01
def ctlJoin : Nat := 0x02
def ctlCount : Nat := 0x03
def ctlLoad : Nat := 0x05
def ctlLoaded : Nat := 0x06
def ctlDone : Nat := 0x07
def ctlAbort : Nat := 0x08

/-- A control message to a module along the path table, or to this module itself; not answered (log 48). -/
def ctrlTo (s : State) (dst code : Nat) (data : List Byte) : State :=
  if dst = s.id.mid then ctrlOn s 0x1E dst code data
  else match s.pathOf dst with
    | some path => ctrlOn s path dst code data
    | none => s

/-! ### Malformed packets (R355, Table 12-6) -/

/-- LEN and VC agree with TYPE (log 32). -/
def Packet.formOk (p : Packet) : Bool :=
  match p.type with
  | 0x01 => p.vc == 0 && decide (8 ≤ p.len ∧ p.len ≤ 2048) && p.len % 8 == 0
  | 0x02 => p.vc == 0 && p.len == 0
  | 0x03 => p.vc == 1
  | 0x04 => p.vc == 1 && p.len == 0
  | 0x05 => (p.vc == 0 || p.vc == 2) && decide (64 ≤ p.len) && p.len % 64 == 0
  | 0x06 => (p.vc == 0 || p.vc == 2) && decide (64 ≤ p.len) && p.len % 64 == 0
  | 0x07 => (p.vc == 0 || p.vc == 2) && decide (64 ≤ p.len) && p.len % 64 == 0 && p.aux / 2 ^ 25 == 0
  | 0x08 => (p.vc == 0 || p.vc == 2) && p.len % 64 == 0
  | 0x09 => p.vc == 1 && p.len == 0
  | 0x0A => p.vc == 0 && p.len == 64
  | 0x0B => p.vc == 3 && p.len == 0
  | 0x0C => p.vc == 2
  | 0x0D => p.vc == 2
  | 0x0E => p.vc == 3 && decide (p.len ≤ 256)
  | _ => false

def Packet.malformed (p : Packet) : Bool :=
  let c := p.code p.hop
  decide (2048 < p.len) || !p.formOk || p.resv != 0 || decide (0x10 ≤ c ∧ c ≤ 0x1D) || (decide (c ≤ 15) && p.hop == 15)

/-! ### Delivery -/

/-- Lines of a packet, with their indices. -/
def Packet.lines (p : Packet) : List (Nat × List Byte) :=
  (List.range (p.len / 64)).map fun j => (bits p.aux 24 14 + j, (p.data.drop (64 * j)).take 64)

/-- The delivery that a line of another module belongs to: an open one that lacks the line, or a new one (R330). -/
def openDlv (s : State) (src tile ch nl i : Nat) : State × Nat :=
  let mine (o : OpenDlv) : Bool := o.src == src && o.tile == tile && o.ch == ch && o.nl == nl && !o.seen.contains i
  match s.net.opens.find? mine with
  | some o =>
    let o' := { o with seen := o.seen ++ [i] }
    let rest := s.net.opens.map (fun p => if p.dlv = o.dlv ∧ p.tile = o.tile then o' else p)
    ({ s with net := { s.net with opens := rest.filter (fun p => decide (p.seen.length < p.nl)) } }, o.dlv)
  | none =>
    let d := s.net.nextId
    let o : OpenDlv := { src := src, tile := tile, ch := ch, nl := nl, seen := [i], dlv := d }
    ({ s with net := { s.net with nextId := d + 1
                                  opens := if nl ≤ 1 then s.net.opens else s.net.opens ++ [o] } }, d)

/-- Lines of a packet on their way, from the die `node` where it entered the module, to tiles of this module. -/
def lineIn (s : State) (node : Nat) (p : Packet) (tiles : List Nat) (req : Option (Nat × Nat × Nat)) : State :=
  tiles.foldl (fun s k => p.lines.foldl (fun s l =>
    let ch := bits p.aux 2 0
    let nl := bits p.aux 13 3
    let (s, d) := openDlv s p.src k ch nl l.1
    let x : NxLine := { dst := siteOf k, ch := ch, k := l.1, nl := nl, data := l.2
                        poison := p.badIn (64 * (l.1 - bits p.aux 24 14)) 64, dlv := d
                        send := none, req := req, node := node }
    { s with net := { s.net with lines := s.net.lines ++ [x] } }) s) s

/-- SACK of a packet, from the die it entered the module at (log 37). -/
def sack (s : State) (node : Nat) (p : Packet) (status : Nat) : State := respond s node p.src 0x09 1 status p.tag p.tgen

/-- ADDR with this module's SLOT in place of [47:45], which are ignored (Table 12-5). -/
def State.ownGa (s : State) (a : Nat) : Nat := s.id.slot * 2 ^ 45 + a % 2 ^ 45

def deliverWrite (s : State) (node : Nat) (p : Packet) : State :=
  let ga := s.ownGa p.addr
  let k := gaDie ga * 256 + gaBlock ga
  let bs := (cutLines (p.len / 8 + 1) ga p.len).map fun c =>
    ({ op := .write, ga := c.1, loc := 0, len := c.2, data := (p.data.drop (c.1 - ga)).take c.2
       poison := p.badIn (c.1 - ga) c.2, st := .out } : Beat)
  peerTxn s node p bs (if bit p.aux 5 ∧ gaSpace ga = 0 then some (k, bits p.aux 4 0) else none)

def deliverRead (s : State) (node : Nat) (p : Packet) : State :=
  let ga := s.ownGa p.addr
  let n := bits p.aux 11 0
  let bs := (cutLines (n / 8 + 1) ga n).map fun c =>
    ({ op := .read, ga := c.1, loc := 0, len := c.2, data := [], poison := false, st := .out } : Beat)
  if n = 0 then respond s node p.src 0x03 1 0 p.tag p.tgen else peerTxn s node p bs none

/-- An ATOM. Its lane mask is empty only for a scatter-add that masks every element off: nothing is added, and the arrival
counter it carries counts (R225). -/
def deliverAtom (s : State) (node : Nat) (p : Packet) : State :=
  let ga := s.ownGa p.addr
  let k := gaDie ga * 256 + gaBlock ga
  let lanes := (List.range 16).filter (bit p.aux)
  let bs := lanes.map fun l =>
    ({ op := .add, ga := ga / 64 * 64 + 4 * l, loc := 0, len := 4, data := (p.data.drop (4 * l)).take 4
       poison := p.badIn (4 * l) 4, st := .out } : Beat)
  if lanes.isEmpty then
    if !s.bound (gaDie ga) (gaBlock ga) then wackFrom s node p stParam
    else wackFrom (if bit p.aux 21 then bumpAc s k (bits p.aux 20 16) else s) node p stOk
  else peerTxn s node p bs (if bit p.aux 21 then some (k, bits p.aux 20 16) else none)

def deliverSend (s : State) (node : Nat) (p : Packet) : State :=
  let ga := s.ownGa p.addr
  if s.bound (gaDie ga) (gaBlock ga) then
    lineIn s node p [gaDie ga * 256 + gaBlock ga] (some (p.src, p.tag, p.tgen))
  else sack s node p stParam

/-- Bound tiles of DIEMASK and of the rectangle that an MCAST names. -/
def State.mcastTiles (s : State) (p : Packet) : List Nat :=
  let rect := bits p.addr 39 24
  let r : Route := { path := 0, dst := 0, mgrp := 0, vch := 0, npart := 0, tile := 0, rowA := rect / 4096
                     rowB := rect / 256 % 16, colA := rect / 16 % 16, colB := rect % 16, dies := 0, die := 0, slot := 0
                     kind := 4, resv := 0 }
  ((List.range 8).filter (fun d => bit p.addr (40 + d))).flatMap fun d => (s.rectTiles d r).map (d * 256 + ·)

def deliverMcast (s : State) (node : Nat) (p : Packet) : State :=
  let ts := s.mcastTiles p
  if ts.isEmpty then sack s node p 0 else lineIn s node p ts (some (p.src, p.tag, p.tgen))

/-- A final sum, or the notice that a reduction was discarded, at the contributors that await it longest. They await it
until all its lines are here (R364). -/
def deliverSum (s : State) (node : Nat) (p : Packet) : State :=
  let sets := tget [] s.fab.awaiting p.mgrp
  match sets with
  | [] => sack s node p 0
  | first :: rest =>
    let tiles := first.map (·.1)
    let got := tget 0 s.fab.sumGot p.mgrp + p.lines.length
    let whole := p.len == 0 || decide (bits p.aux 13 3 ≤ got)
    let s := s.modFab fun f => { f with
      awaiting := if whole then tset [] f.awaiting p.mgrp rest else f.awaiting
      sumGot := tset 0 f.sumGot p.mgrp (if whole then 0 else got) }
    if p.len = 0 then sack (tiles.foldl (fun s k => faultAt s k (s.tile k).pc .other .channel) s) node p 0
    else if tiles.isEmpty then sack s node p 0
    else lineIn s node p tiles (some (p.src, p.tag, p.tgen))

/-- Lines of a partial sum of a child; when all of them are here, the contribution is whole (R364). -/
def deliverPartial (s : State) (p : Packet) (port : Nat) : State :=
  let key := p.mgrp * 16 + port
  let nl := bits p.aux 13 3
  let parts := s.fab.parts ++ [(key, p)]
  let mine := (parts.filter (fun e => e.1 == key)).map (·.2)
  let lines := mine.flatMap Packet.lines
  if nl ≤ lines.length then
    let sorted := sortBy (fun (a b : Nat × List Byte) => decide (a.1 < b.1)) lines
    let c : Contrib := { mgrp := p.mgrp, nl := nl, ch := bits p.aux 2 0, lines := sorted.map (·.2)
                         count := bits p.addr 11 0, local_ := none, npart := 0, port := some port
                         acks := mine.map (fun q => (q.src, q.tag, q.tgen)), epochs := mine.map (·.epoch) }
    s.modFab fun f => { f with parts := parts.filter (fun e => e.1 != key), contribs := f.contribs ++ [c] }
  else s.modFab fun f => { f with parts := parts }

/-- Kinds of CTRL and MIRROR packets that some unit takes (log 13). -/
def Packet.known (p : Packet) : Bool :=
  let m := p.aux % 256
  if p.type = 0x0E then decide (1 ≤ m ∧ m ≤ 8) || decide (0x10 ≤ m ∧ m ≤ 0x12) || decide (0x18 ≤ m ∧ m ≤ 0x1B) ||
    m == 0x20 || m == 0x21 || decide (0x30 ≤ m ∧ m ≤ 0x34) || decide (0x40 ≤ m ∧ m ≤ 0x42)
  else if p.type = 0x0D then decide (1 ≤ m ∧ m ≤ 5)
  else true

/-- Deliver a packet to this module (R357), through the I/O die of its arrival port. Responses and messages wait in the inbox
for the unit they are for; a message of a kind that no unit takes is dropped (log 13). -/
def deliver (s : State) (a : AtRouter) : State :=
  let p := a.pkt
  match p.type with
  | 0x01 => deliverWrite s a.node p
  | 0x02 => deliverRead s a.node p
  | 0x05 => deliverSend s a.node p
  | 0x06 => deliverMcast s a.node p
  | 0x07 => deliverPartial s p (a.port.getD 16)
  | 0x08 => deliverSum s a.node p
  | 0x0A => deliverAtom s a.node p
  | 0x0C => s.modPm (refDie (fieldAt p.data 4 4)) fun m => { m with reqs := m.reqs ++ [.msg p] }
  | _ => if p.known then s.modFab fun f => { f with inbox := f.inbox ++ [a] } else s

/-! ### Routing (R357, R363) -/

/-- Multicast entry of a group in an epoch's slot (Table 12-8). Entry 0 is never valid (R362). -/
def State.mcEntry (s : State) (epoch g : Nat) : Nat :=
  if g = 0 then 0 else (tget 0 s.fab.mcast (4096 * epoch + g)).toNat
def mcValid (e : Nat) : Bool := bit e 63
def mcLocal (e : Nat) : Bool := bit e 62
def mcRoot (e : Nat) : Bool := bit e 61
def mcUp (e : Nat) : Nat := bits e 60 56
def mcMembers (e : Nat) : Nat := bits e 55 45
def mcLcnt (e : Nat) : Nat := bits e 44 34

/-- Hand a packet to a port; PH is 1 once it crosses P14. -/
def sendOn (s : State) (q : Nat) (p : Packet) : State := enqueue s q (if q = 14 then { p with ph := 1 } else p)

/-- Expand a multicast packet from this module's table (log 34). -/
def expand (s : State) (a : AtRouter) : State :=
  let p := a.pkt
  let e := s.mcEntry p.epoch p.mgrp
  if !mcValid e then s.modFab fun f => { f with mcMiss := count64 f.mcMiss }
  else
    let s := (List.range 16).foldl (fun s q =>
      if bit e q ∧ a.port ≠ some q then (if s.portOk q then sendOn s q p else dropPacket s p q) else s) s
    if mcLocal e ∧ p.src ≠ s.id.mid then deliver s a else s

/-- The destination check of R357; the packets whose DSTID is 0xFFFF by Table 12-5 are exempt (log 14). -/
def State.isMine (s : State) (p : Packet) : Bool := p.dst == s.id.mid || p.type == 0x07

def routePacket (s : State) (a : AtRouter) : State :=
  let p := a.pkt
  if p.malformed then s.modFab fun f => { f with malformed := count64 f.malformed }
  else
    let c := p.code p.hop
    if c ≤ 15 then
      if !s.portOk c then dropPacket s p c else sendOn s c { p with hop := p.hop + 1 }
    else if c = 0x1E then
      if s.isMine p ∨ (p.type = 0x0E ∧ p.aux % 256 = ctlNeighbour) then deliver s a
      else s.modFab fun f => { f with misroute := count64 f.misroute }
    else expand s a

/-- Cells of a pool have left the receive buffer of a port: they are freed, which is reported (R350). -/
def freePool (s : State) (p pool n : Nat) : State :=
  sendReport (s.modPort p fun x => { x with rxFreed := tset 0 x.rxFreed pool ((tget 0 x.rxFreed pool + n) % 4096) }) p pool false

/-- The router has taken a packet out of the receive buffer of its port. -/
def freeCells (s : State) (a : AtRouter) : State :=
  match a.port with
  | none => s
  | some p => freePool s p (2 * (a.pkt.vc % 4) + a.pkt.ph % 2) (cellsFor a.pkt.len)

/-- The bridges that a packet crosses inside the module carry traffic: from the die it entered at to the I/O die of each port
it leaves on (R323, R361), or for a contribution to the combiner on IOD3 (R338). -/
def State.mayRoute (s : State) (a : AtRouter) : Bool :=
  let p := a.pkt
  let c := p.code p.hop
  p.malformed ||
    (if c ≤ 15 then !s.portOk c || s.pathUp a.node (portDie c)
     else if c = 0x1F then
       (List.range 16).all (fun q => !bit (s.mcEntry p.epoch p.mgrp) q || !s.portOk q || s.pathUp a.node (portDie q))
     else p.type != 0x07 || s.pathUp a.node twinDie)

/-- PACKET_ROUTE: the router handles packet `i` of those that wait (R357). -/
def execPacketRoute (i : Nat) (s : State) : Out :=
  .next (match s.fab.router[i]? with
    | none => s
    | some a =>
      -- packets of one port, channel and phase are handled in order (R356)
      let same (b : AtRouter) : Bool := b.port == a.port && b.pkt.vc == a.pkt.vc && b.pkt.ph == a.pkt.ph
      if (s.fab.router.take i).any same || !s.mayRoute a then s
      else routePacket (freeCells (s.modFab fun f => { f with router := dropNth f.router i }) a) a)

/-! ### Injection (R365, R366) -/

/-- The first free tag from `t` on (log 36). -/
def freeTag (used : List Nat) : Nat → Nat → Option Nat
  | 0, _ => none
  | n + 1, t => if used.contains t then freeTag used n (t + 1) else some t

/-- I/O die whose resend store holds a request: that of its first port (Table 1-3); IOD3 for a multicast. -/
def iodOf (path : Nat) : Nat := if path % 32 ≤ 15 then path % 32 / 4 else 3

/-- Bytes that the resend store of an I/O die holds. -/
def State.storeUsed (s : State) (iod : Nat) : Nat :=
  ((s.fab.out.filter (fun r => iodOf r.pkt.path == iod)).map (fun r => 32 + r.pkt.len)).sum

/-- The requests belong to one operation (R366). -/
def ReqFor.sameOp : ReqFor → ReqFor → Bool
  | .beat a _, .beat b _ => a == b
  | .send t a, .send u b => t == u && a == b
  | _, _ => false

/-- An operation's request is complete: what was waiting for it goes on. -/
def requestDone (s : State) (r : Req) : State :=
  match r.why with
  | .send k id => sendAcked s k id
  | _ => s

/-- A message between page managers that must not pass another: both are about one frame, and one of them does more than read
it (R247) (log 11). -/
def Packet.pmFollows (p q : Packet) : Bool :=
  p.type == 0x0C && q.type == 0x0C && p.dst == q.dst && fieldAt p.data 4 4 == fieldAt q.data 4 4 &&
    (fieldAt p.data 0 4 != 1 || fieldAt q.data 0 4 != 1) && fieldAt p.data 0 4 != 4

/-- FABRIC_INJECT: request `i` of those that wait takes a free tag and is injected (R359, R363, R365, R366). -/
def execFabricInject (i : Nat) (s : State) : Out :=
  .next (match s.fab.waiting[i]? with
    | none => s
    | some r =>
      let node := s.reqDie r
      let others := dropNth s.fab.waiting i ++ s.fab.out
      if (r.last && others.any (fun o => r.why.sameOp o.why)) ||
          (s.fab.waiting.take i ++ s.fab.out).any (fun o => r.pkt.pmFollows o.pkt) then s else
      match freeTag (s.fab.out.map (·.pkt.tag)) 65536 0 with
      | none => s
      | some tag =>
        let taken := s.modFab fun f => { f with waiting := dropNth f.waiting i }
        let k := { r.pkt with tag := tag, tgen := tget 0 s.fab.tgen tag, epoch := s.fab.ep.cur, ph := 0, hop := 0 }
        if r.pinned = 0x1F then
          let e := s.mcEntry s.fab.ep.cur r.pkt.mgrp
          let due := if mcLocal e then mcMembers e - 1 else mcMembers e
          let k := { k with path := 0x1F }
          if !mcValid e then requestDone (taken.modFab fun f => { f with mcMiss := count64 f.mcMiss }) r
          else if due = 0 then requestDone (inject taken k node) r
          else if 8 * 2 ^ 20 < s.storeUsed 3 + 32 + r.pkt.len then s
          else inject (taken.modFab fun f => { f with out := f.out ++ [{ r with pkt := k, due := due }] }) k node
        else
          match s.reqPath r with
          | none => taken.modFab fun f => { f with out := f.out ++ [{ r with pkt := k, heldFor := some f.ep.cur }] }
          | some path =>
            let k := { k with path := path }
            if 8 * 2 ^ 20 < s.storeUsed (iodOf path) + 32 + r.pkt.len then s
            else inject (taken.modFab fun f => { f with out := f.out ++ [{ r with pkt := k }] }) k node)

/-! ### Responses (R365, R368) -/

/-- The outstanding request that a response answers. -/
def State.reqOf (s : State) (tag tgen : Nat) : Option Req := s.fab.out.find? (fun r => r.pkt.tag == tag && r.pkt.tgen == tgen)

/-- Free a request's tag; its generation increments. -/
def freeReq (s : State) (r : Req) : State :=
  s.modFab fun f => { f with
    out := f.out.filter (fun q => q.pkt.tag != r.pkt.tag)
    tgen := tset 0 f.tgen r.pkt.tag ((tget 0 f.tgen r.pkt.tag + 1) % 256) }

def staleResponse (s : State) : State := s.modFab fun f => { f with stale := count64 f.stale }

/-- The response of a beat has reached the module and is on its way to its tile (R98). -/
def beatBack (s : State) (id b : Nat) (p : Packet) : State :=
  match s.txn? id with
  | none => s
  | some t =>
    let c := causeOfStatus (p.aux % 256) (match t.beats[b]? with | some bt => gaSpace bt.ga == 0 | none => true)
    let set (x : Beat) : Beat :=
      { x with st := .back c, data := if p.type = 0x03 then p.data else x.data
               poison := if p.type = 0x03 then p.poison else x.poison }
    s.setTxn { t with beats := setNth t.beats b set }

/-- The twin has acknowledged a group's point (R457, R458): its pins are released and each entry's MPOS advances. -/
def pointAcked (s : State) (g : Nat) : State :=
  let m := tget {} s.tw.mirrors g
  if m.busy then
    let s := m.pins.foldl hpinDec s
    let s := m.marks.foldl (fun s e =>
      s.modSv fun v => { v with entries := tmod {} v.entries (e.1 % 65536) (fun x =>
        if x.gen = e.1 / 65536 then { x with mpos := e.2 } else x) }) s
    s.modTw fun t => { t with mirrors := tset {} t.mirrors g { m with busy := false, pins := [], marks := [] } }
  else s

/-- The group of this module with a JOB_GROUP_ID, among those the image uses. -/
def State.groupOfJg (s : State) (jg : Nat) : Option Nat :=
  (List.range 8).find? (fun g => !(s.groupDies g).isEmpty && tget 0 s.img.jgid g == jg)

/-- What a request's answer does. -/
def answered (s : State) (r : Req) (p : Packet) : State :=
  match r.why with
  | .beat id b => beatBack s id b p
  | .send k id =>
    let s := if p.aux % 256 = stParam then
        (match (s.tile k).sendq.find? (fun e => e.id == id) with
          | some e => faultAt s k e.bundle .nx .noTile r.pkt.addr
          | none => s)
      else s
    sendAcked s k id
  | .pointEnd g => if p.aux % 256 = stOk then pointAcked s g else abandonPoint s g
  | .forward n => releaseHeld s (.forward n) HeldReply.ans
  | .sum => s
  | .pm _ _ => s
  | .frame _ id c =>
    let ok := p.type = 0x03 ∧ !p.poison ∧ p.aux % 256 = stOk
    readPart s id c p.data !ok
  | .echo => s
  | .power =>
    -- an acknowledged JOBFREQ (R436)
    if r.pkt.aux % 256 = 0x21 ∧ p.aux % 256 = 0 then
      match s.groupOfJg (fieldAt r.pkt.data 0 2) with
      | some g => s.modPw fun w => { w with told := tset 0 w.told (jobKey g r.pkt.dst) (1 + fieldAt r.pkt.data 2 1) }
      | none => s
    else s
  | .mirror _ => s

/-- The bridges from the port of a response to the unit whose request it answers carry it; one that answers none goes no
further (R323, R326). -/
def State.reaches (s : State) (a : AtRouter) (tag : Nat) : Bool :=
  match s.reqOf tag a.pkt.tgen with
  | some r => s.pathUp a.node (s.reqDie r)
  | none => true

/-- One member's SACK of a multicast packet; a second of the same member adds nothing (R363). -/
def sackFrom (s : State) (tag src : Nat) : State :=
  s.modFab fun f => { f with out := f.out.map (fun q =>
    if q.pkt.tag = tag ∧ !q.acked.contains src then { q with due := q.due - 1, acked := q.acked ++ [src] } else q) }

/-- RESPONSE: delivered packet `i` answers a request, or is stale (R363, R365, R368). -/
def execResponse (i : Nat) (s : State) : Out :=
  .next (match s.inboxAt i with
    | none => s
    | some a =>
      let p := a.pkt
      if (p.type = 0x03 ∨ p.type = 0x04 ∨ p.type = 0x09) ∧ s.reaches a p.tag then
        let s := dropIn s i
        match s.reqOf p.tag p.tgen with
        | none => staleResponse s
        | some r =>
          if 2 ≤ r.due then sackFrom s r.pkt.tag p.src
          else if r.acked.contains p.src then s
          else stopCheck (answered (freeReq s r) r p)
      else s)

/-- A board access has no other path: its tile faults (R346, R375). -/
def boardFault (s : State) (r : Req) : State :=
  match r.why with
  | .beat id b =>
    match s.txn? id with
    | none => s
    | some t =>
      let s := match t.from_ with | .tile x => faultAt s x.key t.bundle .mv .noPeer r.pkt.addr | .peer _ _ _ => s
      completeTxn s { t with beats := setNth t.beats b (fun y => { y with st := .done }) }
  | .send k id =>
    match (s.tile k).sendq.find? (fun e => e.id == id) with
    | some e => sendAcked (faultAt s k e.bundle .nx .noPeer r.pkt.addr) k id
    | none => s
  | _ => s

/-- The request travels by expansion: what a router drops of it is a copy, which is never sent again (R363). -/
def Req.copies (r : Req) : Bool := r.pinned == 0x1F

/-- NACK: delivered packet `i` reports a dropped request or a lost copy (R363, R375). -/
def execNack (i : Nat) (s : State) : Out :=
  .next (match s.inboxAt i with
    | none => s
    | some a =>
      let p := a.pkt
      if p.type = 0x0B ∧ s.reaches a (bits p.aux 31 16) then
        let s := dropIn s i
        let g := bits p.aux 15 4
        match s.reqOf (bits p.aux 31 16) p.tgen with
        | none => staleResponse s
        | some r =>
          if r.copies then
            raise (s.modFab fun f => { f with mcLost := count64 f.mcLost }) 0x41 0
              (leBytes 2 g ++ leBytes 1 (bits p.aux 3 0) ++ leBytes 1 p.epoch)
          else if r.board then boardFault (freeReq s r) r
          else if s.fab.ep.cur ≠ p.epoch then resend s r
          else s.modFab fun f => { f with out := f.out.map (fun q =>
            if q.pkt.tag = r.pkt.tag then { q with heldFor := some f.ep.cur } else q) }
      else s)

/-- An abandoned Echo message is sent again while its boundary is not complete; of an abandoned THROTTLE or JOBFREQ the latest
value is sent, under a new tag (R390, R437). -/
def sendAgain (s : State) (r : Req) : State :=
  match r.why with
  | .echo =>
    match s.groupOfJg (fieldAt r.pkt.data 0 2) with
    | some g =>
      let x := tget {} s.groups g
      if x.next = fieldAt r.pkt.data 4 4 ∧ x.bnd ≠ .idle ∧ x.bnd ≠ .step then addReq s r else s
    | none => s
  | .power =>
    match s.groupOfJg (fieldAt r.pkt.data 0 2) with
    | some g =>
      if r.pkt.aux % 256 = 0x20 then throttleSend s g (tget 0 s.pw.annSeq g)
      else if s.leads g then jobFreqSend s g r.pkt.dst
      else s
    | none => s
  | .mirror g => abandonPoint s g
  | .pointEnd g => abandonPoint s g
  | _ => s

/-- TRANSACTION_TIMEOUT: the request of a tag has gone unanswered for FB_TXN_TIMEOUT (R367). -/
def execTransactionTimeout (tag : Nat) (s : State) : Out :=
  .next (match s.fab.out.find? (fun r => r.pkt.tag == tag) with
    | none => s
    | some r =>
      let s := (freeReq s r).modFab fun f => { f with timeouts := count64 f.timeouts }
      let s := raise s 0x42 0 (leBytes 2 r.pkt.dst ++ leBytes 2 tag ++ leBytes 1 r.pkt.tgen ++ leBytes 1 r.pkt.type)
      let s := sendAgain s r
      match r.why with
      | .beat id _ =>
        -- the operation never completes, but STOP need not wait for it (R490)
        stopCheck { s with net := { s.net with txns := s.net.txns.filter (fun t => t.id != id ||
            (match t.from_ with | .tile _ => false | .peer _ _ _ => true)) } }
      | _ => stopCheck s)

/-! ### Reduction (R338, R364) -/

/-- Add two lines of FP32 values element by element (R169). -/
def addLines (a b : List Byte) : List Byte :=
  (List.range 16).flatMap fun j =>
    leBytes 4 (Fp.add (BitVec.ofNat 32 (fieldAt a (4 * j) 4)) (BitVec.ofNat 32 (fieldAt b (4 * j) 4))).toNat

/-- The combiner acknowledges a contribution. -/
def ackContrib (s : State) (c : Contrib) : State :=
  let s := match c.local_ with
    | some a => { s with net := { s.net with acks := s.net.acks ++ [(a.1, a.2, twinDie)] } }
    | none => s
  c.acks.foldl (fun s r => respond s twinDie r.1 0x09 1 0 r.2.1 r.2.2) s

/-- Take a contribution into a partial; one of another NL than the first is discarded (R338). -/
def Comb.take (x : Comb) (c : Contrib) : Comb :=
  let first := x.lines.isEmpty && x.count == 0
  let x := { x with epochs := x.epochs ++ c.epochs }
  let x :=
    if first then { x with nl := c.nl, ch := c.ch, lines := c.lines, count := c.count }
    else if c.nl = x.nl then { x with lines := (x.lines.zip c.lines).map (fun p => addLines p.1 p.2), count := x.count + c.count }
    else { x with bad := true }
  match c.local_ with
  | some (k, _) => { x with locals_ := x.locals_ + 1, npart := c.npart, tiles := x.tiles ++ [(k, c.ch)] }
  | none => match c.port with | some p => { x with ports := x.ports ++ [p] } | none => x

/-- Packets of a sum: one line each. -/
def sumPackets (s : State) (g ch type : Nat) (lines : List (List Byte)) (count pinned : Nat) : State :=
  (lines.zipIdx).foldl (fun s l =>
    let p : Packet := { path := pinned, dst := 0xFFFF, mgrp := g, type := type, vc := 0, len := 64, src := s.id.mid
                        addr := count % 4096, aux := ch + lines.length * 8 + l.2 * 2 ^ 14, data := l.1 }
    addReq s { why := .sum, pkt := p, pinned := pinned }) s

/-- Everything has arrived at the combiner of a group: forward the partial, or finish the sum at the root, where every
contribution must be counted and of one NL (R338, R364). A root to which no tile of its own contributes has no NPART to
check the count against (log 35). -/
def combDone (s : State) (g : Nat) (x : Comb) (e : Nat) : State :=
  if !mcRoot e then
    let s := s.modFab fun f => { f with awaiting := tset [] f.awaiting g (tget [] f.awaiting g ++ [x.tiles]) }
    sumPackets s g x.ch 0x07 x.lines x.count (mcUp e + 0x1E * 32)
  else if !x.bad ∧ (x.npart = 0 ∨ x.count = x.npart) then
    let d := s.net.nextId
    let s := { s with net := { s.net with nextId := d + 1 } }
    let s := x.tiles.foldl (fun s t => (x.lines.zipIdx).foldl (fun s l =>
      let n : NxLine := { dst := siteOf t.1, ch := t.2, k := l.2, nl := x.nl, data := l.1, poison := false, dlv := d
                          send := none, req := none, node := twinDie }
      { s with net := { s.net with lines := s.net.lines ++ [n] } }) s) s
    sumPackets s g x.ch 0x08 x.lines 0 0x1F
  else
    let s := x.tiles.foldl (fun s t => faultAt s t.1 (s.tile t.1).pc .other .channel) s
    addReq s { why := .sum, pinned := 0x1F, pkt := { path := 0x1F, dst := 0xFFFF, mgrp := g, type := 0x08, vc := 0, src := s.id.mid, aux := stParam } }

/-- A contribution belongs to the reduction of this partial: it still lacks one of that port, or of that tile. -/
def Comb.lacks (x : Comb) (c : Contrib) (lcnt : Nat) : Bool :=
  match c.local_ with
  | some (k, _) => decide (x.locals_ < lcnt) && x.tiles.all (fun t => t.1 != k)
  | none => match c.port with | some p => !x.ports.contains p | none => true

/-- The partials of a group with a contribution taken into the first reduction that lacks it, or into a new one; and the
place of that reduction. -/
def combTake (c : Contrib) (lcnt : Nat) : List Comb → List Comb × Nat
  | [] => ([({} : Comb).take c], 0)
  | x :: l => if x.lacks c lcnt then (x.take c :: l, 0) else let r := combTake c lcnt l; (x :: r.1, r.2 + 1)

/-- Everything that a reduction needs has arrived. -/
def Comb.whole (x : Comb) (e : Nat) : Bool :=
  decide (mcLcnt e ≤ x.locals_) && ((List.range 16).filter (bit e)).all (fun p => x.ports.contains p)

/-- Die that a contribution comes from: that of its tile, or the combiner's own I/O die for a partial that is there. -/
def Contrib.node (c : Contrib) : Nat := match c.local_ with | some (k, _) => k / 256 | none => twinDie

/-- REDUCTION_COMBINE: contribution `i` of those that wait has crossed the bridges to the combiner, which adds it to the
partial of its reduction (R338, R364). -/
def execReductionCombine (i : Nat) (s : State) : Out :=
  .next (match s.fab.contribs[i]? with
    | none => s
    | some c =>
      if !s.pathUp c.node twinDie then s else
      let s := s.modFab fun f => { f with contribs := dropNth f.contribs i }
      let e := s.mcEntry s.fab.ep.cur c.mgrp
      let s := ackContrib s c
      if !mcValid e then s.modFab fun f => { f with mcMiss := count64 f.mcMiss } else
      let (l, n) := combTake c (mcLcnt e) (tget [] s.fab.combs c.mgrp)
      let x := l.getD n {}
      if x.whole e then combDone (s.modFab fun f => { f with combs := tset [] f.combs c.mgrp (l.eraseIdx n) }) c.mgrp x e
      else s.modFab fun f => { f with combs := tset [] f.combs c.mgrp l })

/-! ### Links (R347-R350) -/

/-- Sequence number `a` is at or before `b`, modulo 4,096. -/
def seqLe (a b : Nat) : Bool := decide ((b + 4096 - a) % 4096 < 2048)

/-- Frames that an acknowledgement covers leave the replay buffer (log 37). -/
def linkAck (x : Port) (q : Nat) : Port := { x with unacked := x.unacked.filter (fun f => !seqLe f.seq q) }

/-- Put the frames of the replay buffer from `q` on, on the link again, in SEQ order, time messages with new timestamps
(R349, R383). -/
def resendFrames (s : State) (p q tries : Nat) : State :=
  let x := s.port p
  let mine (f : Frame) : Bool := seqLe q f.seq
  let again (f : Frame) : Frame :=
    if mine f then { f with cells := f.cells.map (stampCell s.tm.tick), tries := f.tries + tries } else f
  let fs := x.unacked.map again
  s.setPort p { x with
    unacked := fs, line := x.line ++ (fs.filter mine).map x.frameBytes
    exchT1 := if fs.any (fun f => mine f && f.cells.any Cell.isDelayReq) then some s.tm.tick else x.exchT1 }

/-- Replay from a frame on: it counts one replay, and the 16th in succession of one frame calls for a retrain (R349)
(log 46). -/
def linkReplay (s : State) (p q : Nat) : State :=
  if (s.port p).unacked.any (fun f => f.seq == q) then
    let s := resendFrames s p q 1
    let s := s.modPort p fun x => { x with retrain := x.retrain || x.unacked.any (fun f => decide (16 ≤ f.tries)) }
    countPort s p 1
  else s

/-- The packet goes to the router: any of a port in service. A DOWN port carries none but the messages of its own link, such
as the identification that its check needs (R374, R376). -/
def State.admits (s : State) (p : Nat) (k : Packet) : Bool :=
  s.portOk p || (k.type == 0x0E && k.path % 32 == 0x1E && k.aux % 256 == ctlNeighbour)

/-- Cells of an accepted frame join their pool; whole packets go to the router and count by epoch (R371). -/
def acceptCells (s : State) (p pool : Nat) (cells : List Byte) (poison : Bool) : State :=
  let x := s.port p
  let (ps, rest) := assemble (cells.length / 64 + 32) (tget [] x.part pool ++ cells)
  let bad := tget [] x.partBad pool ++ List.replicate (cells.length / 64) poison
  let s := s.modPort p fun x => { x with
    part := tset [] x.part pool rest
    partBad := tset [] x.partBad pool (bad.drop (bad.length - rest.length / 64)) }
  (ps.foldl (fun (a : State × List Bool) b =>
    let (s, bad) := a
    let k := Packet.ofBytes b bad
    let s := if s.admits p k then
        s.modFab fun f => { f with
          router := f.router ++ [{ pkt := k, port := some p, at_ := s.tm.tick, node := portDie p }]
          ep := { f.ep with received := tset 0 f.ep.received k.epoch (tget 0 f.ep.received k.epoch + 1) } }
      else freePool s p pool (cellsFor k.len)
    (s, bad.drop (b.length / 64))) (s, bad)).1

/-- Ask once for a replay from the frame awaited (log 37). -/
def askReplay (s : State) (p pool : Nat) : State :=
  if (s.port p).nakSent then s else sendReport (s.modPort p fun x => { x with nakSent := true }) p pool true

/-- What a port does with a frame that carries cells and is whole: the one it awaits is accepted, and acknowledged at once
(log 37); one that it has had before is acknowledged again; a later one is discarded with a request to replay (R348). -/
def acceptFrame (s : State) (p seq vp : Nat) (cells : List Byte) (poison : Bool) : State :=
  let x := s.port p
  if seq = x.rxSeq then
    let s := s.modPort p fun x => { x with rxSeq := (x.rxSeq + 1) % 4096, nakSent := false, ackSent := some seq }
    sendReport (acceptCells s p vp cells poison) p vp false
  else if seqLe (seq + 1) x.rxSeq then sendReport s p vp false
  else askReplay s p vp

/-- The acknowledgement, replay request and credit report that a frame brings (R348-R350). -/
def takeReport (s : State) (p h : Nat) : State :=
  let s := if bit h 39 then
      (if bit h 38 then linkReplay s p (bits h 51 40) else s.modPort p fun x => linkAck x (bits h 51 40))
    else s
  s.modPort p fun x => { x with freed := tset 0 x.freed (bits h 37 35) (bits h 34 23) }

/-- LINK_FRAME: the bytes of a frame arrive on a port, with the outcome of the FEC and the poison of its words
(R347, R348, R350). Of a frame that is discarded nothing is used. -/
def execLinkFrame (p : Fin 16) (frame : List Byte) (fec poison : Bool) (s : State) : Out :=
  .next (
    let q := p.val
    let x := s.port q
    let n := bits (fieldAt frame 0 8) 19 16
    let body := frame.take (8 + 64 * n)
    let good := fec && decide (n ≤ 8) && frame.length == 12 + 64 * n &&
      fieldAt frame (8 + 64 * n) 4 == (crc32 body).toNat
    let h := fieldAt frame 0 8
    let seq := bits h 63 52
    if !x.live then s
    else if !good then askReplay s q 0
    else if n = 0 then pump (takeReport s q h) q
    else if seq = x.rxSeq then pump (acceptFrame (takeReport s q h) q seq (bits h 22 20) (body.drop 8) poison) q
    else acceptFrame s q seq (bits h 22 20) (body.drop 8) poison)

/-- LINK_NAK: the peer asks for a replay from a frame (R349). -/
def execLinkNak (p : Fin 16) (seq : Fin 4096) (s : State) : Out :=
  .next (if (s.port p.val).live then linkReplay s p.val seq.val else s)

/-- LINK_REPLAY_TIMER: the oldest frame has gone unacknowledged for 2 µs (R349). -/
def execLinkReplayTimer (p : Fin 16) (s : State) : Out :=
  .next (match (s.port p.val).unacked with
    | [] => s
    | f :: _ => if (s.port p.val).live then linkReplay s p.val f.seq else s)

/-! ### Training (R343, R374, R515) -/

/-- Neighbour identification: MID, port, serial number (R376). -/
def identBytes (s : State) (p : Nat) : List Byte :=
  leBytes 2 s.id.mid ++ leBytes 1 p ++ leBytes 5 0 ++ leBytes 8 s.made.serial

/-- Cells of a pool in the replay buffer. -/
def Port.kept (x : Port) (pool : Nat) : Nat :=
  ((x.unacked.filter (fun f => 2 * f.vc + f.ph == pool)).map (·.cells.length)).sum

/-- A port has trained: totals are 0 and credits full (R350), replay resumes, its cells against the new credit (R349)
(log 37), and the identification is sent and awaited (R376). -/
def trained (s : State) (p lanes : Nat) : State :=
  let s := s.modPort p fun x => { x with
    lanes := lanes, retrain := false, failed := false, freed := [], rxFreed := [], samples := [], nakSent := false
    sent := (List.range 8).foldl (fun t q => tset 0 t q (x.kept q)) [], unacked := x.unacked.map (fun f => { f with tries := 0 })
    seenMid := 0xFFFF, seenPort := 0xFF, serial := 0, idWait := true, noId := false }
  let s := match (s.port p).unacked with | f :: _ => resendFrames s p f.seq 0 | [] => s
  pump (linkMsg s p ctlNeighbour (identBytes s p)) p

/-- A port that trains without a link to keep: its sequence numbers start over. -/
def freshLink (s : State) (p lanes : Nat) : State :=
  let s := s.modPort p fun x => { x with
    txSeq := 0, rxSeq := 0, ackSent := none, unacked := [], wait := [], part := [], partBad := [] }
  trained s p lanes

/-- Lanes with which a port trains: four, two or one (R343). -/
def lanesOk (n : Nat) : Bool := n == 4 || n == 2 || n == 1

/-- PORT_TRAINED: a port without a link completes training (R342, R343, R515). -/
def execPortTrained (p : Fin 16) (lanes : Fin 5) (s : State) : Out :=
  .next (if lanesOk lanes.val ∧ (s.port p.val).lanes = 0 ∧ s.boot.started ∧ 2 ≤ s.boot.phase
    then freshLink s p.val lanes.val else s)

/-- Training of a port that the plan in force gives a peer has failed: PORT_DOWN, once until it trains (R374, Table 17-14)
(log 46). -/
def trainFails (s : State) (p : Nat) : State :=
  if (s.peer p).isSome ∧ !(s.port p).failed then
    portDownEvent (s.modPort p fun x => { x with failed := true }) p 1
  else s

/-- PORT_TRAIN_RETRY: after phase 2 a port without a link tries once every 1 s; `lanes` is 0 when it fails (R515). -/
def execPortTrainRetry (p : Fin 16) (lanes : Fin 5) (s : State) : Out :=
  .next (
    if (s.port p.val).lanes = 0 ∧ s.boot.started ∧ 3 ≤ s.boot.phase then
      if lanesOk lanes.val then freshLink s p.val lanes.val else trainFails s p.val
    else s)

/-- PORT_RETRAIN: a port that replayed one frame 16 times retrains, the replay buffer kept, or is DOWN (R349). -/
def execPortRetrain (p : Fin 16) (lanes : Fin 5) (s : State) : Out :=
  .next (
    if (s.port p.val).retrain then
      if lanesOk lanes.val then trained s p.val lanes.val
      else
        let s := s.modPort p.val fun x => { x with lanes := 0, retrain := false }
        portDownEvent (restatus (portDown s p.val) p.val) p.val 3
    else s)

/-- PORT_SIGNAL_LOST (R374). -/
def execPortSignalLost (p : Fin 16) (s : State) : Out :=
  .next (
    if (s.port p.val).lanes = 0 then s
    else
      let s := s.modPort p.val fun x => { x with lanes := 0, retrain := false, seenMid := 0xFFFF, seenPort := 0xFF, serial := 0
                                                 idWait := false }
      portDownEvent (restatus (portDown s p.val) p.val) p.val 2)

/-- OSFP_INSERT: the module in the cage of P14 or P15 is configured and the port trained (R566). -/
def execOsfpInsert (twin : Bool) (lanes : Fin 5) (s : State) : Out :=
  .next (
    let p := if twin then 15 else 14
    let s := s.modPort p fun x => { x with osfp := true }
    if (s.port p).lanes = 0 ∧ s.boot.started ∧ 2 ≤ s.boot.phase then
      -- a module in the cage that offers no supported application leaves its port DOWN (R566)
      if lanesOk lanes.val then freshLink s p lanes.val else portDownEvent s p 1
    else s)

/-! ### The epoch handshake (R370-R373) -/

def Fab.modEp (f : Fab) (g : Epoch → Epoch) : Fab := { f with ep := g f.ep }

/-- Packets stamped with an epoch in the routers, link replay buffers and combiners (R371). -/
def State.presentOf (s : State) (n : Nat) : Nat :=
  let cellOf (c : Cell) : Bool := c.first && bits (fieldAt c.bytes 0 32) 145 145 == n
  s.fab.router.countP (fun a => a.pkt.epoch == n) + s.fab.parts.countP (fun a => a.2.epoch == n) +
    (s.fab.contribs.map (fun c => c.epochs.count n)).sum +
    (s.fab.combs.map (fun c => (c.2.map (fun x => x.epochs.count n)).sum)).sum +
    (s.fab.ports.map (fun e =>
      ((e.2.unacked.map (fun f => f.cells.countP cellOf)).sum + (e.2.wait.map (fun w => w.2.countP cellOf)).sum +
       (e.2.part.countP (fun w => decide (w.2.length ≠ 0) && bits (fieldAt w.2 0 32) 145 145 == n))))).sum

/-- Send one handshake message to every module present. -/
def toPresent (s : State) (code : Nat) (data : List Byte) : State :=
  s.fab.plan.present.foldl (fun s m => ctrlTo s m code data) s

def State.isFLeader (s : State) : Bool := s.fab.plan.have_ && s.fab.plan.leader == s.id.mid

/-- JOIN: delivered packet `i` joins the switch; once every present module has, the rounds begin (R370, R371). -/
def execJoin (i : Nat) (s : State) : Out :=
  .next (match s.inAt i 0x0E ctlJoin with
    | none => s
    | some a =>
      let s := dropIn s i
      if s.isFLeader then
        let js := addOnce s.fab.ep.joiners a.pkt.src
        let all := s.fab.plan.present.all (fun m => js.contains m)
        s.modFab fun f => f.modEp fun e =>
          if all ∧ !e.polling then
            { e with joiners := js, polling := true, asked := false, round := [], before := [], quiet := 0 }
          else { e with joiners := js }
      else s)

/-- Counts that have come back in this round, taken out of the inbox: (MID, present, sent, received). -/
def takeCounts (s : State) : State :=
  let mine (a : AtRouter) : Bool := a.pkt.type == 0x0E && a.pkt.aux % 256 == ctlCounts
  let got := (s.fab.inbox.filter mine).map fun a =>
    (a.pkt.src, fieldAt a.pkt.data 0 8, fieldAt a.pkt.data 8 8, fieldAt a.pkt.data 16 8)
  s.modFab fun f => { f with
    inbox := f.inbox.filter (fun a => !mine a)
    ep := { f.ep with round := f.ep.round ++ got.filter (fun g => f.ep.round.all (fun r => r.1 != g.1)) } }

/-- Every module is empty of packets of the next epoch, with its totals unchanged from the round before. -/
def Epoch.quietRound (e : Epoch) : Bool :=
  e.round.all fun r => r.2.1 == 0 && e.before.any (fun b => b.1 == r.1 && b.2.2 == r.2.2)

/-- DRAIN_POLL: every 10 µs the leader takes the counts that have come and, when a round is complete, judges it and
asks again (R371). -/
def execDrainPoll (s : State) : Out :=
  .next (
    if s.isFLeader ∧ s.fab.ep.polling ∧ !s.fab.ep.loading then
      let s := takeCounts s
      let e := s.fab.ep
      let complete := s.fab.plan.present.all (fun m => e.round.any (fun r => r.1 == m))
      if !e.asked then toPresent (s.modFab fun f => f.modEp fun e => { e with asked := true }) ctlCount (leBytes 8 0)
      else if complete then
        let quiet := if e.quietRound then e.quiet + 1 else 0
        if 2 ≤ quiet then
          toPresent (s.modFab fun f => f.modEp fun e => { e with loading := true, loadedBy := [], quiet := quiet }) ctlLoad (leBytes 8 0)
        else
          toPresent (s.modFab fun f => f.modEp fun e => { e with quiet := quiet, before := e.round, round := [] }) ctlCount
            (leBytes 8 0)
      else s
    else s)

/-- DRAIN_COUNT_REQUEST: a module answers with its counts (R371). -/
def execDrainCountRequest (i : Nat) (s : State) : Out :=
  .next (match s.inAt i 0x0E ctlCount with
    | none => s
    | some a =>
      let s := dropIn s i
      let n := 1 - s.fab.ep.cur
      ctrlTo s a.pkt.src ctlCounts
        (leBytes 8 (s.presentOf n) ++ leBytes 8 (tget 0 s.fab.ep.sent n) ++ leBytes 8 (tget 0 s.fab.ep.received n)))

/-- Copy the staged tables into a slot (R369, R371). -/
def loadStaged (s : State) (n : Nat) : State :=
  s.modFab fun f => { f with
    paths := f.stPaths.foldl (fun t e => tset 0 t (1024 * n + e.1) (e.2 % 2 ^ 81)) (f.paths.filter (fun e => e.1 / 1024 != n))
    mcast := (f.stMcast.filter (fun e => e.1 != 0)).foldl (fun t e => tset 0 t (4096 * n + e.1) e.2)
      (f.mcast.filter (fun e => e.1 / 4096 != n)) }

/-- LOAD (R371). -/
def execLoad (i : Nat) (s : State) : Out :=
  .next (match s.inAt i 0x0E ctlLoad with
    | none => s
    | some a => ctrlTo (loadStaged (dropIn s i) (1 - s.fab.ep.cur)) a.pkt.src ctlLoaded (leBytes 8 0))

/-- The leader's part of a switch is over. -/
def Epoch.idle (e : Epoch) : Epoch :=
  { e with joiners := [], polling := false, asked := false, round := [], before := [], quiet := 0, loading := false, loadedBy := [] }

/-- LOADED: after every one, the leader sends DONE (R371). -/
def execLoaded (i : Nat) (s : State) : Out :=
  .next (match s.inAt i 0x0E ctlLoaded with
    | none => s
    | some a =>
      let s := dropIn s i
      if s.isFLeader ∧ s.fab.ep.loading then
        let ls := addOnce s.fab.ep.loadedBy a.pkt.src
        if s.fab.plan.present.all (fun m => ls.contains m) then
          toPresent (s.modFab fun f => f.modEp Epoch.idle) ctlDone (leBytes 8 0)
        else s.modFab fun f => f.modEp fun e => { e with loadedBy := ls }
      else s)

/-- HANDSHAKE_DONE: the handshake is complete; a module running no group applies it at once (R372, R374). -/
def execHandshakeDone (i : Nat) (s : State) : Out :=
  .next (match s.inAt i 0x0E ctlDone with
    | none => s
    | some _ =>
      let s := (dropIn s i).modFab fun f => f.modEp fun e => { e with complete := true }
      let s := retiringLeave s
      applyIdle s)

/-- HANDSHAKE_TIMEOUT: a present module has been silent for 10 ms; the leader sends ABORT (R371). -/
def execHandshakeTimeout (mid : Nat) (s : State) : Out :=
  .next (
    let e := s.fab.ep
    let answered := if e.loading then e.loadedBy.contains mid else e.round.any (fun r => r.1 == mid)
    if s.isFLeader ∧ e.polling ∧ e.asked ∧ s.fab.plan.present.contains mid ∧ !answered then
      toPresent (s.modFab fun f => f.modEp Epoch.idle) ctlAbort (leBytes 8 mid)
    else s)

/-- ABORT: the staged tables are kept, and the switch has not completed; none may begin until a plan marks the silent module
absent (R371). -/
def execAbort (i : Nat) (s : State) : Out :=
  .next (match s.inAt i 0x0E ctlAbort with
    | none => s
    | some a =>
      let s := (dropIn s i).modFab fun f => f.modEp fun e => { e with silent := some (fieldAt a.pkt.data 0 2) }
      raise s 0x44 0 (leBytes 2 (fieldAt a.pkt.data 0 2)))

end Sys2Proof.Machine
end

