-- ==== Sys2Proof/Machine/Echo.lean ====
section
/-! DEFINITION. Echo: the boundary of a group (R392), its messages (R390, R398), phase 8 (R413), arming and release (R393-R397)
and slow boundaries (R396). -/

namespace Sys2Proof.Machine

/-! ### Messages -/

/-- Payload of ARRIVE, CUT, DONE and ARM (Table 13-6). -/
def echoBytes (jg step trel : Nat) : List Byte := leBytes 2 jg ++ leBytes 2 0 ++ leBytes 4 step ++ leBytes 8 trel

def echoSend (s : State) (g dst code trel : Nat) : State :=
  ctrlReq s .echo dst code (echoBytes (tget 0 s.img.jgid g) (s.group g).next trel)

/-- The STEP that a group of this module waits for (R398). -/
def State.awaited (s : State) (g : Nat) : Nat :=
  let x := s.group g
  if x.bnd = .step then (s.stepNo g + 1) % 2 ^ 32 else x.next

/-- A stale Echo message: counted and answered with E_STALE (R398). -/
def echoStale (s : State) (p : Packet) : State :=
  wack (s.modTm fun t => { t with stale := count64 t.stale }) p stStale

/-! ### Steps of a boundary -/

/-- Every bound tile of the group on this module waits at STEPB, or has ended, and is quiet (R120, R139) (log 54). -/
def State.localArrived (s : State) (g : Nat) : Bool :=
  (s.groupDies g).all fun d => (s.boundTiles d).all fun vt =>
    let k := d * 256 + vt
    (match (s.tile k).seq with | .inStepb _ => true | .ended => true | _ => false) && s.quiet k

/-- Every bound tile of the group on this module has ended. -/
def State.allEndedIn (s : State) (g : Nat) : Bool :=
  (s.groupDies g).all fun d => (s.boundTiles d).all fun vt => s.hasEnded (d * 256 + vt)

/-- Whether the group has ended (R139): on one module when every tile of it has; of a group of several modules, no message
tells a module that the others' tiles have ended, and a free value says so (log 54). -/
def groupEnded (s : State) (g : Nat) : State × Bool :=
  if !s.allEndedIn g then (s, false)
  else if s.gmods g ≤ 1 then (s, true)
  else
    let (n, s) := s.fresh
    (s, Config.othersEnded n)

/-- At the cut the regulator dies begin to raise the tile supply for a faster target (R427). -/
def beginRise (s : State) : State :=
  s.modPw fun p => { p with
    rise := match p.volt with | some v => if s.target < v then some s.target else p.rise | none => p.rise }

/-- The work that follows a module's cut: the target of phase 8 as it stands, then phases 1 to 7. -/
def cutWork (s : State) (g : Nat) : State :=
  let n := s.pw.cuts + 1
  let s := s.modGroup g fun x => { x with target := s.target, cutNo := n, bnd := .phase8 }
  boundary ((beginRise s).modPw fun p => { p with cuts := n }) g

/-- A target taken at a later cut has been applied already, and holds for every group (R414, R418). -/
def State.outdated (s : State) (x : Group) : Bool := decide (x.cutNo < s.pw.cutDone)

/-- Before CUT, the leader sends JOBFREQ to each member that last acknowledged another state (R436). -/
def jobFreqs (s : State) (g : Nat) : State :=
  let st := s.jobState g
  let x := s.group g
  (x.arrives.filter (· != s.id.mid)).foldl (fun s m =>
    if tget 0 s.pw.told (jobKey g m) = 1 + st then s else jobFreqSend s g m) s

/-- The leader takes the cut once every member has arrived (R392). -/
def tryCut (s : State) (g : Nat) : State :=
  let x := s.group g
  if x.bnd = .arrived ∧ !x.cut ∧ x.arrives.length = s.gmods g then
    let s := s.modGroup g fun x => { x with cut := true }
    let s := jobFreqs s g
    let s := ((s.group g).arrives.filter (· != s.id.mid)).foldl (fun s m => echoSend s g m 0x19 0) s
    cutWork s g
  else s

/-- The leader arms the release once every DONE is in (R393, R395) (log 58). -/
def tryArm (s : State) (g : Nat) : State :=
  let x := s.group g
  if x.bnd = .done ∧ x.dones.length = s.gmods g then
    let trel := s.now + s.tm.lead
    let trel := if x.next = 0 then max trel x.start else trel
    let s := (x.dones.filter (· != s.id.mid)).foldl (fun s m => echoSend s g m 0x1B trel) s
    s.modGroup g fun x => { x with bnd := .armed, trel := trel }
  else s

/-- Phase 8 has ended on this module (R392). -/
def phase8Done (s : State) (g : Nat) : State :=
  if s.gmods g ≤ 1 then
    let trel := s.now + 100
    s.modGroup g fun x => { x with bnd := .armed, trel := if x.next = 0 then max trel x.start else trel }
  else if s.leads g then
    tryArm (s.modGroup g fun x => { x with bnd := .done, dones := addOnce x.dones s.id.mid }) g
  else
    let s := s.modGroup g fun x => { x with bnd := .done, since := s.now }
    echoSend s g (s.group g).leader 0x1A 0

/-! ### Rows -/

/-- LOCAL_ARRIVAL of a group: ARRIVE is sent, or the cut of a single module taken. -/
def execLocalArrival (g : Fin 8) (s : State) : Out :=
  .next (
    let g := g.val
    let one := decide (s.gmods g ≤ 1)
    if (s.group g).bnd = .step ∧ !(s.groupDies g).isEmpty ∧ s.localArrived g then
      match groupEnded s g with
      | (s, true) => s.modGroup g fun x => { x with bnd := .idle }
      | (s, false) =>
      let next := (s.stepNo g + 1) % 2 ^ 32
      let s := s.modGroup g fun x => { x with bnd := .arrived, next := next, since := s.now, slowed := false }
      if one then cutWork s g
      else if s.leads g then tryCut (s.modGroup g fun x => { x with arrives := addOnce x.arrives s.id.mid }) g
      else echoSend s g (s.group g).leader 0x18 0
    else s)

/-- An Echo message for a group that leads, and awaits its STEP: the group. -/
def State.echoFor (s : State) (p : Packet) (leads : Bool) : Option Nat :=
  match s.groupOfJg (fieldAt p.data 0 2) with
  | some g => if s.img.loaded ∧ s.leads g = leads ∧ fieldAt p.data 4 4 = s.awaited g then some g else none
  | none => none

/-- ARRIVE: the leader counts it. -/
def execArrive (i : Nat) (s : State) : Out :=
  .next (match s.inAt i 0x0E 0x18 with
    | none => s
    | some a =>
      let p := a.pkt
      let s := dropIn s i
      match s.echoFor p true with
      | none => echoStale s p
      | some g =>
        let x := s.group g
        if x.arrives.contains p.src then wack s p stOk
        else if x.bnd = .idle ∨ s.gmods g ≤ x.arrives.length then echoStale s p
        else tryCut (wack (s.modGroup g fun x => { x with arrives := x.arrives ++ [p.src] }) p stOk) g)

/-- CUT: a member accepts it. -/
def execCut (i : Nat) (s : State) : Out :=
  .next (match s.inAt i 0x0E 0x19 with
    | none => s
    | some a =>
      let p := a.pkt
      let s := dropIn s i
      match s.echoFor p false with
      | none => echoStale s p
      | some g =>
        let s := wack s p stOk
        if (s.group g).bnd = .arrived then cutWork s g else s)

/-- FREQUENCY_CHANGE: phase 8 of a group (R413). -/
def execFrequencyChange (g : Fin 8) (s : State) : Out :=
  .next (
    let x := s.group g.val
    if x.bnd = .phase8 then
      phase8Done (if s.outdated x then realign (setModes s)
        else (applyFreq s x.target).modPw fun p => { p with cutDone := x.cutNo }) g.val
    else s)

/-- PLL_LOCK_TIMEOUT: while a change of the tile clock is due, some main PLL does not lock (R416). -/
def execPllLockTimeout (die : Fin 8) (s : State) : Out :=
  .next (
    let due (x : Group) : Bool := x.bnd == .phase8 && !s.outdated x && stateMhz x.target != s.ck.cur
    match (List.range 8).find? (fun g => due (s.group g)) with
    | some g => phase8Done (lockFails s die.val) g
    | none =>
      if s.idleClock && stateMhz s.target != s.ck.cur then lockFails s die.val else s)

/-- DONE: the leader counts it. -/
def execDone (i : Nat) (s : State) : Out :=
  .next (match s.inAt i 0x0E 0x1A with
    | none => s
    | some a =>
      let p := a.pkt
      let s := dropIn s i
      match s.echoFor p true with
      | none => echoStale s p
      | some g =>
        let x := s.group g
        let early := x.bnd == .idle && s.ce.state != .loaded
        if x.dones.contains p.src then wack s p stOk
        else if early ∨ x.bnd = .step ∨ s.gmods g ≤ x.dones.length then echoStale s p
        else tryArm (wack (s.modGroup g fun x => { x with dones := x.dones ++ [p.src] }) p stOk) g)

/-- ARM: a member arms, or releases late (R397). -/
def execArm (i : Nat) (s : State) : Out :=
  .next (match s.inAt i 0x0E 0x1B with
    | none => s
    | some a =>
      let p := a.pkt
      let s := dropIn s i
      match s.echoFor p false with
      | none => echoStale s p
      | some g =>
        let s := wack s p stOk
        if (s.group g).bnd ≠ .done then s else
        let trel := fieldAt p.data 8 8
        let t := s.now
        if t + 100 ≤ trel then s.modGroup g fun x => { x with bnd := .armed, trel := trel }
        else
          let s := s.modGroup g fun x => { x with bnd := .armed, trel := t + 100 }
          let s := s.modTm fun m => { m with late := count64 m.late }
          raise s 0x53 0 (leBytes 2 (tget 0 s.img.jgid g) ++ leBytes 2 0 ++ leBytes 4 (s.group g).next ++
            leBytes 4 (t + 100 - trel)))

/-- A tile of a released die starts after its stagger, counted from the next cyc (R63, R138). -/
def releaseTile (stagger cyc : Nat) (t : Tile) : Tile :=
  match t.seq with
  | .awaiting => { t with seq := .starting (cyc + 1 + stagger) }
  | .inStepb tgt => { t with seq := .starting (cyc + 1 + stagger), pc := tgt, branchTo := none }
  | _ => t

/-- The regions of a die release. -/
def releaseDie (s : State) (d : Nat) : State :=
  (s.boundTiles d).foldl (fun s vt =>
    let k := d * 256 + vt
    s.modTile k (releaseTile (tget 0 s.img.stagger k) (s.die d).cyc)) s

/-- ECHO_RELEASE: the regions of a die of an armed group release at TREL + 40 ns (R394). -/
def execEchoRelease (g die : Fin 8) (s : State) : Out :=
  .next (
    let g := g.val
    let d := die.val
    let x := s.group g
    if x.bnd = .armed ∧ s.groupOf d = some g ∧ !x.released.contains d ∧ x.trel + 40 ≤ s.now then
      let s := releaseDie s d
      let rel := x.released ++ [d]
      if (s.groupDies g).all rel.contains then
        s.modGroup g fun x => { x with bnd := .step, released := [], arrives := [], dones := [], cut := false }
      else s.modGroup g fun x => { x with released := rel }
    else s)

/-- ECHO_SLOW_TIMER: the boundary of a group of several modules has taken SLOW ms (R396). -/
def execEchoSlowTimer (g : Fin 8) (s : State) : Out :=
  .next (
    let g := g.val
    let x := s.group g
    let waits := x.bnd == .arrived || x.bnd == .done || (s.leads g && x.bnd == .phase8)
    if 1 < s.gmods g ∧ waits ∧ !x.slowed ∧ x.since + s.tm.slow * 1000000 ≤ s.now then
      let cause := if !s.leads g then 3 else if x.cut || x.bnd != .arrived then 2 else 1
      let n := if cause = 3 then 0 else if cause = 2 then x.dones.length else x.arrives.length
      let s := s.modGroup g fun x => { x with slowed := true }
      raise s 0x52 cause (leBytes 2 (tget 0 s.img.jgid g) ++ leBytes 2 n ++ leBytes 4 x.next ++ leBytes 2 x.leader)
    else s)

end Sys2Proof.Machine
end

