-- ==== Sys2Proof/Machine/Power.lean ====
section
/-! DEFINITION. Clocks and power: the reference monitor (R405), crossings (R409), margins (R419-R421), idle frequency changes
(R415), measurement (R425), capping (R432), temperatures (R441-R443), alerts (R439), the easing of limiters (R428), job
frequency (R435-R437) and storage gating (R430). -/

namespace Sys2Proof.Machine

/-! ### The reference monitor and crossings -/

/-- Stop every compute die for good, as for a faulting tile (R405). -/
def stopAllRef (s : State) : State :=
  (List.range 8).foldl (fun s d => s.modDie d fun x => { x with stop := { x.stop with ref := true } }) s

/-- REF_MONITOR: the oscillator runs within 200 ppm of REFCLK, or not (R405) (log 59). -/
def execRefMonitor (ok : Bool) (s : State) : Out :=
  .next (
    if s.pw.off then s
    else if ok then s.modCk fun c => { c with refFault := false }
    else if s.ck.refFault then s
    else
      let s := stopAllRef (s.modCk fun c => { c with refFault := true })
      let s := raise s 0x60 1 (leBytes 4 0)
      if s.tm.state = .holdover then s
      else raise (s.modTm fun t => { t with state := .holdover, s := 0 }) 0x50 0 (leBytes 1 s.tm.active))

/-- CROSSING_DETECT: the phase of a crossing of a die has moved by `move` 64ths of a cyc since its alignment (R409). -/
def execCrossingDetect (die : Fin 8) (xing : BitVec 16) (move : Nat) (s : State) : Out :=
  .next (
    let d := die.val
    if s.clockOff d then s
    else if move < 16 then s
    else
      let s := s.modCk fun c => { c with pending := if bit c.pending d then c.pending else c.pending + 2 ^ d }
      if move < 28 ∨ (s.die d).stop.xing then s
      else
        let s := s.modDie d fun x => { x with stop := { x.stop with xing := true } }
        raise s 0x60 2 (leBytes 1 d ++ leBytes 1 0 ++ leBytes 2 xing.toNat))

/-! ### Margins -/

/-- Replica-path monitors of a region (R419). -/
def monitorsOf (region : Nat) : Nat := if region % 3 = 2 then 8 else 12

/-- One monitor's sample: consecutive samples below LOW and below CRIT. -/
def marginRuns (s : State) (region : Nat) (m : Nat × Nat) : State :=
  let key := region * 16 + m.2
  s.modCk fun c => { c with
    lowRun := tset 0 c.lowRun key (if m.1 < c.low then min 8 (tget 0 c.lowRun key + 1) else 0)
    critRun := tset 0 c.critRun key (if m.1 < c.crit then min 2 (tget 0 c.critRun key + 1) else 0) }

/-- DIE, REGION, SLACK of MARGIN_LOW. -/
def marginData (region slack : Nat) : List Byte := leBytes 1 (region / 3) ++ leBytes 1 (region % 3) ++ leBytes 1 slack

/-- The least slack of the monitors that have been low for long enough (R420, R421). -/
def leastOf (l : List (Nat × Nat)) : Nat := l.foldl (fun a m => min a m.1) 255

/-- R420: MARGIN_LOW(LOW) and a request for one slower state, again every 100 µs. -/
def marginLow (s : State) (region slack : Nat) : State :=
  let last := tget 0 s.ck.lowAt region
  if last = 0 ∨ last - 1 + 100000 ≤ s.now then
    let s := s.modCk fun c => { c with lowAt := tset 0 c.lowAt region (s.now + 1) }
    let s := raise s 0x62 1 (marginData region slack)
    s.modPw fun p => { p with margin := max p.margin (min 14 (p.state + 1)), marginAt := s.now + 1000000000 }
  else s

/-- MARGIN_SAMPLE: the slacks that the monitors of a region sample, in units of 1/256 of the period (R419-R421). -/
def execMarginSample (region : Fin 24) (slacks : List (BitVec 8)) (s : State) : Out :=
  .next (
    let r := region.val
    let l := (slacks.take (monitorsOf r)).map BitVec.toNat
    if s.clockOff (r / 3) then s else
    match l with
    | [] => s
    | a :: rest =>
      let least := rest.foldl min a
      let s := s.modCk fun c => { c with marginMin := tset 0 c.marginMin r (max (tget 0 c.marginMin r) (255 - least)) }
      let s := (l.zipIdx).foldl (fun s m => marginRuns s r m) s
      let lows := l.zipIdx.filter fun m => tget 0 s.ck.lowRun (r * 16 + m.2) == 8
      let crits := l.zipIdx.filter fun m => tget 0 s.ck.critRun (r * 16 + m.2) == 2
      let s := if lows.isEmpty then s.modCk fun c => { c with lowAt := tset 0 c.lowAt r 0 } else marginLow s r (leastOf lows)
      if crits.isEmpty then s
      else
        let s := s.modCk fun c => { c with critRun := c.critRun.filter (fun e => e.1 / 16 != r) }
        fallback (raise s 0x62 2 (marginData r (leastOf crits))) 1)

/-! ### Changes without a boundary -/

/-- FREQ_APPLY_IDLE (R415). -/
def execFreqApplyIdle (s : State) : Out :=
  .next (
    if !s.pw.off ∧ s.idleClock ∧ stateMhz s.target ≠ s.ck.cur then applyFreq s s.target else s)

/-! ### Measurement and capping -/

/-- POWER_MEASURE: the power of both inputs in 0.1 W and their voltages in 10 mV (R425). -/
def execPowerMeasure (pA pB vA vB : BitVec 16) (s : State) : Out :=
  .next (s.modPw fun p =>
    let p := { p with vA := vA.toNat, vB := vB.toNat }
    if p.off then p else
    let a := p.accA + pA.toNat
    let b := p.accB + pB.toNat
    let full := decide (100 ≤ p.accN + 1)
    { p with
      energy := p.energy + pA.toNat + pB.toNat
      accA := if full then 0 else a, accB := if full then 0 else b, accN := if full then 0 else p.accN + 1
      pinA := if full then a / 100 else p.pinA, pinB := if full then b / 100 else p.pinB
      capSum := p.capSum + pA.toNat + pB.toNat, capN := p.capN + 1 })

/-- Average input power of the capping window in W (log 61). -/
def Power.windowAvg (p : Power) : Nat := if p.capN = 0 then 0 else p.capSum / (10 * p.capN)

/-- The cap limiter at the end of a window (R432) (log 61). -/
def Power.capStep (p : Power) : Power :=
  let above := decide (10 * p.watts * p.capN < p.capSum)
  let under := decide (p.capSum + 10 * p.hyst * p.capN < 10 * p.watts * p.capN)
  let calm := if under then min 4 (p.calm + 1) else 0
  if p.watts = 0 then { p with cap := 0, calm := 0 }
  else if above then { p with cap := min 14 (p.cap + 1), calm := 0 }
  else if calm = 4 then { p with cap := p.cap - 1, calm := 4 }
  else { p with calm := calm }

/-- CAP_WINDOW (R432) (log 65). -/
def execCapWindow (s : State) : Out :=
  .next (
    if s.pw.off then s else
    let old := s.pw
    let s := s.modPw fun p => { p.capStep with capSum := 0, capN := 0 }
    if old.watts ≠ 0 ∧ 10 * old.watts * old.capN < old.capSum ∧ old.state = 14 ∧
        (old.capAt = 0 ∨ old.capAt - 1 + 1000000000 ≤ s.now) then
      raise (s.modPw fun p => { p with capAt := s.now + 1 }) 0x73 0 (leBytes 2 old.windowAvg ++ leBytes 2 old.watts)
    else s)

/-! ### Temperatures -/

/-- Sensors of a source of PW_TEMP (Table 15-5): compute dies, I/O dies, regulator dies, Cavern stacks. -/
def sensorsOf (src : Nat) : Nat := if src < 8 then 16 else if src < 12 then 4 else if src < 20 then 2 else if src < 52 then 1 else 0

/-- Record one reading; sensors that do not exist give none. -/
def readSensor (p : Power) (r : Nat × Nat × BitVec 16) : Power :=
  if r.2.1 < sensorsOf r.1 then { p with temps := tset 0 p.temps (r.1 * 16 + r.2.1) (r.2.2.toNat + 1) } else p

/-- The highest reading, and its source; the lowest source among equals. -/
def Power.hottest (p : Power) : Int × Nat :=
  match p.temps with
  | [] => (0, 0)
  | a :: l => l.foldl (fun (b : Int × Nat) e =>
      let t := signedOf 16 (e.2 - 1)
      if b.1 < t then (t, e.1 / 16) else b) (signedOf 16 (a.2 - 1), a.1 / 16)

/-- The die that THERMAL_HIGH names for a source (log 66). -/
def dieOfSource (src : Nat) : Nat := if src < 12 then src else if src < 20 then src - 12 else (src - 20) / 4

/-- THERMAL_HIGH (log 66). -/
def thermalHigh (s : State) : State :=
  raise (s.modPw fun p => { p with highTj := p.tj + 1 }) 0x76 0 (leBytes 2 s.pw.tj ++ leBytes 1 (dieOfSource s.pw.tjSrc))

/-- The DBG_ registers reset; the TAP, in the standby domain, is kept (R559). -/
def Debug.reset (d : Debug) : Debug := { d with scope := 0, die := 0, vtile := 0, stepN := 0, latch := [] }

/-- Everything but what the standby domain, the pins, the persistent storage and the host hold is lost with the
supply (R424, Table 18-2). -/
def offState (s : State) (cause : Nat) : State :=
  { pending := s.pending, free := s.free, made := s.made
    mem := { host := s.mem.host }
    er := { retired := s.er.retired }
    fw := { s.fw with staging := none }
    dbg := s.dbg.reset
    ce := { irqs := s.ce.irqs }
    fab := { ports := s.fab.ports.filterMap (fun p => if p.2.osfp then some (p.1, { osfp := true }) else none) }
    pw := { pA := s.pw.pA, pB := s.pw.pB, src := s.pw.src, vA := s.pw.vA, vB := s.pw.vB, energy := s.pw.energy
            thermtrip := s.pw.thermtrip }
    boot := { pwrOk := s.boot.pwrOk, perst := s.boot.perst, resetN := s.boot.resetN, standby := s.boot.standby
              smbSlot := s.boot.smbSlot, ident := s.boot.ident, identPend := s.boot.identPend, lastOff := cause, depart := s.boot.depart } }

/-- THERMTRIP (R442) (log 60). During an orderly stop too, which it ends unfinished (R444). -/
def thermTrip (s : State) : State := offState (s.modPw fun p => { p with thermtrip := true }) 3

/-- Two sensors of one die read 110 °C or more in consecutive samples (log 60). -/
def tripsAt (old new listed : List Nat) : Bool :=
  (List.range 20).any fun src =>
    decide (2 ≤ ((List.range 16).filter (fun k =>
      let x := src * 16 + k
      listed.contains x && old.contains x && new.contains x)).length)

/-- The thermal limiter at a sample with junction temperature `tj` (R441). -/
def thermalLimiter (s : State) (tj : Int) : State :=
  let limit : Int := (s.pw.throttle * 10 : Nat)
  if limit ≤ tj then
    let first := decide (s.pw.thermAt = 0)
    let due := first || decide (s.pw.thermAt - 1 + 1000000 ≤ s.now)
    let s := s.modPw fun p => { p with
      coolAt := 0
      therm := if due then min 14 (max p.therm p.state + 1) else p.therm
      thermAt := if due then s.now + 1 else p.thermAt }
    if first then thermalHigh s
    else if signedOf 16 (s.pw.highTj - 1) + 10 ≤ tj then thermalHigh s
    else s
  else
    s.modPw fun p => { p with
      thermAt := 0
      coolAt := if tj ≤ limit - 30 then (if p.coolAt = 0 then s.now + 1 else p.coolAt) else 0 }

/-- THERMAL_SAMPLE: readings as (source, sensor, 0.1 °C as a 16-bit pattern) (R441, R442). -/
def execThermalSample (readings : List (Nat × Nat × BitVec 16)) (s : State) : Out :=
  .next (
    if s.pw.off ∧ !s.pw.stopping then s else
    let s := s.modPw fun p => readings.foldl readSensor p
    if s.pw.temps.isEmpty then s else
    let hot := s.pw.hottest
    let listed := (readings.filter (fun r => decide (r.2.1 < sensorsOf r.1))).map (fun r => r.1 * 16 + r.2.1)
    let old := s.pw.hot
    let new := (s.pw.temps.filter (fun e => decide (1100 ≤ signedOf 16 (e.2 - 1)))).map (·.1)
    let s := s.modPw fun p => { p with tj := unsignedOf 16 hot.1, tjSrc := hot.2, hot := new }
    if tripsAt old new listed then thermTrip s
    else if s.pw.off then s
    else
      let s := thermalLimiter s hot.1
      if 1000 ≤ hot.1 then (fallback s 2).modPw fun p => { p with therm := 14 } else s)

/-- THERMAL_EASE (R441). -/
def execThermalEase (s : State) : Out :=
  .next (
    if !s.pw.off ∧ 0 < s.pw.therm ∧ s.pw.coolAt ≠ 0 ∧ s.pw.coolAt - 1 + 10000000 ≤ s.now then
      s.modPw fun p => { p with therm := p.therm - 1, coolAt := p.coolAt + 10000000 }
    else s)

/-- COOLANT of one cause, at most once per 10 s while the condition lasts. -/
def coolantCause (s : State) (cause : Nat) (on : Bool) : State :=
  let last := tget 0 s.pw.coolantAt cause
  if on then
    if last = 0 ∨ last - 1 + 10000000000 ≤ s.now then
      let s := s.modPw fun p => { p with coolantAt := tset 0 p.coolantAt cause (s.now + 1) }
      raise s 0x77 cause (leBytes 2 s.pw.inlet ++ leBytes 2 s.pw.outlet ++ leBytes 2 s.pw.flow)
    else s
  else s.modPw fun p => { p with coolantAt := tset 0 p.coolantAt cause 0 }

/-- COOLANT_CHECK: the 1 s averages of inlet and outlet (0.1 °C) and of the flow (0.01 L/min) (R443) (log 68). -/
def execCoolantCheck (inlet outlet flow : BitVec 16) (s : State) : Out :=
  .next (
    if s.pw.off then s else
    let i := inlet.toInt
    let o := outlet.toInt
    let s := s.modPw fun p => { p with inlet := inlet.toNat, outlet := outlet.toNat, flow := flow.toNat }
    let s := coolantCause s 1 (decide (i < 150 ∨ 400 < i))
    let s := coolantCause s 2 (decide (flow.toNat < 200))
    coolantCause s 3 (decide (250 < o - i)))

/-! ### Alerts and easing -/

/-- REG_ALERT: 1 + n regulator die under CDn, 9 stage A, 10 stage B, 11 ALERT# (R439). At P14 it performs no fallback; while an
earlier fallback has not finished, FB records its cause too (R418) (log 67). -/
def execRegAlert (src : Fin 12) (s : State) : Out :=
  .next (
    if s.pw.off ∨ src.val = 0 then s
    else
      let s := if s.pw.state = 14 then
          let (n, s) := s.fresh
          let s := if s.ck.fbAt ≠ 0 ∧ s.now < s.ck.fbAt + 1000 ∧ Config.fbUnfinished n then
              s.modCk fun c => { c with fb := if bit c.fb 0 then c.fb else c.fb + 1 }
            else s
          s.modPw fun p => { p with alert := 14, alertAt := s.now + p.hold * 1000000 }
        else fallback s 0
      raise s 0x75 src.val [])

/-- ALERT_EASE (Table 15-3). -/
def execAlertEase (s : State) : Out :=
  .next (
    if 0 < s.pw.alert ∧ s.pw.alertAt ≤ s.now then
      s.modPw fun p => { p with alert := p.alert - 1, alertAt := s.now + 1000000 }
    else s)

/-- MARGIN_EASE (Table 15-3). -/
def execMarginEase (s : State) : Out :=
  .next (
    if 0 < s.pw.margin ∧ s.pw.marginAt ≤ s.now then
      s.modPw fun p => { p with margin := p.margin - 1, marginAt := s.now + 1000000000 }
    else s)

/-- LOCK_CLEAR (Table 15-3). -/
def execLockClear (s : State) : Out :=
  .next (if 0 < s.pw.lock ∧ s.pw.lockAt ≤ s.now then s.modPw fun p => { p with lock := 0 } else s)

/-! ### One frequency for a job -/

/-- THROTTLE_ANNOUNCE: a member's changed local limit goes to the leader of a job, at most once per 100 µs per leader
(R435). -/
def execThrottleAnnounce (g : Fin 8) (s : State) : Out :=
  .next (
    let g := g.val
    let limit := s.pw.localLimit
    let leader := (s.group g).leader
    let at_ := tget 0 s.pw.annAt leader
    if s.img.loaded ∧ 1 < s.gmods g ∧ !s.leads g ∧ tget 0 s.pw.annLim g ≠ limit + 1 ∧
        (at_ = 0 ∨ at_ - 1 + 100000 ≤ s.now) then
      throttleSend (s.modPw fun p => { p with annAt := tset 0 p.annAt leader (s.now + 1) }) g
        ((tget 0 s.pw.annSeq g + 1) % 2 ^ 32)
    else s)

/-- Sequence number `a` precedes `b` modulo 2^32. -/
def seqPrecedes (a b : Nat) : Bool := a != b && decide ((b + 2 ^ 32 - a) % 2 ^ 32 < 2 ^ 31)

/-- THROTTLE: delivered packet `i` announces a member's limit (R436, R437). -/
def execThrottle (i : Nat) (s : State) : Out :=
  .next (match s.inAt i 0x0E 0x20 with
    | none => s
    | some a =>
      let p := a.pkt
      let s := dropIn s i
      match s.groupOfJg (fieldAt p.data 0 2) with
      | none => wack s p stStale
      | some g =>
        let key := jobKey g p.src
        let old := tget 0 s.pw.limits key
        let seq := fieldAt p.data 4 4
        if old ≠ 0 ∧ seqPrecedes seq ((old - 1) / 16) then wack s p stStale
        else
          let s := s.modPw fun q => { q with limits := tset 0 q.limits key (1 + min 14 (fieldAt p.data 2 1) + 16 * seq) }
          wack s p stOk)

/-- JOBFREQ: delivered packet `i` gives the job state of a group (R436, R437). -/
def execJobfreq (i : Nat) (s : State) : Out :=
  .next (match s.inAt i 0x0E 0x21 with
    | none => s
    | some a =>
      let p := a.pkt
      let s := dropIn s i
      match s.groupOfJg (fieldAt p.data 0 2) with
      | none => wack s p stStale
      | some g =>
        let s := s.modPw fun q => { q with job := tset 0 q.job g (min 14 (fieldAt p.data 2 1)) }
        wack s p stOk)

/-! ### Storage gating -/

/-- Power down the storage that PW_GATE selects, the bound tiles with their scratchpads: it holds unspecified data when it is
next powered (R87, R430). -/
def gateStorage (s : State) : State :=
  let s := if s.pw.gateSpad then
      { s with
        mem := { s.mem with spad := [], spadErr := [], spadCe := [] }, pw := { s.pw with spadOff := true }
        tiles := s.tiles.map (fun t => (t.1, { seq := t.2.seq })) }
    else s
  if s.pw.gateCav then
    { s with mem := { s.mem with cav := [], cavErr := [], cavCe := [], rewrite := [] }, pw := { s.pw with cavOff := true } }
  else s

/-- STORAGE_GATE_DELAY (R430). -/
def execStorageGateDelay (s : State) : Out :=
  .next (
    if s.ce.state = .ended ∧ s.pw.endAt ≠ 0 ∧ ((s.pw.gateSpad ∧ !s.pw.spadOff) ∨ (s.pw.gateCav ∧ !s.pw.cavOff)) ∧
        s.pw.endAt - 1 + s.pw.gateDelay * 1000000 ≤ s.now then gateStorage s
    else s)

end Sys2Proof.Machine
end

