-- ==== Sys2Proof/Machine/Window.lean ====
section
/-! DEFINITION. Control space and accesses from outside the schedule: the tile's debug window (R529, R530), the page
manager's window (R245, R246), the Cavern controllers' (R531), and one 8 B access of any space (R498, R527, R528). -/

namespace Sys2Proof.Machine

/-! ### The tile's debug window (Table 19-3) -/

/-- Access of an 8 B word of the window: 0 not listed, 1 RO row, 2 RW row. -/
def winAccess (off : Nat) : Nat :=
  if off < 0x10 then 1
  else if 0x40 ≤ off ∧ off < 0x140 then 2
  else if 0x140 ≤ off ∧ off < 0x1C0 then 1
  else if 0x200 ≤ off ∧ off < 0x740 then 2
  else if 0x740 ≤ off ∧ off < 0x750 then 1
  else if 0x780 ≤ off ∧ off < 0x800 then 1
  else if 0x800 ≤ off ∧ off < 0x1C00 then 2
  else if 0x2000 ≤ off ∧ off < 0x2800 then 2
  else if 0x4000 ≤ off ∧ off < 0x8000 then 1
  else 0

/-- Bits of an 8 B word that a write may change. -/
def winMask (off : Nat) : Nat :=
  if winAccess off ≠ 2 then 0
  else if off < 0x80 then 0x000FFFFF000FFFFF
  else if off = 0x80 then 0xFFFFFFFFFFFF0000
  else if off < 0xC0 then 2 ^ 64 - 1
  else if off < 0x100 then (if off % 16 = 0 then 0x3FFFFFFF else 0)
  else if off < 0x140 then
    (match off % 32 / 8 with | 0 => 0xFFFFFFFFF000001F | 1 => 0xFFFFF | _ => 2 ^ 64 - 1)
  else if off < 0x300 then (if off % 16 = 0 then 2 ^ 64 - 1 else 2 ^ 39 - 1)
  else if off < 0x500 then (if off % 16 = 0 then 2 ^ 64 - 1 else 2 ^ 14 - 1)
  else if off < 0x700 then
    (match off % 32 / 8 with | 0 => 0 | 1 => 0xFFFFFFFFFF800000 | 2 => 0xFFFFFFFFFFFFFFC0 | _ => 2 ^ 64 - 1)
  else if 0x1000 ≤ off ∧ off < 0x1800 then
    if off % 128 = 0 then 2 ^ 64 - 2 ^ 13 else if 32 ≤ off % 128 ∧ off % 16 = 8 then 2 ^ 56 - 1 else 2 ^ 64 - 1
  else if off < 0x2000 then 2 ^ 64 - 1
  else (match off % 32 / 8 with | 0 => 2 ^ 48 - 1 | 1 => 2 ^ 48 - 1 | 2 => 0 | _ => 0xFFFFFF0083FF)

/-- TSTATE of Table 19-4 (log 69). -/
def Seq.code : Seq → Nat
  | .issuing => 0 | .starting _ => 0 | .inStepb _ => 1 | .ended => 2 | .waiting _ => 3 | .faulted => 4 | .awaiting => 5
  | .stopped => 6

/-- Tile status (Table 19-4). -/
def State.tileStatus (s : State) (k : Nat) : Nat :=
  let t := s.tile k
  t.pc % 2 ^ 13 + t.seq.code * 2 ^ 13 + tget 0 s.img.stagger k % 64 * 2 ^ 16 + t.fault % 256 * 2 ^ 22 + t.bphit % 16 * 2 ^ 30 +
    t.wphit % 4 * 2 ^ 34

/-- A breakpoint (Table 19-7), a watchpoint (Table 19-8). -/
def Breakpt.word (b : Breakpt) : Nat := b2n b.en + b.index * 2 + b.count * 2 ^ 14
def Watchpt.word (w : Watchpt) : Nat :=
  b2n w.en + b2n w.rd * 2 + b2n w.wr * 4 + b2n w.arr * 8 + b2n w.vm * 16 + w.count * 2 ^ 28 + w.base * 2 ^ 44 +
    w.limit * 2 ^ 64 + w.value * 2 ^ 128 + w.vmask * 2 ^ 192

/-- A receive channel as the window packs it. -/
def Chan.word (c : Chan) : Nat :=
  b2n c.en + b2n c.ren * 2 + c.region * 4 + c.base * 2 ^ 6 + c.left * 2 ^ 26 + c.nl * 2 ^ 37 + c.gcnt * 2 ^ 48

/-- A region descriptor, the fields of Table 3-1 packed from bit 0. -/
def Region.word (g : Region) : Nat :=
  b2n g.en + g.base * 2 + g.size * 2 ^ 21 + g.head * 2 ^ 42 + g.tail * 2 ^ 62 + g.fill * 2 ^ 82

def Region.ofWord (v : Nat) : Region :=
  { en := bit v 0, base := bits v 20 1, size := bits v 41 21, head := bits v 61 42, tail := bits v 81 62, fill := bits v 102 82 }

/-- A move descriptor (R92). -/
def MoveDesc.word (m : MoveDesc) : Nat := m.addr.toNat + m.stride.toNat * 2 ^ 48 + m.rctl.toNat * 2 ^ 72

/-- A plane tag. -/
def Plane.tag (p : Plane) : Nat := b2n p.kind + b2n p.fmt * 2 + p.vlast * 4

/-- A quantisation point record (Table 6-8). -/
def QPoint.word (q : QPoint) : Nat :=
  q.total + q.clipped * 2 ^ 64 + q.wtotal * 2 ^ 128 + q.wclip * 2 ^ 160 + q.model * 2 ^ 192 + b2n q.mvalid * 2 ^ 207 +
    q.wsteps * 2 ^ 208 + q.win * 2 ^ 216 + q.thresh * 2 ^ 224

/-- Word `j` of 8 B of a wide value. -/
def word64 (v j : Nat) : Nat := v / 2 ^ (64 * j) % 2 ^ 64

/-- A wide value with one of its 8 B words replaced. -/
def putWord (v j x : Nat) : Nat := setBits v (64 * j) 64 x

/-- The 8 B at an offset of a tile's window; none where no row lists it. -/
def State.winRead (s : State) (k off : Nat) : Option Nat :=
  let t := s.tile k
  if winAccess off = 0 then none
  else some (
    if off < 0x40 then word64 (s.tileStatus k) (off / 8)
    else if off < 0x80 then
      let i := (off - 0x40) / 4
      (tget 0 t.ctr i).toNat + (tget 0 t.ctr (i + 1)).toNat * 2 ^ 32
    else if off < 0xC0 then
      let i := (off - 0x80) / 2
      (List.range 4).foldr (fun j v => (if i + j = 0 then 0 else (tget 0 t.ac (i + j)).toNat) + v * 2 ^ 16) 0
    else if off < 0x100 then word64 (tget {} t.bp ((off - 0xC0) / 16)).word (off % 16 / 8)
    else if off < 0x140 then word64 (tget {} t.wp ((off - 0x100) / 32)).word (off % 32 / 8)
    else if off < 0x1C0 then word64 (tget {} t.ch ((off - 0x140) / 16)).word (off % 16 / 8)
    else if off < 0x300 then word64 (tget {} t.regions ((off - 0x200) / 16)).word (off % 16 / 8)
    else if off < 0x500 then word64 (tget {} t.md ((off - 0x300) / 16)).word (off % 16 / 8)
    else if off < 0x700 then word64 (tget 0 t.rd ((off - 0x500) / 32)) (off % 32 / 8)
    else if off < 0x740 then leNat ((List.range 8).map (fun j => tget 0 t.mx.zp (off - 0x700 + j)))
    else if off < 0x750 then (if off = 0x740 then t.mx.active.tag else t.mx.shadow.tag)
    else if off < 0x800 then word64 (s.die (k / 256)).idle ((off - 0x780) / 8)
    else if off < 0x1000 then
      let i := (off - 0x800) / 2
      (List.range 4).foldr (fun j v => (tget 0 t.mx.cb (i + j)).toNat + v * 2 ^ 16) 0
    else if off < 0x1800 then leNat ((List.range 8).map (fun j => tget 0 t.vxcfg (off - 0x1000 + j)))
    else if off < 0x1C00 then
      let i := (off - 0x1800) / 4
      (tget 0 t.lut i).toNat + (tget 0 t.lut (i + 1)).toNat * 2 ^ 32
    else if off < 0x2800 then word64 (tget {} t.qp ((off - 0x2000) / 32)).word (off % 32 / 8)
    else unsignedOf 64 (tget 0 t.mx.acc ((off - 0x4000) / 8)))

/-- A quantisation point after a write of one word: a changed configuration restarts the window (R190). -/
def QPoint.put (q : QPoint) (j v : Nat) : QPoint :=
  match j with
  | 0 => { q with total := bits v 47 0 }
  | 1 => { q with clipped := bits v 47 0 }
  | 2 => q
  | _ =>
    let n := { q with model := bits v 9 0, mvalid := bit v 15, win := bits v 31 24, thresh := bits v 47 32 }
    if n = q then q else { n with wsteps := 0, wclip := 0, wtotal := 0 }

/-- A tile after a write of the RW fields of one 8 B word of its window (log 70). -/
def Tile.winWrite (t : Tile) (off v : Nat) : Tile :=
  if winAccess off ≠ 2 then t
  else if off < 0x80 then
    let i := (off - 0x40) / 4
    { t with ctr := tset 0 (tset 0 t.ctr i (BitVec.ofNat 20 v)) (i + 1) (BitVec.ofNat 20 (v / 2 ^ 32)) }
  else if off < 0xC0 then
    let i := (off - 0x80) / 2
    { t with ac := (List.range 4).foldl (fun a j =>
        if i + j = 0 then a else tset 0 a (i + j) (BitVec.ofNat 16 (v / 2 ^ (16 * j)))) t.ac }
  else if off < 0x100 then
    if off % 16 ≠ 0 then t else
    { t with bp := tset {} t.bp ((off - 0xC0) / 16) { en := bit v 0, index := bits v 13 1, count := bits v 29 14 } }
  else if off < 0x140 then
    { t with wp := tmod {} t.wp ((off - 0x100) / 32) (fun w =>
        match off % 32 / 8 with
        | 0 => { w with en := bit v 0, rd := bit v 1, wr := bit v 2, arr := bit v 3, vm := bit v 4, count := bits v 43 28
                        base := bits v 63 44 }
        | 1 => { w with limit := bits v 19 0 }
        | 2 => { w with value := v }
        | _ => { w with vmask := v }) }
  else if off < 0x300 then
    { t with regions := tmod {} t.regions ((off - 0x200) / 16) (fun g => Region.ofWord (putWord g.word (off % 16 / 8) v)) }
  else if off < 0x500 then
    { t with md := tmod {} t.md ((off - 0x300) / 16) (fun m =>
        let w := putWord m.word (off % 16 / 8) v
        { addr := BitVec.ofNat 48 w, stride := BitVec.ofNat 24 (w / 2 ^ 48), rctl := BitVec.ofNat 6 (w / 2 ^ 72) }) }
  else if off < 0x700 then { t with rd := tmod 0 t.rd ((off - 0x500) / 32) (fun r => putWord r (off % 32 / 8) v) }
  else if off < 0x740 then
    { t with mx := { t.mx with zp := (List.range 8).foldl (fun z j =>
        tset 0 z (off - 0x700 + j) (BitVec.ofNat 8 (v / 2 ^ (8 * j)))) t.mx.zp } }
  else if off < 0x1000 then
    let i := (off - 0x800) / 2
    { t with mx := { t.mx with cb := (List.range 4).foldl (fun c j =>
        tset 0 c (i + j) (BitVec.ofNat 10 (v / 2 ^ (16 * j)))) t.mx.cb } }
  else if off < 0x1800 then
    { t with vxcfg := (List.range 8).foldl (fun c j =>
        tset 0 c (off - 0x1000 + j) (BitVec.ofNat 8 (v / 2 ^ (8 * j)))) t.vxcfg }
  else if off < 0x1C00 then
    let i := (off - 0x1800) / 4
    { t with lut := tset 0 (tset 0 t.lut i (BitVec.ofNat 32 v)) (i + 1) (BitVec.ofNat 32 (v / 2 ^ 32)) }
  else { t with qp := tmod {} t.qp ((off - 0x2000) / 32) (fun q => q.put (off % 32 / 8) v) }

/-- A breakpoint, a watchpoint or a quantisation point record, which may be written while the die runs (R530). -/
def winWhileRuns (off : Nat) : Bool := decide (0xC0 ≤ off ∧ off < 0x140) || decide (0x2000 ≤ off ∧ off < 0x2800)

/-- The die runs, a gate hold and the cyc of a STEP included (R530, R536). -/
def State.dieRuns (s : State) (d : Nat) : Bool :=
  let x := s.die d
  s.ce.state == .running && !x.stop.fault && (!x.stop.halted || x.stop.step.any (· != 0)) && !x.stop.ref && !x.stop.xing && !x.stop.fenced

/-! ### The windows of the page manager and of the Cavern controllers -/

/-- A frame table entry (Table 8-5). -/
def FrameE.word (e : FrameE) : Nat :=
  e.off + e.tile * 2 ^ 32 + e.oslot * 2 ^ 58 + e.ogrp * 2 ^ 61 + e.spins * 2 ^ 64 + e.hpins * 2 ^ 80 + e.ref * 2 ^ 96 +
    e.loc * 2 ^ 116 + e.state * 2 ^ 118 + e.gen * 2 ^ 120

/-- The 8 B at an offset of BLOCK 0xF0 (R245, R246). -/
def State.pmRead (s : State) (d off : Nat) : Option Nat :=
  if off < 0x400000 then some (word64 (s.frame d (off / 16)).word (off % 16 / 8))
  else if off < 0x400040 then some (((s.pmStatus d).reverse[(off - 0x400000) / 8]?).getD 0)
  else none

/-- The addressed sub-array bound to a spare; 0x7F when unbound. -/
def State.spareOf (s : State) (d stack layer sp : Nat) : Nat :=
  let v := tget 0 s.img.spares (d * 16 + stack * 4 + layer * 2 + sp)
  if v = 0 then 0x7F else v - 1

/-- The 8 B at an offset of BLOCK 0xF1 (Table 19-5). -/
def State.cavernRead (s : State) (d off : Nat) : Option Nat :=
  let st := off / 0x1000
  let o := off % 0x1000
  if 4 ≤ st ∨ 32 ≤ o then none
  else match o / 8 with
    | 0 => some (tget 0 s.mem.patrol (4 * d + st) % 2 ^ 30 + tget 0 s.mem.passes (4 * d + st) % 2 ^ 32 * 2 ^ 32)
    | 1 => some (tget 0 s.mem.lastCe (4 * d + st))
    | 2 => some (s.spareOf d st 0 0 + s.spareOf d st 0 1 * 2 ^ 7 + s.spareOf d st 1 0 * 2 ^ 14 + s.spareOf d st 1 1 * 2 ^ 21)
    | _ => some 0

/-! ### One 8 B access (Table 19-2) -/

/-- Status codes of a debug access. -/
def accOk : Nat := 0
def accPending : Nat := 1
def accAddress : Nat := 2
def accRefused : Nat := 3
def accUe : Nat := 4
def accOff : Nat := 5

/-- The debug window of a block may be reached: a bound tile, or any tile for the port in STARTING, LOADED or ENDED
(R528). -/
def State.winReach (s : State) (port : Bool) (d block : Nat) : Bool :=
  s.bound d block ||
    (port && decide (block < 240) && (s.ce.state == .starting || s.ce.state == .loaded || s.ce.state == .ended))

/-- The address is one of the module's own, 8 B aligned. -/
def State.gaMine (s : State) (ga : Nat) : Bool := gaSlot ga == s.id.slot && ga % 8 == 0 && decide (ga < 2 ^ 48)

/-- Read 8 B: the status and the data. -/
def readWord (s : State) (port : Bool) (ga : Nat) : State × Nat × Nat :=
  let d := gaDie ga
  let b := gaBlock ga
  let o := gaOff ga
  if !s.gaMine ga then (s, accAddress, 0) else
  match gaSpace ga with
  | 0 =>
    if !s.bound d b ∨ 2 ^ 20 ≤ o then (s, accAddress, 0)
    else
      let k := d * 256 + b
      if !s.bankOn k o then (s, accOff, 0)
      else
        let (s, bad) := checkSp s k [(o, 8)]
        (s, if bad then accUe else accOk, s.spNat k o 8)
  | 1 =>
    if b ≠ 0 ∨ !s.img.loaded ∨ !s.subNamed d o then (s, accAddress, 0)
    else if !s.subOn d o then (s, accOff, 0)
    else
      let (s, bad) := checkCv s d [(o, 8)]
      (s, if bad then accUe else accOk, leNat (s.cvBytes d o 8))
  | 2 =>
    if b < 240 ∧ s.pw.spadOff ∧ s.bound d b then (s, accOff, 0) else
    let r := if b < 240 then (if s.winReach port d b then s.winRead (d * 256 + b) o else none)
      else if b = 0xF0 then s.pmRead d o
      else if b = 0xF1 then s.cavernRead d o
      else none
    (match r with | some v => (s, accOk, v) | none => (s, accAddress, 0))
  | _ => (s, accAddress, 0)

/-- Write 8 B: the status. -/
def writeWord (s : State) (port : Bool) (ga v : Nat) : State × Nat :=
  let d := gaDie ga
  let b := gaBlock ga
  let o := gaOff ga
  if !s.gaMine ga then (s, accAddress) else
  match gaSpace ga with
  | 0 =>
    if !s.bound d b ∨ 2 ^ 20 ≤ o then (s, accAddress)
    else
      let k := d * 256 + b
      if !s.bankOn k o then (s, accOff) else (spPut s k o (leBytes 8 v), accOk)
  | 1 =>
    if b ≠ 0 ∨ !s.img.loaded ∨ !s.subNamed d o then (s, accAddress)
    else if !s.subOn d o then (s, accOff)
    else (cvPut s d o (leBytes 8 v), accOk)
  | 2 =>
    if b < 240 then
      if !s.winReach port d b ∨ winAccess o = 0 then (s, accAddress)
      else if s.pw.spadOff ∧ s.bound d b then (s, accOff)
      else if winAccess o = 1 then (s, accRefused)
      else if s.dieRuns d ∧ !winWhileRuns o then (s, accRefused)
      else (s.modTile (d * 256 + b) fun t => t.winWrite o v, accOk)
    else if b = 0xF0 then (s, accRefused)
    else if b = 0xF1 then (s, if (s.cavernRead d o).isSome then accRefused else accAddress)
    else (s, accAddress)
  | _ => (s, accAddress)

/-- The bank or the Cavern line slot of an access from outside the schedule, where the present cyc has one free (R69, R78, R528). -/
def State.accessSlot (s : State) (ga : Nat) (wr : Bool) : Option State :=
  let k := gaDie ga * 256 + gaBlock ga
  if !s.gaMine ga then some s
  else match gaSpace ga with
    | 0 => if s.rangeTaken k (gaOff ga) 8 then none else some (s.useBanks k [(gaOff ga, 8)])
    | 1 => spareBeat s (gaDie ga) (gaOff ga) wr
    | _ => some s

/-- Read words from an address up until one fails: the bytes, and the status of the first that failed. -/
def readRange : Nat → State → Bool → Nat → State × Nat × List Byte
  | 0, s, _, _ => (s, accOk, [])
  | n + 1, s, port, ga =>
    match readWord s port ga with
    | (s, 0, v) =>
      match readRange n s port (ga + 8) with
      | (s, st, bs) => (s, st, leBytes 8 v ++ bs)
    | (s, st, _) => (s, st, [])

/-- Write words from an address up until one fails. -/
def writeRange : State → Bool → Nat → List Nat → State × Nat
  | s, _, _, [] => (s, accOk)
  | s, port, ga, v :: vs =>
    match writeWord s port ga v with
    | (s, 0) => writeRange s port (ga + 8) vs
    | (s, st) => (s, st)

end Sys2Proof.Machine
end

