-- ==== Sys2Proof/Machine/Load.lean ====
section
/-! DEFINITION. The Grezel image: its header and tables (R129, R130, R268), the checks of R131, the placing of tiles, spares
and contents (R46-R49, R64, R80, R86, R87), and loading and unloading (R487, R488). -/

namespace Sys2Proof.Machine

/-! ### Reading an image -/

/-- An image: `size` bytes at `base` of a memory. -/
structure Src where
  mem  : Memory
  base : Nat
  size : Nat

def Src.bytes (x : Src) (off n : Nat) : List Byte := mgets x.mem (x.base + off) n
def Src.num (x : Src) (off n : Nat) : Nat := leNat (x.bytes off n)
def Src.zero (x : Src) (off n : Nat) : Bool := x.num off n == 0
/-- A range lies within the image. -/
def Src.has (x : Src) (off n : Nat) : Bool := decide (off + n ≤ x.size)

/-- Die placement record (Table 2-3). -/
def Src.place (x : Src) (d : Nat) : Nat := x.num (0x20 + 16 * d) 16
def placeGrid (p : Nat) : Nat := bits p 75 74
def placeStagger (p : Nat) : Nat := bits p 73 72
def placeG2 (p : Nat) : Nat := bits p 71 16
def placeG4 (p : Nat) : Nat := bits p 11 0
def Src.grid (x : Src) (d : Nat) : Nat := placeGrid (x.place d)

/-- A virtual tile index names a tile of a grid (R52). -/
def gridHas (g vt : Nat) : Bool := decide (vt < 240) && (g == 2 || (g == 1 && vt % 15 != 14))

/-- Every tile the image maps: (die, virtual tile index). -/
def Src.tiles (x : Src) : List (Nat × Nat) :=
  (List.range 8).flatMap fun d => (numsWhere 240 (gridHas (x.grid d))).map fun v => (d, v)

def Src.profile (x : Src) : Nat := x.num 6 1
def Src.flags (x : Src) : Nat := x.num 7 1
def Src.id (x : Src) : Nat := x.num 8 8
def Src.groupOfDie (x : Src) (d : Nat) : Nat := x.num (0xA0 + d) 1
def Src.groupRec (x : Src) (g : Nat) : Nat := x.num (0xB0 + 8 * g) 8

/-- The usage map's bytes; what it names is a matter of its layout, which the manual does not give (log 20). -/
def Src.usage (x : Src) : List Byte := x.bytes (x.num 0x120 4) (x.num 0x124 4)
def Src.banks (x : Src) (d vt : Nat) : Nat := (Config.mapBanks x.usage d vt).toNat
def Src.subs (x : Src) (d : Nat) : Nat := (Config.mapSubs x.usage d).toNat
/-- First 4 KiB page and number of pages of a tile's code region. -/
def Src.code (x : Src) (d vt : Nat) : Nat × Nat :=
  let v := (Config.mapCode x.usage d vt).toNat
  (bits v 7 0, bits v 15 8)

def Src.staggerTable (x : Src) (d : Nat) : List Byte := x.bytes (x.num 0x128 4 + 240 * d) 240

/-- A segment record (Table 4-8). -/
structure Seg where
  kind   : Nat
  die    : Nat
  tile   : Nat
  target : Nat
  len    : Nat
  crc    : Nat
  source : Nat
  resv   : Bool

def Src.segs (x : Src) : List Seg :=
  (List.range (x.num 0x134 4)).map fun i =>
    let o := x.num 0x130 4 + 32 * i
    { kind := x.num o 1, die := x.num (o + 1) 1, tile := x.num (o + 2) 1, target := x.num (o + 4) 4, len := x.num (o + 8) 4
      crc := x.num (o + 0xC) 4, source := x.num (o + 0x10) 8, resv := x.zero (o + 3) 1 && x.zero (o + 0x18) 8 }

def Src.segData (x : Src) (g : Seg) : List Byte := x.bytes g.source g.len

/-- Bytes that segments load into a tile's scratchpad; 0 where none does. -/
def Src.loaded (x : Src) (gs : List Seg) (d vt off n : Nat) : List Byte :=
  (List.range n).map fun i =>
    match gs.find? (fun g => g.kind == 0 && g.die == d && g.tile == vt &&
        decide (g.target ≤ off + i ∧ off + i < g.target + g.len)) with
    | some g => mget x.mem (x.base + g.source + (off + i - g.target))
    | none => 0

/-- A model record (Table 9-1). -/
def Src.model (x : Src) (i : Nat) : Model :=
  let o := x.num 0x138 4 + 32 * i
  { id := x.num o 2, group := x.num (o + 2) 1, lanes := x.num (o + 3) 1, planes := x.num (o + 4) 1
    maxdepth := x.num (o + 5) 1, pchunk := x.num (o + 6) 2, kvgeo := x.num (o + 8) 4, vocab := x.num (o + 0xC) 4
    draft := x.num (o + 0x10) 2, banch := x.num (o + 0x12) 2, bwin := x.num (o + 0x14) 2 }

def Src.models (x : Src) : List Model := (List.range (x.num 0x13C 4)).map x.model

/-! ### The checks of R131, step 1 -/

/-- Header fields, and tables that lie within the image (log 63). -/
def Src.headerOk (x : Src) : Bool :=
  x.has 0 512 && x.num 0 4 == 0x4D495A47 && x.num 4 2 == 1 && x.num 0x18 8 == x.size &&
  (crc32 (x.bytes 0 0x10 ++ [0, 0, 0, 0] ++ x.bytes 0x14 0x1EC)).toNat == x.num 0x10 4 &&
  x.flags / 4 == 0 && x.zero 0x14 4 && x.zero 0xA8 8 && x.zero 0xF0 16 && x.zero 0x104 12 && x.zero 0x140 192 &&
  bits (x.num 0x100 4) 31 20 == 0 && (x.profile == 1 || x.profile == 2) &&
  decide (1 ≤ x.num 0x100 2 ∧ x.num 0x100 2 ≤ 1024) &&
  (List.range 8).all (fun g => x.groupRec g / 2 ^ 26 == 0 && decide (1 ≤ x.num (0x110 + 2 * g) 2 ∧ x.num (0x110 + 2 * g) 2 ≤ 1024)) &&
  x.has (x.num 0x120 4) (x.num 0x124 4) && x.has (x.num 0x130 4) (32 * x.num 0x134 4) &&
  x.has (x.num 0x138 4) (32 * x.num 0x13C 4) && decide (x.num 0x13C 4 ≤ 1024)

/-- A die placement record (R54) and its group (R131). -/
def Src.placeOk (x : Src) (d : Nat) : Bool :=
  let p := x.place d
  let g := x.groupOfDie d
  bits p 127 76 == 0 && bits p 15 12 == 0 && placeGrid p != 3 && decide (placeStagger p ≤ 1) &&
  (placeGrid p != 0 || (placeG2 p == 0 && placeG4 p == 0)) &&
  (List.range 8).all (fun b => (List.range 7).all fun k =>
    !(bit (placeG2 p) (7 * b + k) && decide (k / 2 ≤ 2) && bit (placeG4 p) (3 * (b / 2) + k / 2))) &&
  (if placeGrid p = 0 then g == 0xFF else decide (g < 8))

/-- An explicit stagger table (R65). -/
def Src.staggerOk (x : Src) (d : Nat) : Bool :=
  placeStagger (x.place d) == 0 ||
    (let t := x.staggerTable d
     let g := x.grid d
     let used := (numsWhere 240 (gridHas g)).map fun v => ((t[v]?).getD 0).toNat
     x.num 0x128 4 != 0 && x.num 0x12C 4 == 1920 && x.has (x.num 0x128 4) 1920 &&
     t.all (fun b => decide (b.toNat < 64)) &&
     (List.range 64).all (fun v => decide ((used.filter (· == v)).length ≤ 16)) &&
     (g != 1 || (List.range 16).all (fun r => (t[15 * r + 14]?).getD 0 == 0)))

/-- A code region and its banks (R45, R86). -/
def Src.codeOk (x : Src) (d vt : Nat) : Bool :=
  let (base, pages) := x.code d vt
  pages == 0 || (decide (0xC0 ≤ base ∧ base + pages ≤ 0x100 ∧ pages ≤ 64) &&
    (List.range pages).all (fun i => bit (x.banks d vt) ((base + i) / 16)))

/-- Words of a KIND 0x02 segment: RW rows, with 0 for every bit that is not RW (R529). -/
def Src.windowOk (x : Src) (g : Seg) : Bool :=
  g.target % 8 == 0 && (List.range (g.len / 8)).all (fun i =>
    let v := x.num (g.source + 8 * i) 8
    winAccess (g.target + 8 * i) == 2 && v &&& winMask (g.target + 8 * i) == v)

/-- A segment's record, its data and its target (R130, R131) (log 63). -/
def Src.segOk (x : Src) (g : Seg) : Bool :=
  g.resv && decide (g.kind ≤ 2 ∧ g.die ≤ 7) && (if g.kind = 1 then g.tile == 0 else decide (g.tile ≤ 239)) &&
  g.len % 8 == 0 && x.has g.source g.len && (crc32 (x.segData g)).toNat == g.crc &&
  (g.len == 0 ||
    match g.kind with
    | 0 => gridHas (x.grid g.die) g.tile && decide (g.target + g.len ≤ 2 ^ 20) &&
        (List.range 16).all (fun b => bit (x.banks g.die g.tile) b ||
          decide (g.target + g.len ≤ 65536 * b) || decide (65536 * (b + 1) ≤ g.target))
    | 1 => decide (g.target + g.len ≤ 2 ^ 32) &&
        (List.range 512).all (fun u => bit (x.subs g.die) u ||
          decide (g.target + g.len ≤ 2 ^ 23 * u) || decide (2 ^ 23 * (u + 1) ≤ g.target))
    | _ => gridHas (x.grid g.die) g.tile && x.windowOk g)

/-- Two segments cover a common byte. -/
def Seg.overlaps (a b : Seg) : Bool :=
  a.kind == b.kind && a.die == b.die && a.tile == b.tile && decide (a.target < b.target + b.len) &&
    decide (b.target < a.target + a.len)

def noOverlap : List Seg → Bool
  | [] => true
  | g :: gs => gs.all (fun h => !g.overlaps h) && noOverlap gs

/-- Bundle `i` of a tile's code region as the image loads it. -/
def Src.bundle (x : Src) (gs : List Seg) (d vt i : Nat) : Nat :=
  let (base, pages) := x.code d vt
  if i < 128 * pages then leNat (x.loaded gs d vt (4096 * base + 32 * i) 32) else 0

/-- Every bundle of a tile (R16, R17, R103). -/
def Src.bundlesOk (x : Src) (gs : List Seg) (d vt : Nat) : Bool :=
  let n := 128 * (x.code d vt).2
  (List.range n).all fun i =>
    let b := x.bundle gs d vt i
    bundleLegal b && transferLegal n i b (x.bundle gs d vt (i + 1))

/-- KV geometry word (R238). -/
def Src.geoOk (x : Src) (g : Nat) : Bool :=
  bits g 31 25 == 0 && bits g 9 8 == 0 && geoNstate g != 3 && decide (bits g 13 10 ≤ 8) &&
  decide (geoTpp g * geoLw g ≤ 8192) && x.grid (geoHome g) != 0

/-- A model record by itself (Table 9-1, R269). -/
def Src.modelOk (x : Src) (i : Nat) (m : Model) : Bool :=
  let o := x.num 0x138 4 + 32 * i
  decide (m.group < 8) && decide (1 ≤ m.lanes ∧ m.lanes ≤ 32) && decide (m.planes ≤ 31) && decide (m.lanes + m.planes ≤ 32) &&
  decide (m.maxdepth ≤ 8) && (if m.planes = 0 then m.pchunk == 0 else decide (1 ≤ m.pchunk ∧ m.pchunk ≤ 4096)) &&
  x.geoOk m.kvgeo && decide (1 ≤ m.vocab ∧ m.vocab ≤ 262144) && bits m.draft 14 10 == 0 && decide (1 ≤ m.bwin) &&
  x.zero (o + 0x16) 10 && (m.maxdepth == 0 || m.draftOf.isSome)

/-- A valid DRAFT (R269, R303). -/
def draftOk (ms : List Model) (i : Nat) (m : Model) : Bool :=
  match m.draftOf with
  | none => true
  | some j =>
    match ms[j]? with
    | none => false
    | some d => j != i && d.group == m.group && d.vocab == m.vocab && d.draftOf.isNone && d.lanes == m.lanes &&
        d.planes == m.planes && d.pchunk == m.pchunk && decide (geoLimp m.kvgeo ≤ geoLimp d.kvgeo) &&
        (ms.countP (fun o => o.draftOf == some j)) == 1

/-- The model table (R269, R303). -/
def Src.modelsOk (x : Src) : Bool :=
  let ms := x.models
  (ms.zipIdx).all (fun p => x.modelOk p.2 p.1 && draftOk ms p.2 p.1) &&
  decide ((ms.map (fun m => m.lanes + m.planes)).sum ≤ 16384) && decide ((ms.map (·.id)).Nodup) &&
  (List.range 8).all (fun g => ms.countP (fun m => m.group == g) == bits (x.groupRec g) 25 16)

/-- STAGGER_TABLES is 0 when no die uses a table (Table 4-7). -/
def Src.staggerHeadOk (x : Src) : Bool :=
  x.num 0x128 4 == 0 || (List.range 8).any (fun d => placeStagger (x.place d) != 0)

/-- Step 1 of R131. -/
def Src.paramOk (x : Src) : Bool :=
  x.headerOk && (List.range 8).all x.placeOk && (List.range 8).all x.staggerOk && x.staggerHeadOk && x.modelsOk &&
  (let gs := x.segs
   gs.all x.segOk && noOverlap (gs.filter (fun g => g.len != 0)) &&
   x.tiles.all (fun t => x.codeOk t.1 t.2 && x.bundlesOk gs t.1 t.2))

/-! ### Tiles as the image loads them (R46, R329, R529) -/

/-- A tile after one KIND 0x02 segment. -/
def Src.winLoad (x : Src) (t : Tile) (g : Seg) : Tile :=
  (List.range (g.len / 8)).foldl (fun t i => t.winWrite (g.target + 8 * i) (x.num (g.source + 8 * i) 8)) t

/-- A mapped tile after the load: the image's values, else 0; every arrival counter is 0; without a code region the tile has
ended (log 21). -/
def Src.tile (x : Src) (gs : List Seg) (d vt : Nat) : Tile :=
  let t := (gs.filter (fun g => g.kind == 2 && g.die == d && g.tile == vt)).foldl x.winLoad
    { seq := if (x.code d vt).2 = 0 then .ended else .awaiting }
  { t with ac := [] }

def Src.tileTable (x : Src) : Tbl Tile :=
  let gs := x.segs
  x.tiles.foldl (fun t p => tset {} t (p.1 * 256 + p.2) (x.tile gs p.1 p.2)) []

/-- An N form in a code region or in a chain configuration that the image loads (R111, R115). -/
def Src.nForm (x : Src) : Bool :=
  let gs := x.segs
  x.tiles.any (fun t => (List.range (128 * (x.code t.1 t.2).2)).any (fun i => bundleN (x.bundle gs t.1 t.2 i))) ||
  x.tileTable.any (fun t => (List.range 16).any (fun c =>
    (VCfg.ofBytes ((List.range 128).map (fun j => tget 0 t.2.vxcfg (128 * c + j)))).atom))

/-! ### Binding and spares (R47-R49, R80) -/

/-- Mask of the retired tiles of a row (log 31). -/
def State.retiredCols (s : State) (d row : Nat) : Nat := maskOf (numsWhere 16 (s.tileRetired d row))

/-- Skipped columns a grid needs. -/
def gridNeed (g : Nat) : Nat := if g = 2 then 1 else 2

/-- The largest number of retired tiles in a row. -/
def State.worstRow (s : State) (d : Nat) : Nat :=
  ((List.range 16).map (fun r => popCount (s.retiredCols d r) 16)).foldl max 0

/-- The die offers a grid (Table 2-2); a die turned off offers none (R431). -/
def State.offers (s : State) (d g : Nat) : Bool :=
  !bit s.pw.dieOffCur d && (if g = 2 then decide (s.worstRow d ≤ 1) else decide (s.worstRow d ≤ 2))

/-- Default skip set of a row (R48). -/
def defaultSkip (retired need : Nat) : Nat :=
  let have_ := numsWhere 16 (bit retired)
  maskOf (have_ ++ ((numsWhere 16 (fun c => !bit retired c)).reverse.take (need - have_.length)))

/-- An explicit skip set is valid: it holds every retired tile and has the size the grid needs (R49). -/
def State.skipOk (s : State) (d row g mask : Nat) : Bool :=
  s.retiredCols d row &&& mask == s.retiredCols d row && popCount mask 16 == gridNeed g

/-- The skip set of a row, and whether an explicit one has become invalid. -/
def State.skipFor (s : State) (d row g : Nat) : Nat × Bool :=
  let dflt := defaultSkip (s.retiredCols d row) (gridNeed g)
  let e := tget 0 s.ce.maps ((d * 16 + row) * 4 + g)
  if e = 0 then (dflt, false) else if s.skipOk d row g (e - 1) then (e - 1, false) else (dflt, true)

/-- Retired addressed sub-arrays of one SRAM die, in the order of their retirement. -/
def State.retiredSubs (s : State) (d stack layer : Nat) : List Nat :=
  (List.range s.retiredAll.length).filterMap fun i =>
    let r := (s.retiredAll[i]?).getD 0
    if residClass r = 3 ∧ r = residSub d stack layer (r % 128) ∧ r % 128 < 64 then some (r % 128) else none

/-- The spares bound to them: (spare 0 or 1, SUB). -/
def State.spareBind (s : State) (d stack layer : Nat) : List (Nat × Nat) :=
  ([0, 1].filter (fun sp => !s.retiredAll.contains (residSub d stack layer (64 + sp)))).zip (s.retiredSubs d stack layer)

/-- Every SRAM die: (die, stack, layer). -/
def sramDies : List (Nat × Nat × Nat) :=
  (List.range 8).flatMap fun d => (List.range 4).flatMap fun t => [(d, t, 0), (d, t, 1)]

def State.spareTable (s : State) : Tbl Nat :=
  sramDies.foldl (fun t x => (s.spareBind x.1 x.2.1 x.2.2).foldl (fun t b =>
    tset 0 t (x.1 * 16 + x.2.1 * 4 + x.2.2 * 2 + b.1) (b.2 + 1)) t) []

/-- Absent sub-arrays: retired ones left without a spare. -/
def State.absentTable (s : State) : Tbl Nat :=
  sramDies.foldl (fun t x =>
    let subs := s.retiredSubs x.1 x.2.1 x.2.2
    (subs.drop (s.spareBind x.1 x.2.1 x.2.2).length).foldl (fun t u =>
      tset 0 t (x.1 * 512 + x.2.1 * 128 + x.2.2 * 64 + u) 1) t) []

/-- Step 4 of R131: R55, R80, R85. A die turned off has no Cavern (log 22). -/
def Src.fits (x : Src) (s : State) : Bool :=
  let absent := s.absentTable
  (List.range 8).all fun d =>
    (x.grid d == 0 || s.offers d (x.grid d)) &&
    (List.range 512).all (fun u => !bit (x.subs d) u || (tget 0 absent (d * 512 + u) == 0 && !bit s.pw.dieOffCur d))

/-- STATUS and DETAIL of the checks of R131. -/
def Src.status (x : Src) (s : State) : Nat × Nat :=
  firstBad [(!x.paramOk, stParam, 0xFFFF),
            (x.profile == 2 && !s.made.b0, stProfile, 0),
            (s.ce.strict && (bit x.flags 0 || x.nForm), stStrict, 0),
            (!x.fits s, stNospace, 0)]

/-! ### The image in place -/

/-- A table over 0 … n-1. -/
def tableOf (n : Nat) (f : Nat → Nat) : Tbl Nat := (List.range n).foldl (fun t i => tset 0 t i (f i)) []

/-- Stagger value of a tile (R64, R65). -/
def Src.stagger (x : Src) (d vt : Nat) : Nat :=
  if placeStagger (x.place d) = 0 then 4 * (4 * (vtRow vt % 4) + vtCol vt % 4)
  else (((x.staggerTable d)[vt]?).getD 0).toNat

/-- What LOAD_IMAGE fixes (R56). -/
def Src.image (x : Src) (s : State) : Image :=
  let key (t : Nat × Nat) : Nat := t.1 * 256 + t.2
  let perTile (f : Nat → Nat → Nat) : Tbl Nat := x.tiles.foldl (fun t p => tset 0 t (key p) (f p.1 p.2)) []
  { loaded := true, profile := x.profile, nUsed := bit x.flags 0, serving := bit x.flags 1, id := x.id
    grid := tableOf 8 x.grid, g2 := tableOf 8 (fun d => placeG2 (x.place d)), g4 := tableOf 8 (fun d => placeG4 (x.place d))
    stagger := perTile x.stagger
    skip := (List.range 128).foldl (fun t i =>
      if x.grid (i / 16) = 0 then t else tset 0 t i (s.skipFor (i / 16) (i % 16) (x.grid (i / 16))).1) []
    groupOf := tableOf 8 (fun d => if x.grid d = 0 then 0 else x.groupOfDie d + 1)
    jgid := tableOf 8 (fun g => x.groupRec g % 65536), models := tableOf 8 (fun g => bits (x.groupRec g) 25 16)
    jobModules := x.num 0x100 2, jobRacks := bits (x.num 0x100 4) 18 16, twin := bit (x.num 0x100 4) 19
    gmods := tableOf 8 (fun g => x.num (0x110 + 2 * g) 2)
    codeBase := perTile (fun d v => if (x.code d v).2 = 0 then 0 else (x.code d v).1 + 1)
    codeLen := perTile (fun d v => (x.code d v).2)
    banks := perTile x.banks
    subs := (List.range 8).foldl (fun t d => (numsWhere 512 (bit (x.subs d))).foldl (fun t u => tset 0 t (d * 512 + u) 1) t) []
    absent := s.absentTable, spares := s.spareTable
    segs := x.segs.map (fun g => (g.kind, g.die, g.tile, g.target, g.len))
    defmap := maskOf (numsWhere 8 (fun d => x.grid d != 0 && (List.range 16).any (fun r => (s.skipFor d r (x.grid d)).2))) }

/-! ### Contents that stay (R87) -/

/-- Physical column of a virtual column, and the reverse, under an image's binding. -/
def Image.phys (m : Image) (d row c : Nat) : Nat :=
  ((numsWhere 16 (fun p => !bit (tget 0 m.skip (d * 16 + row)) p))[c]?).getD 15
def Image.virt (m : Image) (d row p : Nat) : Option Nat :=
  (numsWhere 16 (fun q => !bit (tget 0 m.skip (d * 16 + row)) q)).idxOf? p

/-- Where a scratchpad byte of the old binding stands in the new one, if its bank was and is powered. -/
def keepSpad (old new : Image) (key : Nat) : Option Nat :=
  let k := key / 2 ^ 20
  let off := key % 2 ^ 20
  let d := k / 256
  let row := vtRow (k % 256)
  match new.virt d row (old.phys d row (vtCol (k % 256))) with
  | none => none
  | some c =>
    let v := 15 * row + c
    if c < 15 ∧ gridHas (tget 0 new.grid d) v ∧ bit (tget 0 old.banks k) (off / 65536) ∧
        bit (tget 0 new.banks (d * 256 + v)) (off / 65536) then
      some ((d * 256 + v) * 2 ^ 20 + off)
    else none

/-- The spare that serves a sub-array: 0 none. -/
def Image.spareFor (m : Image) (i : Nat) : Nat :=
  let key := i / 512 * 16 + i / 128 % 4 * 4 + i / 64 % 2 * 2
  if tget 0 m.spares key = i % 64 + 1 then 1 else if tget 0 m.spares (key + 1) = i % 64 + 1 then 2 else 0

/-- A sub-array stays powered and is the same storage. -/
def keepSub (old new : Image) (i : Nat) : Bool :=
  tget 0 old.subs i != 0 && tget 0 new.subs i != 0 && tget 0 old.absent i == 0 && old.spareFor i == new.spareFor i

/-- Entries of a table under new keys; those without one are dropped (log 64). -/
def rekey {α : Type} [DecidableEq α] (d : α) (t : Tbl α) (f : Nat → Option Nat) : Tbl α :=
  t.foldl (fun u e => match f e.1 with | some k => tset d u k e.2 | none => u) []

/-- Memory after a load, before its segments (log 64). -/
def Mem.kept (m : Mem) (old new : Image) : Mem :=
  let word (w : Nat) : Option Nat := (keepSpad old new (8 * w)).map (· / 8)
  let sub (key : Nat) : Bool := keepSub old new (key / 2 ^ 23)
  { m with
    spad := rekey 0 m.spad (keepSpad old new)
    spadErr := m.spadErr.foldl (fun t e => match word e.1 with | some w => tins w e.2 t | none => t) []
    spadCe := m.spadCe.foldl (fun t e => match word (e.2 - 1) with | some w => tset 0 t (w / 8192) (w + 1) | none => t) []
    cav := m.cav.filter (fun c => sub c.1)
    cavErr := m.cavErr.filter (fun e => sub (8 * e.1))
    cavCe := m.cavCe.filter (fun e => keepSub old new e.1)
    rewrite := m.rewrite.filter (fun w => sub (8 * w)) }

/-- One segment of KIND 0x00 or 0x01. -/
def loadSeg (x : Src) (s : State) (g : Seg) : State :=
  match g.kind with
  | 0 => spPut s (g.die * 256 + g.tile) g.target (x.segData g)
  | 1 => cvPut s g.die g.target (x.segData g)
  | _ => s

/-! ### What a load and an unload clear -/

/-- Hatcheck is cleared: GEN stays where the entry was FREE and advances where it was not (R270). -/
def Entry.cleared (e : Entry) : Entry := { gen := if e.state = .free then e.gen else (e.gen + 1) % 65536 }

/-- Guest frames on peers are released (R254; log 23). -/
def releaseGuests (s : State) : State :=
  s.pages.guests.foldl (fun s e =>
    let r := mkRef (e.1 / 2 ^ 21) (e.1 / 2 ^ 18 % 8) e.2.gen (e.1 % 2 ^ 18)
    pmAsk s (.pm (refDie r) 0) 3 r 0 0 0 []) s

/-- Every pending deferred change is discarded (R124, R490). -/
def discardDeferred (s : State) : State :=
  let drop (e : Entry) : Entry := { e with parkRec := none, restoreRec := false, depthRec := none }
  let s := s.modSv fun v => { v with entries := v.entries.map (fun p => (p.1, drop p.2)) }
  let s := if s.sv.tblState = 1 then
      s.modSv fun v => { v.dropTbl with tblState := 0, tblOld := [], oldStore := [], oldDesc := [] }
    else s
  let s := if s.sv.gtState = 1 then s.modSv fun v => { v with stGov := [], gtState := 0, govOld := [] } else s
  s.modTw fun t => { t with adopt := false, adopting := [] }

/-- Entries of a table under a default that may coincide with it. -/
def tnorm {α : Type} [DecidableEq α] (d : α) (t : Tbl α) : Tbl α := t.filter (fun e => e.2 != d)

/-- Hatcheck, Gauntlet, the prefixes and the page managers are cleared (R245, R270, R495) (log 87). -/
def clearServing (s : State) : State :=
  let s := releaseGuests s
  let s := s.modSv fun v => { v with
    entries := tnorm {} (v.entries.map (fun e => (e.1, e.2.cleared))), aseq := 0
    grants := [], tabStep := [], slices := [], sstops := [], orphans := []
    prefixes := tnorm {} (v.prefixes.map (fun p => (p.1, { gen := p.2.gen }))), prefGen := v.prefGen + 1 }
  { s with pages := {} }

/-- What the tiles started is gone with them; bridges keep their state. -/
def clearTraffic (s : State) : State :=
  { s with net := { bridges := s.net.bridges, nextId := s.net.nextId }
           fab := { s.fab with contribs := [], combs := [], awaiting := [], parts := [] } }

/-- Storage of the dies that `off` names loses its contents (R87). -/
def Mem.dropDies (m : Mem) (off : Nat) : Mem :=
  let sp (key : Nat) : Bool := !bit off (key / 2 ^ 28)
  let cv (key : Nat) : Bool := !bit off (key / 2 ^ 32)
  { m with
    spad := m.spad.filter (fun c => sp c.1), spadErr := m.spadErr.filter (fun e => sp (8 * e.1))
    spadCe := m.spadCe.filter (fun e => sp (65536 * e.1))
    cav := m.cav.filter (fun c => cv c.1), cavErr := m.cavErr.filter (fun e => cv (8 * e.1))
    cavCe := m.cavCe.filter (fun e => cv (2 ^ 23 * e.1)), rewrite := m.rewrite.filter (fun w => cv (8 * w)) }

/-- PW_DIE_OFF takes effect: a die turned off is supply-gated with its storage (R87, R431). -/
def gateDies (s : State) : State :=
  { s.modPw (fun p => { p with dieOffCur := p.dieOff }) with mem := s.mem.dropDies s.pw.dieOff }

/-- Dies before an image is placed on them; the stop of a reference fault lasts until a LOAD_IMAGE (R405). -/
def State.bareDies (s : State) : Tbl Die :=
  if s.ck.refFault then (List.range 8).foldl (fun t d => tset {} t d { stop := { ref := true } }) [] else []

/-- UNLOAD_IMAGE (R488) (log 87). -/
def unloadImage (s : State) : State :=
  let s := clearTraffic (clearServing (endPairing (discardDeferred s)))
  let s := { s with tiles := [], dies := s.bareDies, groups := [], img := { s.img with loaded := false } }
  let s := s.modSv fun v => { v with models := [] }
  (gateStorage ((gateDies s).modCe fun c => { c with state := .empty })).modPw fun p => { p with endAt := 0 }

/-- The image takes its place: the last part of LOAD_IMAGE (R46, R86, R87, R119, R487). `addr` and `bytes` are where the host
holds it; 0 when the twin sent it. -/
def placeImage (s : State) (x : Src) (addr bytes : Nat) : State :=
  let new := { x.image s with hostAddr := addr, hostSize := bytes }
  let s := { s with mem := s.mem.kept s.img new, img := new, tiles := x.tileTable, dies := [], groups := [] }
  let s := s.modPw fun p => { p with
    spadOff := false, cavOff := false, endAt := 0, dieOffCur := p.dieOff
    host := [], job := [], limits := [], told := [], annSeq := [], annLim := [], annAt := [] }
  let s := s.modPw fun p => { p with annLim := (List.range 8).foldl (fun t g => tset 0 t g (p.localLimit + 1)) [] }
  let s := (x.segs).foldl (loadSeg x) s
  let s := s.modSv fun v => { v with
    models := (x.models.zipIdx).foldl (fun t m => tset {} t m.2 m.1) [], counts := [], gov := [], stGov := [] }
  let s := s.modTw fun t => { t with fenced := false }
  let s := (List.range 16).foldl retrainBridge s
  let s := { s with groups := (List.range 8).foldl (fun t g => tset {} t g { leader := s.id.mid }) [] }
  s.modCe fun c => { c with state := .loaded, step := [] }

/-- A load ends with a status other than OK: nothing remains loaded (R487). -/
def loadFails (s : State) : State := s.modCe fun c => { c with state := .empty }

/-- The checks of R131, and the image in place when all pass: the state and the reply; no image is placed while the reference
fault lasts (R405) (log 62). -/
def finishLoad (s : State) (x : Src) (addr bytes : Nat) : State × Ans :=
  let (st, detail) := if s.ck.refFault then (stFault, 0) else x.status s
  if st ≠ 0 then (loadFails s, { status := st, detail := detail })
  else
    let s := placeImage s x addr bytes
    (s, { result := leBytes 8 s.img.id ++ leBytes 1 s.img.defmap })

end Sys2Proof.Machine
end

