-- ==== Sys2Proof/Machine/Twin.lean ====
section
/-! DEFINITION. The twin: pairing (R453), what arrives of its mirror points (R458, R459), notices and forwards (R460, R461),
heartbeats and loss (R462, R463), fencing (R466), and images over P15 (R521). -/

namespace Sys2Proof.Machine

/-- The path that leaves by P15 and ends at the twin. -/
def twinPath : Nat := 15 + 0x1E * 32

/-! ### Pairing (R453) -/

/-- Payload of PAIR: MID, 0 asking or 1 answering, IMAGE_ID (log 24). -/
def pairBytes (s : State) (answer : Nat) : List Byte := leBytes 2 s.id.mid ++ leBytes 1 answer ++ leBytes 5 0 ++ leBytes 8 s.img.id

/-- The modules are paired: points are numbered from 1 anew, and every entry of the own half is due whole. -/
def pairNow (s : State) (mid : Nat) : State :=
  let s := abandonPoints s
  let s := s.modTw fun t => { t with
    paired := true, asking := false, interval := t.asked.1, alt := t.asked.2, mid := mid, ownHalf := false, lost := false
    back := false, linkOff := false, heard := s.now, mirrors := [], landings := [], pointAt := [], stepAt := []
    sentFence := false }
  (s.slotsWhere (fun e => !e.shadow)).foldl (fun s i =>
    if i / 32768 = s.id.half then s.modEntry i fun e => { e with mpos := 0 } else s) s

/-- The exchange succeeds or fails: TWIN_CFG is answered. -/
def pairEnds (s : State) (mid : Nat) (ok : Bool) : State :=
  if ok then releaseHeld (pairNow s mid) .pair HeldReply.ans
  else releaseHeld (s.modTw fun t => { t with asking := false }) .pair fun _ => { status := stFabric }

/-- PAIR: delivered packet `i` carries the MID and IMAGE_ID of the module at the far end of P15. A module that is asked
answers while an image is loaded; the sender's points will be numbered from 1 anew. -/
def execPair (i : Nat) (s : State) : Out :=
  .next (match s.inAt i 0x0E 0x34 with
    | none => s
    | some a =>
      let p := a.pkt
      let mid := fieldAt p.data 0 2
      let id := fieldAt p.data 8 8
      let s := (dropIn s i).modTw fun t => { t with seen := some (mid, id) }
      let asked := fieldAt p.data 2 1 == 0
      let s := if asked ∧ s.tw.paired ∧ mid = s.tw.mid then
          let s := s.tw.landings.foldl (fun s l => dropLanding s l.2) s
          s.modTw fun t => { t with landings := [], pointAt := [], stepAt := [] }
        else s
      let s := if asked ∧ s.img.loaded then ctrlOn s twinPath p.src 0x34 (pairBytes s 1) else s
      if (s.tw.asking && (match s.peer 15 with | some (m, _) => m == mid | none => false)) = true then
        pairEnds s mid (id == s.img.id)
      else s)

/-- PAIR_EXCHANGE_TIMEOUT: the exchange has not succeeded within 100 ms. -/
def execPairExchangeTimeout (s : State) : Out := .next (if s.tw.asking then pairEnds s 0 false else s)

/-! ### Points that arrive (R458, R459) -/

/-- The packet comes from the twin while the modules are paired. -/
def State.fromTwin (s : State) (p : Packet) : Bool := s.tw.paired && p.src == s.tw.mid

def State.landing (s : State) (g : Nat) : Landing := tget {} s.tw.landings g
def State.setLanding (s : State) (g : Nat) (l : Landing) : State :=
  s.modTw fun t => { t with landings := tset {} t.landings g l }

/-- What a packet of point `seq` of a group meets. -/
inductive PointAt where
  /-- the point of the landing buffer -/
  | live
  /-- a point newer than it -/
  | newer
  /-- a point that has been installed -/
  | done
  /-- an abandoned or an older point -/
  | gone
  deriving DecidableEq, Repr

def State.pointAtOf (s : State) (g seq : Nat) : PointAt :=
  let l := s.landing g
  if seq = tget 0 s.tw.pointAt g then .done
  else if seq = l.seq then (if l.gone then .gone else .live)
  else if l.seq = 0 ∨ (seq + 2 ^ 24 - l.seq) % 2 ^ 24 < 2 ^ 23 then .newer
  else .gone

/-- The landing of a point, in place of an older one's. -/
def openLanding (s : State) (g seq : Nat) : State :=
  match s.pointAtOf g seq with
  | .newer => (dropLanding s (s.landing g)).setLanding g { seq := seq }
  | _ => s

/-- A group that runs no step places its point as soon as it is whole. -/
def placeIfIdle (s : State) (g : Nat) : State :=
  if s.ce.state = .running ∧ (s.group g).bnd ≠ .idle then s else placePoint s g

/-- ENTRY: delivered packet `i` brings an entry's 128 B. -/
def execEntry (i : Nat) (s : State) : Out :=
  .next (match s.inAt i 0x0D 0x01 with
    | none => s
    | some a =>
      let p := a.pkt
      let s := dropIn s i
      let g := fieldAt p.data 8 1
      let seq := p.aux / 256
      if !s.fromTwin p then twinAck s p stStale
      else if 8 ≤ g then twinAck s p stParam
      else match s.pointAtOf g seq with
        | .done => twinAck s p stOk
        | .gone => twinAck s p stOk
        | _ =>
          let s := openLanding s g seq
          let l := s.landing g
          let h := fieldAt p.data 0 4
          let rest := l.entries.filter (fun e => e.1 != h)
          let s := s.setLanding g { l with entries := rest ++ [(h, fieldAt p.data 4 4, (p.data.drop 16).take 128)] }
          placeIfIdle (twinAck s p stOk) g)

/-- The group that a handle of the twin belongs to: by its ENTRY, or by its shadow. -/
def State.groupOfHandle (s : State) (h : Nat) : Option Nat :=
  match s.tw.landings.find? (fun l => l.2.entries.any (fun e => e.1 == h)) with
  | some l => some l.1
  | none => (s.shadowOf h).map s.grpOf

/-- FRAME: delivered packet `i` brings one eighth of a frame. One whose group is not yet known waits for its ENTRY. -/
def execFrame (i : Nat) (s : State) : Out :=
  .next (match s.inAt i 0x0D 0x02 with
    | none => s
    | some a =>
      let p := a.pkt
      let h := fieldAt p.data 0 4
      let seq := p.aux / 256
      if !s.fromTwin p then twinAck (dropIn s i) p stStale
      else match s.groupOfHandle h with
        | none =>
          if s.tw.landings.any (fun l => l.2.seq == seq && l.2.gone) then twinAck (dropIn s i) p stOk else s
        | some g =>
          let s := dropIn s i
          match s.pointAtOf g seq with
          | .done => twinAck s p stOk
          | .gone => twinAck s p stOk
          | _ =>
            let s := openLanding s g seq
            let l := s.landing g
            let ref := fieldAt p.data 4 4
            let k := fieldAt p.data 8 1 % 8
            let s := if l.frames.any (fun f => f.1 == h && f.2.1 == ref && f.2.2.1 == k) then s else
              s.setLanding g { l with frames := l.frames ++ [(h, ref, k, (p.data.drop 16).take 1024, p.badFrom 16 1024)] }
            placeIfIdle (twinAck s p stOk) g)

/-- POINT_END: delivered packet `i` ends a point; its answer is given when the point is installed. -/
def execPointEnd (i : Nat) (s : State) : Out :=
  .next (match s.inAt i 0x0D 0x03 with
    | none => s
    | some a =>
      let p := a.pkt
      let s := dropIn s i
      let g := fieldAt p.data 0 1
      let seq := p.aux / 256
      if !s.fromTwin p then twinAck s p stStale
      else if 8 ≤ g then twinAck s p stParam
      else match s.pointAtOf g seq with
        | .done => twinAck s p stOk
        | .gone => twinAck s p stStale
        | _ =>
          let s := openLanding s g seq
          let l := s.landing g
          let step := fieldAt p.data 12 4
          let s := s.setLanding g { l with
            ended := some (p.src, p.tag, p.tgen), entryN := fieldAt p.data 4 4, frameN := fieldAt p.data 8 4, step := step }
          placeIfIdle (lagCheck s g step) g)

/-- POINT_INSTALL: the data of a group's placed point are written, and it is installed. -/
def execPointInstall (g : Fin 8) (s : State) : Out := .next (installPoint s g.val)

/-! ### Notices and forwards -/

/-- One record of a NOTICE: it gives the shadow's EMITPOS and EV, and frees the shadow where FREED is; a copy that a point in
progress holds of a freed entry is discarded (R460, R470). -/
def noticeRecord (s : State) (seq : Nat) (r : Nat) : State :=
  let h := bits r 31 0
  let s := match s.shadowOf h with
    | some _ => s.modEntry (h % 65536) fun e => { e with
        emitpos := bits r 55 32, ev := bit r 56, freed := e.freed || bit r 58 }
    | none => s
  if bit r 58 then
    s.modTw fun t => { t with landings := t.landings.map (fun l =>
      if l.2.seq = seq ∧ !l.2.gone then (l.1, { l.2 with drop := addOnce l.2.drop h }) else l) }
  else s

/-- NOTICE: delivered packet `i` holds records of 8 B (Table 16-5). -/
def execNotice (i : Nat) (s : State) : Out :=
  .next (match s.inAt i 0x0D 0x04 with
    | none => s
    | some a =>
      let p := a.pkt
      let s := dropIn s i
      if !s.fromTwin p then twinAck s p stStale
      else twinAck ((List.range (p.len / 8)).foldl (fun s j => noticeRecord s (p.aux / 256) (fieldAt p.data (8 * j) 8)) s) p stOk)

/-- FORWARD: delivered packet `i` is a command packet, kept with its shadow in the order of arrival (R461) (log 53). -/
def execForward (i : Nat) (s : State) : Out :=
  .next (match s.inAt i 0x0D 0x05 with
    | none => s
    | some a =>
      let p := a.pkt
      let s := dropIn s i
      let h := fieldAt p.data 16 4
      if !s.fromTwin p then twinAck s p stStale
      else match s.shadowOf h with
        | some _ =>
          twinAck (s.modEntry (h % 65536) fun e => { e with
            forwards := e.forwards ++ [(p.aux / 256, fieldAt p.data 0 2, p.data.drop 16)] }) p stOk
        | none => twinAck s p stStale)

/-- FORWARD_REPLY_TIMEOUT: 1 ms has passed without the twin's WACK for forward `n`. -/
def execForwardReplyTimeout (n : Nat) (s : State) : Out := .next (releaseHeld s (.forward n) HeldReply.ans)

/-! ### Heartbeats and loss (R462, R463) -/

/-- SERVING of a HEARTBEAT. -/
def State.servingNow (s : State) : Bool :=
  !s.tw.fenced && (List.range 8).all (fun d => let x := (s.die d).stop; !x.fault && !x.xing && !x.ref && !x.fenced)

def State.heartbeat (s : State) : List Byte :=
  leBytes 2 s.id.mid ++ leBytes 1 (b2n s.servingNow) ++ leBytes 1 0 ++ leBytes 4 s.tw.hbSeq ++ leBytes 8 s.img.id

/-- HEARTBEAT_SEND: every 10 ms, on P15 and on the alternate path. -/
def execHeartbeatSend (s : State) : Out :=
  .next (
    if s.tw.paired then
      let m := s.heartbeat
      let s := ctrlOn (ctrlOn s twinPath s.tw.mid 0x30 m) s.tw.alt s.tw.mid 0x30 m
      s.modTw fun t => { t with hbSeq := (t.hbSeq + 1) % 2 ^ 32 }
    else s)

/-- TWIN_LOST with its cause, once; points in progress are abandoned (R463, R465). -/
def twinLost (s : State) (cause : Nat) : State :=
  if s.tw.lost then s else twinEvent ((abandonPoints s).modTw fun t => { t with lost := true }) 0x81 cause

/-- HEARTBEAT: delivered packet `i`. -/
def execHeartbeat (i : Nat) (s : State) : Out :=
  .next (match s.inAt i 0x0E 0x30 with
    | none => s
    | some a =>
      let p := a.pkt
      let s := dropIn s i
      if !s.fromTwin p then s
      else
        let s := s.modTw fun t => { t with heard := s.now }
        if fieldAt p.data 2 1 % 2 = 0 then twinLost s 3
        else if s.tw.lost ∧ !s.tw.adopt ∧ !s.tw.back then
          twinEvent (s.modTw fun t => { t with back := true }) 0x83 0
        else s)

/-- HEARTBEAT_MISSED: no HEARTBEAT on either path for 35 ms. -/
def execHeartbeatMissed (s : State) : Out :=
  .next (if s.tw.paired ∧ s.tw.heard + 35000000 ≤ s.now then twinLost s 1 else s)

/-- DEPART: delivered packet `i`. -/
def execDepart (i : Nat) (s : State) : Out :=
  .next (match s.inAt i 0x0E 0x31 with
    | none => s
    | some a =>
      let s := dropIn s i
      if s.fromTwin a.pkt then twinLost s 2 else s)

/-! ### Fencing (R466) -/

/-- FENCE: delivered packet `i`, from the twin, be the pairing over or not. -/
def execFence (i : Nat) (s : State) : Out :=
  .next (match s.inAt i 0x0E 0x32 with
    | none => s
    | some a =>
      let s := dropIn s i
      if a.pkt.src = s.tw.mid ∧ !s.tw.fenced then
        let s := (List.range 8).foldl (fun s d => s.modDie d fun x => { x with stop := { x.stop with fenced := true } }) s
        twinEvent (s.modTw fun t => { t with fenced := true }) 0x85 0
      else s)

/-- GUEST_RELEASE: delivered packet `i` names a lost module of this board, whose guest frames the next phase 3 reclaims. -/
def execGuestRelease (i : Nat) (s : State) : Out :=
  .next (match s.inAt i 0x0E 0x33 with
    | none => s
    | some a =>
      let s := dropIn s i
      let lost := fieldAt a.pkt.data 0 2
      if lost / 8 = s.id.mid / 8 ∧ lost ≠ s.id.mid then
        s.modTw fun t => { t with guests := addOnce t.guests (lost % 8) }
      else s)

/-! ### Images over P15 (R521) -/

/-- Ask the twin for a range of its image. -/
def imageReq (s : State) (off n : Nat) : State :=
  ctrlOn s twinPath (match s.peer 15 with | some (m, _) => m | none => 0xFFFF) 0x40 (leBytes 8 off ++ leBytes 4 n ++ leBytes 4 0)

/-- An IMAGE_END with its status. -/
def imageEnd (s : State) (dst status : Nat) : State :=
  ctrlOn s twinPath dst 0x42 (leBytes 1 status ++ leBytes 7 0 ++ leBytes 8 s.img.hostSize)

/-- IMAGE_REQ: delivered packet `i` asks for a range of the image that this module last loaded from its host; `io` tells
whether the host read succeeds. -/
def execImageReq (i : Nat) (io : Bool) (s : State) : Out :=
  .next (match s.inAt i 0x0E 0x40 with
    | none => s
    | some a =>
      let p := a.pkt
      let s := dropIn s i
      if !s.img.loaded ∨ s.img.hostSize = 0 then imageEnd s p.src stState
      else if !io then imageEnd s p.src stFault
      else
        let off := fieldAt p.data 0 8
        let n := min (min (fieldAt p.data 8 4) (2 ^ 24)) (s.img.hostSize - off)
        let s := (List.range ((n + 239) / 240)).foldl (fun s j =>
          let at_ := off + 240 * j
          let c := min 240 (n - 240 * j)
          ctrlOn s twinPath p.src 0x41
            (leBytes 8 at_ ++ leBytes 2 c ++ leBytes 6 0 ++ padTo 240 (s.hostBytes (s.img.hostAddr + at_) c))) s
        imageEnd s p.src stOk)

/-- A load from the twin ends. -/
def endTwinLoad (s : State) (a : Ans) : State :=
  releaseHeld (s.modCe fun c => { c with load := none, excl := none }) .twinImage fun _ => a

/-- IMAGE_CHUNK: delivered packet `i` brings the next bytes of the image. -/
def execImageChunk (i : Nat) (s : State) : Out :=
  .next (match s.inAt i 0x0E 0x41 with
    | none => s
    | some a =>
      let p := a.pkt
      let s := dropIn s i
      match s.ce.load with
      | none => s
      | some l =>
        let n := min (fieldAt p.data 8 2) 240
        if fieldAt p.data 0 8 = l.got ∧ l.got + n ≤ l.ask then
          s.modCe fun c => { c with load := some { l with
            buf := mputs l.buf l.got ((p.data.drop 16).take n), got := l.got + n, heard := true } }
        else s.modCe fun c => { c with load := some { l with heard := true } })

/-- Ask for what is still missing, 16 MiB at a time (log 62). -/
def askMore (s : State) (l : TwinLoad) (size : Nat) : State :=
  let n := min (2 ^ 24) (size - l.got)
  imageReq (s.modCe fun c => { c with load := some { l with ask := l.got + n, size := some size, heard := false } }) l.got n

/-- IMAGE_END: delivered packet `i` ends a range: the next is asked for, or the image is checked and placed. -/
def execImageEnd (i : Nat) (s : State) : Out :=
  .next (match s.inAt i 0x0E 0x42 with
    | none => s
    | some a =>
      let p := a.pkt
      let s := dropIn s i
      match s.ce.load with
      | none => s
      | some l =>
        let st := fieldAt p.data 0 1
        let size := fieldAt p.data 8 8
        if st ≠ stOk then
          endTwinLoad (loadFails s) { status := if st = stFault then stFault else stFabric }
        else if l.got < size then askMore s l size
        else
          let (s, ans) := finishLoad s { mem := l.buf, base := 0, size := size } 0 0
          endTwinLoad s ans)

/-- TWIN_IMAGE_TIMEOUT: the twin has answered nothing within 100 ms. -/
def execTwinImageTimeout (s : State) : Out :=
  .next (match s.ce.load with
    | some l => if l.heard then s else endTwinLoad (loadFails s) { status := stFabric }
    | none => s)

end Sys2Proof.Machine
end

