-- ==== Sys2Proof/Machine/HostSetup.lean ====
section
/-! DEFINITION. Host commands that set the module up: IDENTIFY, GET_CONFIG, images (R487, R488), MAP_GRID (R49, R489), RUN and
STOP (R123, R395, R490), ARM_ECHO (R391), SET_POWER and SET_JOB_FREQ (R434, R493), and page pools (R244, R494). -/

namespace Sys2Proof.Machine

/-! ### Checks of payloads -/

/-- A reserved payload field of `n` bytes that is not 0 (R15, R483). -/
def rsvd (p : List Byte) (off n : Nat) : Bool × Nat × Nat := (fieldAt p off n != 0, stParam, off)

/-- A host address of a payload that is no multiple of 8 (log 73). -/
def misaligned (p : List Byte) (off : Nat) : Bool × Nat × Nat := (fieldAt p off 8 % 8 != 0, stParam, off)

/-- A field out of range. -/
def badField (b : Bool) (off : Nat) : Bool × Nat × Nat := (b, stParam, off)

/-- A host-memory access of the command fails. -/
def hostFails (io : Bool) : Bool × Nat × Nat := (!io, stFault, 0)

/-- Reply OK with a result. -/
def replyOk (s : State) (c : Cmd) (result : List Byte := []) : State := replyTo s c { result := result }

/-- Every module state. -/
def anyState (_ : ModState) : Bool := true

/-! ### IDENTIFY and GET_CONFIG -/

/-- IDENTIFY (Table 17-8). -/
def execIdentify (q : Fin 64) (s : State) : Out :=
  .next (runCmd s q { opcode := 0x0010, lenOk := lenIs 0, states := anyState } fun s c =>
    replyOk s c (leBytes 8 s.made.serial ++ leBytes 4 s.fw.version ++
      leBytes 1 (if s.made.b0 then 0xB0 else 0xA1) ++ leBytes 1 (if s.made.b0 then 3 else 1)))

/-- Absent sub-arrays: of the binding in place, or as the retired set gives them. -/
def State.absentNow (s : State) : Tbl Nat := if s.img.loaded then s.img.absent else s.absentTable

/-- The record of a die in the configuration report (Table 17-11). -/
def State.dieRecord (s : State) (d : Nat) : List Byte :=
  let placed := if s.img.loaded then tget 0 s.img.grid d else 0
  let gone (u : Nat) : Bool := tget 0 s.absentNow (d * 512 + u) != 0
  let retired := ((List.range 16).map (fun r => popCount (s.retiredCols d r) 16)).sum
  leBytes 1 (b2n (s.offers d 1) + 2 * b2n (s.offers d 2)) ++ leBytes 1 placed ++ leBytes 2 retired ++
    leBytes 2 (numsWhere 512 gone).length ++ leBytes 10 0 ++
    (List.range 16).flatMap (fun r => leBytes 2 (if placed = 0 then 0 else tget 0 s.img.skip (d * 16 + r))) ++
    leBytes 16 0 ++ (List.range 64).flatMap (fun i => leBytes 1 (maskOf (numsWhere 8 (fun j => gone (8 * i + j)))))

/-- FB_ID: the MID, 0xFFFF until it is known. -/
def State.fbId (s : State) : Nat := if s.id.valid then s.id.mid else 0xFFFF

/-- IMAGE_ID, 0 when no image is loaded. -/
def State.imageId (s : State) : Nat := if s.img.loaded then s.img.id else 0

/-- The configuration report. -/
def State.configReport (s : State) : List Byte :=
  leBytes 2 s.fbId ++ leBytes 1 s.ce.state.code ++ leBytes 1 0 ++ leBytes 4 s.fw.version ++ leBytes 8 s.imageId ++
    leBytes 4 s.fab.plan.id ++ leBytes 2 s.ck.cur ++ leBytes 1 s.pw.state ++ leBytes 1 (b2n s.ce.strict) ++
    leBytes 4 s.retiredAll.length ++ leBytes 1 (if s.img.loaded then s.img.defmap else 0) ++ leBytes 3 0 ++
    (List.range 32).flatMap (fun i => leBytes 1 (s.bridge (i / 2) (i % 2)).working) ++
    (List.range 8).flatMap s.dieRecord

/-- GET_CONFIG. -/
def execGetConfig (q : Fin 64) (io : Bool) (s : State) : Out :=
  .next (runCmd s q { opcode := 0x0011, lenOk := lenIs 16, states := anyState } fun s c =>
    let p := c.payload
    checkedCmd s c [rsvd p 0xC 4, misaligned p 0, badField (decide (fieldAt p 8 4 < 1088)) 8, hostFails io] fun s =>
      replyOk (hostPut s (fieldAt p 0 8) s.configReport) c (leBytes 8 s.imageId))

/-! ### Images -/

/-- States in which an image may be loaded. -/
def loadStates : ModState → Bool
  | .empty => true | .loaded => true | .ended => true | _ => false

/-- P15 is OK or DEGRADED. -/
def State.twinPortOk (s : State) : Bool := (s.port 15).status == 0 || (s.port 15).status == 7

/-- The twin is asked for the whole image; LOADING until it has come (R521). -/
def loadFromTwin (s : State) (c : Cmd) : State :=
  if s.twinPortOk then
    let s := s.modCe fun e => { e with state := .loading, excl := some 0x20, load := some { ask := 2 ^ 24 } }
    holdReply (imageReq s 0 (2 ^ 24)) c .twinImage {}
  else replyTo (loadFails s) c { status := stFabric }

/-- LOAD_IMAGE: the loaded image is unloaded; the new one is read, checked and placed (R487) (log 73). -/
def execLoadImage (q : Fin 64) (io : Bool) (s : State) : Out :=
  .next (runCmd s q { opcode := 0x0020, lenOk := lenIs 16, states := loadStates, excl := true } fun s c =>
    let p := c.payload
    checkedCmd s c [misaligned p 0] fun s =>
      let addr := fieldAt p 0 8
      let n := fieldAt p 8 8
      let s := if s.img.loaded then unloadImage s else clearServing s
      if s.ck.refFault then replyTo (loadFails s) c { status := stFault }
      else if addr = 0 ∧ n = 0 then loadFromTwin s c
      else if !io then replyTo (loadFails s) c { status := stFault }
      else
        let (s, ans) := finishLoad s { mem := s.mem.host, base := addr, size := n } addr n
        replyTo s c ans)

/-- UNLOAD_IMAGE (R488). -/
def execUnloadImage (q : Fin 64) (s : State) : Out :=
  .next (runCmd s q { opcode := 0x0021, lenOk := lenIs 0, states := fun m => m == .loaded || m == .ended, excl := true }
    fun s c => replyOk (unloadImage s) c)

/-! ### MAP_GRID -/

/-- A length of 4 + 4 COUNT. -/
def mapLen (p : List Byte) : Bool := decide (4 ≤ p.length) && p.length == 4 + 4 * fieldAt p 2 1

/-- A record of MAP_GRID is valid (R49, R489). -/
def State.mapRecOk (s : State) (d g : Nat) (r : List Byte) : Bool :=
  let clear := bit (fieldAt r 1 1) 0
  let mask := fieldAt r 2 2
  decide (fieldAt r 0 1 ≤ 15) && fieldAt r 1 1 / 2 == 0 && (if clear then mask == 0 else s.skipOk d (fieldAt r 0 1) g mask)

/-- Apply one record. -/
def applyMap (m : Tbl Nat) (d g : Nat) (r : List Byte) : Tbl Nat :=
  let key := (d * 16 + fieldAt r 0 1) * 4 + g
  tset 0 m key (if bit (fieldAt r 1 1) 0 then 0 else 1 + fieldAt r 2 2)

/-- MAP_GRID. -/
def execMapGrid (q : Fin 64) (s : State) : Out :=
  .next (runCmd s q { opcode := 0x0022, lenOk := mapLen, states := anyState, excl := true } fun s c =>
    let p := c.payload
    let d := fieldAt p 0 1
    let g := fieldAt p 1 1
    let recs := (List.range (fieldAt p 2 1)).map (fun i => (p.drop (4 + 4 * i)).take 4)
    checkedCmd s c ([rsvd p 3 1, badField (decide (7 < d)) 0, badField (g != 1 && g != 2) 1,
        badField (decide (16 < fieldAt p 2 1)) 2] ++
      (recs.zipIdx).map (fun r => badField (!s.mapRecOk d g r.1) (4 + 4 * r.2))) fun s =>
      replyOk (s.modCe fun e => { e with maps := recs.foldl (fun m r => applyMap m d g r) e.maps }) c)

/-! ### RUN and STOP -/

/-- RUN's part for one group: phases 4 and 7, then it counts as DONE with STEP 0 (R123, R395) (log 58). -/
def runGroup (s : State) (g : Nat) : State :=
  let s := firstFill s g
  let s := s.modGroup g fun x => { x with
    next := 0, since := s.now, slowed := false, cut := false, arrives := [], released := [] }
  phase8Done s g

/-- RUN. -/
def execRun (q : Fin 64) (s : State) : Out :=
  .next (runCmd s q { opcode := 0x0030, lenOk := lenIs 0, states := fun m => m == .loaded, excl := true } fun s c =>
    let unarmed := s.usedGroups.any (fun g => decide (1 < s.gmods g) && !(s.group g).armSet)
    checkedCmd s c [(unarmed, stState, 0)] fun s =>
      let s := s.modCe fun e => { e with state := .running }
      let s := s.modPw fun w => { w with told := [], endAt := 0 }
      replyOk (s.usedGroups.foldl runGroup s) c)

/-- A tile at STOP: one that has neither ended nor faulted is stopped. -/
def Tile.stop (t : Tile) : Tile :=
  match t.seq with
  | .ended => t
  | .faulted => t
  | _ => { t with seq := .stopped }

/-- A tile's work under way is given up; the beats it has issued complete (log 108). -/
def stopTile (s : State) (k : Nat) : State :=
  let s := (s.tile k).jobs.foldl Job.cut s
  s.modTile k fun t => { t with jobs := [] }.stop

/-- The present cyc ends, every bound tile stops, no gate holds, and a halt is cleared (R490, R541). -/
def stopTiles (s : State) : State :=
  let s := (List.range 8).foldl tickDie s
  let s := (List.range 8).foldl (fun s d => (s.boundTiles d).foldl (fun s v => stopTile s (d * 256 + v)) s) s
  (List.range 8).foldl (fun s d => s.modDie d fun x => { x with
    gates := [], held := false, mesh := []
    stop := { x.stop with fault := false, xing := false, atEnd := false, halted := false, haltEnd := false, step := none } }) s

/-- Echo disarms. -/
def disarm (s : State) : State := (List.range 8).foldl (fun s g => s.modGroup g fun x => { x with bnd := .idle }) s

/-- The task stops (R490) (log 86). -/
def stopTask (s : State) : State := applyIdle (endTask (discardDeferred (disarm (stopTiles s))) 2)

/-- STOP: the reply follows once the tiles' transactions are over. -/
def execStop (q : Fin 64) (s : State) : Out :=
  .next (runCmd s q { opcode := 0x0031, lenOk := lenIs 0, states := fun m => m == .running || m == .ended, excl := true }
    fun s c =>
      if s.ce.state = .ended then replyOk s c
      else stopCheck (holdReply ((stopTask s).modCe fun e => { e with excl := some 0x31 }) c .stopQuiet {}))

/-! ### ARM_ECHO -/

/-- A group the loaded image uses. -/
def State.groupUsed (s : State) (g : Nat) : Bool := s.usedGroups.contains g

/-- ARM_ECHO (R391) (log 51). -/
def execArmEcho (q : Fin 64) (s : State) : Out :=
  .next (runCmd s q { opcode := 0x0032, lenOk := lenIs 16, states := fun m => m == .loaded } fun s c =>
    let p := c.payload
    let g := fieldAt p 0 1
    let m := fieldAt p 2 2
    checkedCmd s c [rsvd p 1 1, rsvd p 4 4, badField (!s.groupUsed g) 0,
        badField (m == 0xFFFF || (s.gmods g == 1 && m != s.id.mid)) 2,
        (m != s.id.mid && (decide (1024 ≤ m) || (s.pathOf m).isNone), stFabric, 0)] fun s =>
      replyOk (s.modGroup g fun x => { x with leader := m, start := fieldAt p 8 8, armSet := true }) c)

/-! ### SET_POWER and SET_JOB_FREQ -/

/-- PW_DIE_OFF takes a value, which applies at once when no image is loaded (R431). -/
def setDieOff (s : State) (v : Nat) : State :=
  let s := s.modPw fun w => { w with dieOff := v }
  if s.img.loaded then s else gateDies s

/-- PW_CAP.WATTS takes a value (R432). -/
def setWatts (s : State) (v : Nat) : State := s.modPw fun w => { w with watts := v }

/-- A limit of PW_CAP. -/
def wattsOk (v : Nat) : Bool := v == 0 || decide (450 ≤ v ∧ v ≤ 2400)

/-- SET_POWER (R493). -/
def execSetPower (q : Fin 64) (s : State) : Out :=
  .next (runCmd s q { opcode := 0x0050, lenOk := lenIs 8, states := anyState } fun s c =>
    let p := c.payload
    let v := fieldAt p 0 1
    checkedCmd s c [rsvd p 3 1, rsvd p 6 2, badField (v / 8 != 0) 0, badField (bit v 0 && decide (14 < fieldAt p 1 1)) 1,
        badField (bit v 2 && !wattsOk (fieldAt p 4 2)) 4] fun s =>
      let s := if bit v 0 then s.modPw fun w => { w with ceil := fieldAt p 1 1 } else s
      let s := if bit v 1 then setDieOff s (fieldAt p 2 1) else s
      replyOk (if bit v 2 then setWatts s (fieldAt p 4 2) else s) c)

/-- SET_JOB_FREQ (R434) (log 51). -/
def execSetJobFreq (q : Fin 64) (s : State) : Out :=
  .next (runCmd s q { opcode := 0x0051, lenOk := lenIs 8, states := ModState.image } fun s c =>
    let p := c.payload
    let g := fieldAt p 0 1
    let st := fieldAt p 1 1
    checkedCmd s c [rsvd p 2 6, badField (!s.groupUsed g || !s.leads g) 0, badField (decide (14 < st)) 1] fun s =>
      replyOk (s.modPw fun w => { w with host := tset 0 w.host g st }) c)

/-! ### PAGE_POOL_CFG -/

/-- A length of 16 + 8 NRANGE + 4 NSPAD. -/
def poolLen (p : List Byte) : Bool :=
  decide (16 ≤ p.length) && p.length == 16 + 8 * fieldAt p 2 2 + 4 * fieldAt p 4 2

/-- Cavern ranges of a payload: (first byte, frames). -/
def poolRanges (p : List Byte) : List (Nat × Nat) :=
  (List.range (fieldAt p 2 2)).map fun i => (fieldAt p (16 + 8 * i) 4, fieldAt p (20 + 8 * i) 4)

/-- Scratchpad frames of a payload: (tile, SLOT8K, reserved). -/
def poolFrames (p : List Byte) : List (Nat × Nat × Nat) :=
  let o := 16 + 8 * fieldAt p 2 2
  (List.range (fieldAt p 4 2)).map fun i => (fieldAt p (o + 4 * i) 1, fieldAt p (o + 4 * i + 1) 1, fieldAt p (o + 4 * i + 2) 2)

/-- Two byte ranges meet. -/
def meets (a n b m : Nat) : Bool := decide (a < b + m) && decide (b < a + n)

/-- A Cavern range of a die may serve as pool. -/
def State.rangeOk (s : State) (d : Nat) (earlier : List (Nat × Nat)) (r : Nat × Nat) : Bool :=
  let n := 8192 * r.2
  r.1 % 8192 == 0 && decide (1 ≤ r.2 ∧ r.1 + n ≤ 2 ^ 32) &&
    (numsWhere 512 (fun u => meets r.1 n (2 ^ 23 * u) (2 ^ 23))).all (fun u => s.subNamed d (2 ^ 23 * u)) &&
    s.img.segs.all (fun g => !(g.1 == 1 && g.2.1 == d && meets r.1 n g.2.2.2.1 g.2.2.2.2)) &&
    earlier.all (fun e => !meets r.1 n e.1 (8192 * e.2))

/-- A scratchpad frame of a die may serve as pool. -/
def State.spadFrameOk (s : State) (d : Nat) (earlier : List (Nat × Nat × Nat)) (f : Nat × Nat × Nat) : Bool :=
  let off := 8192 * f.2.1
  let (cb, cn) := s.codeRegion (d * 256 + f.1)
  f.2.2 == 0 && s.bound d f.1 && decide (f.2.1 ≤ 127) && bit (tget 0 s.img.banks (d * 256 + f.1)) (off / 65536) &&
    !meets off 8192 cb cn &&
    s.img.segs.all (fun g => !(g.1 == 0 && g.2.1 == d && g.2.2.1 == f.1 && meets off 8192 g.2.2.2.1 g.2.2.2.2)) &&
    earlier.all (fun e => !(e.1 == f.1 && e.2.1 == f.2.1))

/-- Frames of every pool of the module. -/
def State.poolTotal (s : State) : Nat := ((List.range 8).map (fun d => (s.pm d).frames)).sum

/-- LOC, tile and offset of each frame of a pool, in its numbering. -/
def poolPlaces (rs : List (Nat × Nat)) (fs : List (Nat × Nat × Nat)) : List (Nat × Nat × Nat) :=
  rs.flatMap (fun r => (List.range r.2).map (fun i => (1, 0, r.1 + 8192 * i))) ++ fs.map (fun f => (2, f.1, 8192 * f.2.1))

/-- The frame table of a new pool: generations stay, and advance where a frame was in use. -/
def poolTable (old : Tbl FrameE) (places : List (Nat × Nat × Nat)) : Tbl FrameE :=
  let gen (e : FrameE) : Nat := if e.state = 0 then e.gen else (e.gen + 1) % 128
  let kept := old.foldl (fun t e => tset {} t e.1 { gen := gen e.2 }) []
  (places.zipIdx).foldl (fun t p =>
    tset {} t p.2 { gen := gen (tget {} old p.2), loc := p.1.1, tile := p.1.2.1, off := p.1.2.2 }) kept

/-- PAGE_POOL_CFG (R244, R494). -/
def execPagePoolCfg (q : Fin 64) (s : State) : Out :=
  .next (runCmd s q { opcode := 0x0060, lenOk := poolLen, states := fun m => m == .loaded, excl := true } fun s c =>
    let p := c.payload
    let d := fieldAt p 0 1
    let rs := poolRanges p
    let fs := poolFrames p
    let frames := (rs.map (·.2)).sum + fs.length
    let guest := fieldAt p 8 4
    checkedCmd s c ([rsvd p 1 1, rsvd p 6 2, rsvd p 0xC 4, badField (decide (7 < d)) 0,
        badField (decide (262144 < frames) || decide (2097152 < s.poolTotal - (s.pm d).frames + frames)) 2,
        badField (decide (frames < guest)) 8] ++
      (rs.zipIdx).map (fun r => badField (!s.rangeOk d (rs.take r.2) r.1) (16 + 8 * r.2)) ++
      (fs.zipIdx).map (fun f => badField (!s.spadFrameOk d (fs.take f.2) f.1) (16 + 8 * rs.length + 4 * f.2))) fun s =>
      let s := s.modPm d fun m => { m with
        frames := frames, guest0 := frames - guest, table := poolTable m.table (poolPlaces rs fs), resv := [] }
      replyOk s c (leBytes 4 frames))

end Sys2Proof.Machine
end

