-- ==== Sys2Proof/Machine/HostFabric.lean ====
section
/-! DEFINITION. Host commands on the fabric and the pairing: plans (R377, R381, R496, R516), the cabling report (R378),
EPOCH_SWITCH (R370), TWIN_CFG (R453, R497) and ADOPT (R464). -/

namespace Sys2Proof.Machine

/-! ### Plan images (Table 17-10) -/

def Src.pathEntry (x : Src) (m : Nat) : Nat := x.num (0x200 + 16 * m) 16
def Src.mcastEntry (x : Src) (g : Nat) : Nat := x.num (0x4200 + 8 * g) 8

/-- A valid path breaks R358, or a reserved bit is set. -/
def pathBad (v : Nat) : Bool := v / 2 ^ 81 != 0 || (bit v 80 && !legalPath (v % 2 ^ 80))

/-- A multicast entry with a reserved bit set (Table 12-8). -/
def mcastBad (v : Nat) : Bool := bits v 33 16 != 0

/-- A port number, or 0x1F for none. -/
def portOrNone (v : Nat) : Bool := decide (v < 16) || v == 0x1F

/-- A plan image fails a check of R377 or R496 (log 83). -/
def State.planBad (s : State) (x : Src) (id : Nat) (full : Bool) : Bool :=
  x.num 8 4 != id || x.num 0 2 != s.fbId || !x.zero 0xC 116 || !x.zero 0x140 192 ||
  (List.range 16).any (fun p => !x.zero (0x103 + 4 * p) 1) || !portOrNone (x.num 6 1) || !portOrNone (x.num 7 1) ||
  (full && ((List.range 1024).any (fun m => pathBad (x.pathEntry m)) ||
    (List.range 4096).any (fun g => mcastBad (x.mcastEntry g)) || x.mcastEntry 0 != 0))

/-- The planned peers. -/
def Src.peers (x : Src) : Tbl Nat :=
  (List.range 16).foldl (fun t p =>
    let m := x.num (0x100 + 4 * p) 2
    if m = 0xFFFF then t else tins p (m * 256 + x.num (0x102 + 4 * p) 1) t) []

/-- The switch that a silent module ended is over once a plan marks that module absent (R371). -/
def Epoch.without (e : Epoch) (present : List Nat) : Epoch :=
  match e.silent with
  | some m => if present.contains m then e else { e with silent := none, joined := false }
  | none => e

/-- The fields that a full plan and an UPDATE both replace; the identifier is that of the last full plan (R496). -/
def planFields (s : State) (x : Src) (id : Nat) (full : Bool) : State :=
  let present := numsWhere 1024 (bit (x.num 0x80 128))
  s.modFab fun f => { f with
    ep := f.ep.without present
    plan := { f.plan with
      have_ := true, master := x.num 2 2, leader := x.num 4 2, parent := x.num 6 1, backup := x.num 7 1
      id := if full then id else f.plan.id, present := present, peers := x.peers } }

/-- Both table slots and the staging area of a full plan; E becomes 0, and the requests held for another epoch are sent
again (R369, R375, R552). -/
def planTables (s : State) (x : Src) : State :=
  let paths := (List.range 1024).foldl (fun t m => tset 0 t m (x.pathEntry m)) []
  let mcast := (List.range 4096).foldl (fun t g => tset 0 t g (BitVec.ofNat 64 (x.mcastEntry g))) []
  let both {α : Type} (n : Nat) (t : Tbl α) : Tbl α := t ++ t.map (fun e => (n + e.1, e.2))
  let was := s.fab.ep.cur
  let s := s.modFab fun f => { f with
    paths := both 1024 paths, mcast := both 4096 mcast
    ep := { f.ep.idle with cur := 0, joined := f.ep.silent.isSome, complete := false } }
  let s := stageCopy s
  if was = 0 then s else (s.fab.out.filter (fun r => r.heldFor.isSome)).foldl resend s

/-- The time tree (R380, R381, Table 13-3) (log 83). -/
def planTree (s : State) : State :=
  let p := s.fab.plan
  if p.master = s.id.mid then
    s.modTm fun t => { t with state := .master, f := 0, s := 0, active := 0x1F, master := p.master, depth := 0 }
  else if p.parent < 16 then
    s.modTm fun t => { t.acquire p.parent s.tm.tick with master := 0xFFFF, depth := 0xF }
  else s.modTm fun t => { t with state := .free, f := 0, s := 0, active := 0x1F, master := 0xFFFF, depth := 0xF }

/-- The module takes time from no parent: phase 6 ends at once (R517). -/
def State.rootTime (s : State) : Bool := s.tm.state == .master || s.tm.state == .free

/-- Phases 5 and 6 begin at the reading of a full plan, and the check ends phase 5 (R516, R517). -/
def planPhases (s : State) (full : Bool) : State :=
  if s.ce.state ≠ .starting then s
  else if full then readyCheck (s.modBoot fun b => { b with phase := 6, checked := true, aligned := s.rootTime })
  else if s.boot.checked ∧ s.rootTime then alignedNow s
  else s

/-- Ports in service. -/
def State.inService (s : State) : Nat := maskOf ((List.range 16).filter s.portOk)

/-- BAD and INSERVICE. -/
def State.cabling (s : State) : List Byte := leBytes 2 s.badPorts ++ leBytes 2 s.inService

/-- Read a plan image and apply it: the state and the reply. -/
def readPlan (s : State) (p : List Byte) (io : Bool) : State × Ans :=
  let full := !bit (fieldAt p 0x10 2) 0
  let x : Src := { mem := s.mem.host, base := fieldAt p 0 8, size := fieldAt p 8 4 }
  if !io then (s, { status := stFault })
  else if s.planBad x (fieldAt p 0xC 4) full then (s, { status := stParam, detail := 0xFFFF })
  else
    let s := planFields s x (fieldAt p 0xC 4) full
    let s := if full then planTables s x else s
    let s := planPhases (checkAll (planTree s)) full
    (s, { result := s.cabling })

/-- An epoch handshake is in progress; an ABORT has ended one (R371). -/
def State.switching (s : State) : Bool :=
  (s.fab.ep.joined && !s.fab.ep.complete && s.fab.ep.silent.isNone) || s.fab.ep.polling

/-- The packet at the head of a ring is a full plan, which is exclusive (R485). -/
def State.headFull (s : State) (q : Nat) : Bool :=
  match s.headPacket q with
  | some (c, _) => !bit (fieldAt c.payload 0x10 2) 0
  | none => false

/-- FABRIC_PLAN. A full plan taken before phase 4 is held until phase 3 ends (R516). -/
def execFabricPlan (q : Fin 64) (io : Bool) (s : State) : Out :=
  .next (runCmd s q { opcode := 0x0070, lenOk := lenIs 24, states := anyState, excl := s.headFull q } fun s c =>
    let p := c.payload
    let full := !bit (fieldAt p 0x10 2) 0
    checkedCmd s c [((full && s.ce.state == .running) || s.switching, stState, 0), rsvd p 0x12 6,
        badField (fieldAt p 0x10 2 / 2 != 0) 0x10, badField (fieldAt p 8 4 != (if full then 0xC200 else 0x200)) 8,
        misaligned p 0] fun s =>
      if full ∧ s.ce.state = .starting ∧ s.boot.phase < 4 then
        let s := s.modBoot fun b => { b with heldPlan := some (q.val, p) }
        holdReply (s.modCe fun e => { e with excl := some 0x70 }) c .plan {}
      else
        let (s, a) := readPlan s p io
        replyTo s c a)

/-- Phase 3 has ended: a held plan is read (R516). -/
def readHeld (s : State) (io : Bool) : State :=
  match s.boot.heldPlan with
  | none => s
  | some (_, p) =>
    let (s, a) := readPlan ((s.modBoot fun b => { b with heldPlan := none }).modCe fun e => { e with excl := none }) p io
    releaseHeld s .plan fun _ => a

/-! ### The cabling report (R378) -/

/-- One-way link delay, rounded to the nearest 0.25 ns (R384). -/
def Port.delayCode (x : Port) : Nat := match x.delay with | some d => min 0xFFFE ((d + 32768) / 65536).toNat | none => 0xFFFF

/-- STATUS and PARTNER of a port in the report: before any plan, against a plan that names no peer (R496). -/
def State.portStatus (s : State) (p : Nat) : Nat × Nat :=
  if s.fab.plan.have_ then ((s.port p).status, (s.port p).partner) else s.checkPort p

/-- A port record (Table 12-11). -/
def State.portRecord (s : State) (p : Nat) : List Byte :=
  let x := s.port p
  let st := s.portStatus p
  let peer := match s.peer p with | some (m, q) => leBytes 2 m ++ leBytes 1 q | none => leBytes 2 0xFFFF ++ leBytes 1 0xFF
  leBytes 1 st.1 ++ leBytes 1 x.lanes ++ leBytes 1 st.2 ++ leBytes 1 x.seenPort ++ leBytes 2 x.seenMid ++ peer ++
    leBytes 1 0 ++ leBytes 2 x.delayCode ++ leBytes 4 x.serial

/-- BAD of the report. -/
def State.badNow (s : State) : Nat := maskOf ((List.range 16).filter (fun p => badStatus (s.portStatus p).1))

def State.cablingReport (s : State) : List Byte :=
  leBytes 2 s.fbId ++ leBytes 2 0 ++ leBytes 4 s.fab.plan.id ++ leBytes 2 s.badNow ++ leBytes 2 s.inService ++
    leBytes 4 s.fab.plan.checks ++ (List.range 16).flatMap s.portRecord

/-- FABRIC_STATUS. -/
def execFabricStatus (q : Fin 64) (io : Bool) (s : State) : Out :=
  .next (runCmd s q { opcode := 0x0071, lenOk := lenIs 16, states := anyState } fun s c =>
    let p := c.payload
    checkedCmd s c [rsvd p 0xC 4, misaligned p 0, badField (decide (fieldAt p 8 4 < 272)) 8, hostFails io] fun s =>
      replyOk (hostPut s (fieldAt p 0 8) s.cablingReport) c
        (leBytes 2 s.badNow ++ leBytes 2 s.inService ++ leBytes 1 s.fab.ep.cur))

/-! ### EPOCH_SWITCH (R370) -/

/-- A valid staged path breaks R358, or its first hop names a DOWN port (log 82). -/
def State.stagedPathBad (s : State) (v : Nat) : Bool :=
  pathBad v || (bit v 80 && decide (v % 32 < 16) && !s.portOk (v % 32))

/-- EPOCH_SWITCH (log 82). -/
def execEpochSwitch (q : Fin 64) (s : State) : Out :=
  .next (runCmd s q { opcode := 0x0072, lenOk := lenIs 0, states := anyState } fun s c =>
    let f := s.fab
    checkedCmd s c [(!f.plan.have_ || f.ep.joined || f.ep.complete || f.ep.silent.isSome, stState, 0),
        (f.stPaths.any (fun e => s.stagedPathBad e.2) || f.stMcast.any (fun e => mcastBad e.2.toNat), stParam, 0xFFFF),
        ((s.pathOf f.plan.leader).isNone, stFabric, 0)] fun s =>
      let s := s.modFab fun f => f.modEp fun e => { e with joined := true }
      replyOk (ctrlTo s s.fab.plan.leader ctlJoin (leBytes 8 0)) c (leBytes 1 (1 - s.fab.ep.cur)))

/-! ### TWIN_CFG and ADOPT -/

/-- An entry of the other half that is neither FREE nor a shadow. -/
def State.otherHalfBusy (s : State) : Bool :=
  s.sv.entries.any (fun e => e.1 / 32768 != s.id.half && e.2.state != .free && !e.2.shadow)

/-- Pair under R453: the exchange is asked for, and the reply follows it; the interval and the alternate path take hold when it
succeeds, since a command not answered OK has no effect (R483) (log 85). -/
def askPair (s : State) (c : Cmd) (interval alt : Nat) : State :=
  checkedCmd s c [(!s.img.twin, stState, 0), badField (interval == 0) 1,
      badField (alt % 32 == 15 || !legalPath alt) 8, (s.otherHalfBusy, stBusy, 0), (!s.twinPortOk, stFabric, 0)] fun s =>
    let s := s.modTw fun t => { t with asking := true, asked := (interval, alt) }
    let dst := match s.peer 15 with | some (m, _) => m | none => 0xFFFF
    holdReply (ctrlOn s twinPath dst 0x34 (pairBytes s 0)) c .pair {}

/-- TWIN_CFG (log 85). -/
def execTwinCfg (q : Fin 64) (s : State) : Out :=
  .next (runCmd s q { opcode := 0x0080, lenOk := lenIs 24, states := ModState.image } fun s c =>
    let p := c.payload
    let alt := fieldAt p 8 16
    let on := fieldAt p 0 1 == 1
    checkedCmd s c [rsvd p 2 6, badField (alt / 2 ^ 80 != 0) 8, badField (decide (1 < fieldAt p 0 1)) 0,
        badField (!on && fieldAt p 1 1 != 0) 1, badField (!on && alt != 0) 8] fun s =>
      if on then askPair s c (fieldAt p 1 1) alt else replyOk (endPairing s) c)

/-- ADOPT: recorded for phase 5 of each group. -/
def execAdopt (q : Fin 64) (s : State) : Out :=
  .next (runCmd s q { opcode := 0x0081, lenOk := lenIs 0, states := ModState.image } fun s c =>
    checkedCmd s c [(!s.tw.lost || s.tw.back, stState, 0)] fun s =>
      replyOk (s.modTw fun t => { t with adopt := true, adopting := s.usedGroups, sentFence := false }) c)

end Sys2Proof.Machine
end

