-- ==== Sys2Proof/Machine/HostMem.lean ====
section
/-! DEFINITION. Host commands on memory, counters and hardware: READ_MEM and WRITE_MEM (R498), GET_STATS and CLEAR_STATS
(R499), RETIRE and UNRETIRE (R450), and FW_UPDATE (R500, R501). -/

namespace Sys2Proof.Machine

/-! ### READ_MEM and WRITE_MEM (R498) -/

/-- The range stays within one scratchpad, one Cavern or one block of control space. -/
def oneBlock (ga n : Nat) : Bool := decide (gaOff ga + n ≤ (if gaSpace ga = 0 then 2 ^ 20 else 2 ^ 32))

/-- The checks of the payload that both commands share (log 89). -/
def State.memChecks (s : State) (p : List Byte) : List (Bool × Nat × Nat) :=
  let ga := fieldAt p 0 8
  let n := fieldAt p 8 4
  [rsvd p 0xC 4, misaligned p 0x10, badField (!s.gaMine ga) 0, badField (n % 8 != 0 || decide (2 ^ 24 < n)) 8,
   badField (decide (n ≠ 0) && !oneBlock ga n) 0]

/-- Read `n` words: the first status other than OK and UE, whether a word was uncorrectable, and the bytes. -/
def readAll : Nat → State → Nat → State × Nat × Bool × List Byte
  | 0, s, _ => (s, accOk, false, [])
  | n + 1, s, ga =>
    let (s, st, v) := readWord s false ga
    if st ≠ accOk ∧ st ≠ accUe then (s, st, false, [])
    else
      let (s, st', ue, bs) := readAll n s (ga + 8)
      (s, st', ue || st == accUe, leBytes 8 v ++ bs)

/-- An uncorrectable word: the buffer holds unspecified data (R498; log 26). -/
def readFault (s : State) (c : Cmd) (host n : Nat) : State :=
  let (i, s) := s.fresh
  replyTo (hostPut s host ((List.range n).map (Config.faultByte i))) c { status := stFault }

/-- READ_MEM (log 89). -/
def execReadMem (q : Fin 64) (io : Bool) (s : State) : Out :=
  .next (runCmd s q { opcode := 0x0090, lenOk := lenIs 24, states := ModState.image } fun s c =>
    let p := c.payload
    checkedCmd s c (s.memChecks p) fun s =>
      let (t, st, ue, bs) := readAll (fieldAt p 8 4 / 8) s (fieldAt p 0 8)
      if st ≠ accOk then replyTo s c { status := stParam }
      else if !io ∧ fieldAt p 8 4 ≠ 0 then replyTo t c { status := stFault }
      else if ue then readFault t c (fieldAt p 0x10 8) (fieldAt p 8 4)
      else replyOk (hostPut t (fieldAt p 0x10 8) bs) c)

/-- The 8 B words of a byte list. -/
def wordsOf (bs : List Byte) (n : Nat) : List Nat := (List.range n).map (fun i => fieldAt bs (8 * i) 8)

/-- WRITE_MEM. -/
def execWriteMem (q : Fin 64) (io : Bool) (s : State) : Out :=
  .next (runCmd s q { opcode := 0x0091, lenOk := lenIs 24, states := ModState.image } fun s c =>
    let p := c.payload
    let n := fieldAt p 8 4
    checkedCmd s c (s.memChecks p) fun s =>
      let (t, st) := writeRange s false (fieldAt p 0 8) (wordsOf (s.hostBytes (fieldAt p 0x10 8) n) (n / 8))
      if st ≠ accOk then replyTo s c { status := stParam }
      else if !io ∧ n ≠ 0 then replyTo s c { status := stFault }
      else replyOk t c)

/-! ### GET_STATS and CLEAR_STATS (R499, Table 17-11) -/

/-- A resident model index. -/
def State.resident (s : State) (m : Nat) : Bool := s.sv.models.any (fun e => e.1 == m)

/-- ARG names something that the set reports. -/
def State.statArg (s : State) (set arg : Nat) : Bool :=
  if set = 1 ∨ set = 2 then s.resident arg
  else if set = 3 then decide (arg ≤ 7)
  else decide (arg / 256 ≤ 7) && s.bound (arg / 256) (arg % 256)

/-- Every quantisation point of the module that counts for a resident model. -/
def State.pointsOf (s : State) (m : Nat) : List QPoint :=
  (List.range 2048).flatMap fun k =>
    if s.bound (k / 256) (k % 256) then ((s.tile k).qp.map (·.2)).filter (fun x => x.mvalid && x.model == m) else []

/-- The bytes of a set. -/
def State.statSet (s : State) (set arg : Nat) : List Byte :=
  match set with
  | 1 => leBytes 8 ((s.pointsOf arg).map (·.total)).sum ++ leBytes 8 ((s.pointsOf arg).map (·.clipped)).sum
  | 2 =>
    let c := tget {} s.sv.counts arg
    leBytes 6 c.drawn ++ leBytes 6 c.verifies ++ leBytes 6 c.proposed ++ leBytes 6 c.accepted ++ leBytes 6 c.fillers ++
      leBytes 2 0
  | 3 => (s.pmStatus arg).reverse.flatMap (leBytes 8)
  | _ => (List.range 64).flatMap (fun i => leBytes 32 (tget {} (s.tile arg).qp i).word)

/-- GET_STATS. -/
def execGetStats (q : Fin 64) (io : Bool) (s : State) : Out :=
  .next (runCmd s q { opcode := 0x00A0, lenOk := lenIs 24, states := ModState.image } fun s c =>
    let p := c.payload
    let set := fieldAt p 0 2
    let arg := fieldAt p 2 2
    checkedCmd s c [rsvd p 4 4, rsvd p 0x14 4, misaligned p 8, badField (!decide (1 ≤ set ∧ set ≤ 4)) 0,
        badField (!s.statArg set arg) 2, badField (decide (fieldAt p 0x10 4 < (s.statSet set arg).length)) 0x10,
        hostFails io] fun s =>
      let bs := s.statSet set arg
      replyOk (hostPut s (fieldAt p 8 8) bs) c (leBytes 4 bs.length))

/-- TOTAL and CLIPPED of a point at 0. -/
def QPoint.cleared (x : QPoint) : QPoint := { x with total := 0, clipped := 0 }

/-- The points of one tile that a test selects, cleared. -/
def Tile.clearPoints (t : Tile) (sel : QPoint → Bool) : Tile :=
  { t with qp := t.qp.foldl (fun u e => if sel e.2 then tset {} u e.1 e.2.cleared else u) t.qp }

/-- Clear the points of every tile. -/
def clearPoints (s : State) (sel : Nat → QPoint → Bool) : State :=
  (s.tiles.map (·.1)).foldl (fun s k => s.modTile k fun t => t.clearPoints (sel k)) s

/-- Clear a set. -/
def clearStats (s : State) (set arg : Nat) : State :=
  let all := arg == 0xFFFF
  match set with
  | 1 => clearPoints s fun _ x => x.mvalid && (all || x.model == arg)
  | 2 => s.modSv fun v => { v with counts := if all then [] else tset {} v.counts arg {} }
  | 3 => (List.range 8).foldl (fun s d =>
      if all || d == arg then s.modPm d fun m => { m with copies := 0, exhausted := 0, stale := 0, nopage := 0 } else s) s
  | _ => clearPoints s fun k _ => all || k == arg

/-- CLEAR_STATS. -/
def execClearStats (q : Fin 64) (s : State) : Out :=
  .next (runCmd s q { opcode := 0x00A1, lenOk := lenIs 8, states := ModState.image } fun s c =>
    let p := c.payload
    let set := fieldAt p 0 2
    let arg := fieldAt p 2 2
    checkedCmd s c [rsvd p 4 4, badField (!decide (1 ≤ set ∧ set ≤ 4)) 0,
        badField (arg != 0xFFFF && !s.statArg set arg) 2] fun s => replyOk (clearStats s set arg) c)

/-! ### RETIRE and UNRETIRE (R450) -/

/-- A RESID of Table 16-1. -/
def residOk (r : Nat) : Bool :=
  let unit8 := decide (bits r 27 24 ≤ 7)
  match residClass r with
  | 1 => unit8 && bits r 15 0 == 0
  | 2 => unit8 && bits r 11 0 == 0
  | 3 => unit8 && bits r 20 7 == 0 && decide (bits r 6 0 ≤ 65)
  | 4 => bits r 22 7 == 0 && decide (bits r 6 0 ≤ 17)
  | 5 => bits r 23 0 == 0
  | _ => false

/-- RETIRE. -/
def execRetire (q : Fin 64) (s : State) : Out :=
  .next (runCmd s q { opcode := 0x00B0, lenOk := lenIs 8, states := anyState } fun s c =>
    let p := c.payload
    let r := fieldAt p 0 4
    let have_ := s.retiredAll.contains r
    checkedCmd s c [rsvd p 4 4, badField (!residOk r) 0, (!have_ && decide (4096 ≤ s.er.retired.length), stNospace, 0)]
      fun s => replyOk (if have_ then s else retireRes s r 3) c)

/-- What an UNRETIRE removes: the resource, or a tile with every bank of it. -/
def unretires (r x : Nat) : Bool :=
  x == r || ((residClass r == 1 || residClass r == 2) && (residClass x == 1 || residClass x == 2) &&
    bits x 27 16 == bits r 27 16)

/-- A port that is unretired trains again; the cabling check then places it (R374) (log 88). -/
def portUnretire (s : State) (p : Nat) : State :=
  s.modPort p fun x => { x with
    retired := false, retrain := x.lanes != 0, svc := if x.svc = .retiring then .up else x.svc }

/-- UNRETIRE's effect (log 88). -/
def unretire (s : State) (r : Nat) : State :=
  let s := { s with er := { s.er with
    retired := s.er.retired.filter (fun x => !unretires r x)
    volatile_ := s.er.volatile_.filter (fun x => !unretires r x)
    counters := s.er.counters.filter (fun e => !unretires r e.1) } }
  let s := logErr s { kind := 7, resid := r, die := residDie r }
  if residClass r = 5 then portUnretire s (bits r 27 24) else s

/-- UNRETIRE. -/
def execUnretire (q : Fin 64) (s : State) : Out :=
  .next (runCmd s q { opcode := 0x00B1, lenOk := lenIs 8, states := anyState } fun s c =>
    let p := c.payload
    let r := fieldAt p 0 4
    checkedCmd s c [rsvd p 4 4, badField (!residOk r || !s.retiredAll.contains r) 0] fun s => replyOk (unretire s r) c)

/-! ### FW_UPDATE (R500, R501) -/

/-- Step 1 of R500: the layout of a firmware image (Table 17-12). -/
def fwLayoutOk (m : List Byte) : Bool :=
  fieldAt m 0 4 == 0x57465A44 && fieldAt m 4 2 == 1 && decide (fieldAt m 6 1 ≤ 3) && fieldAt m 7 1 == 0 &&
    m.length == 256 + fieldAt m 0x10 4 && fieldAt m 0x14 12 == 0 && fieldAt m 0x81 31 == 0

/-- Step 2: the key. -/
def fwKeyOk (m : List Byte) : Bool :=
  let slot := fieldAt m 6 1
  !Config.keyRevoked slot && sha384 ((m.drop 0x20).take 97) == (Config.fusedHash slot).toNat

/-- Step 4: the signature. -/
def fwSignOk (m : List Byte) : Bool :=
  let be (o n : Nat) : Nat := beNat ((m.drop o).take n)
  fieldAt m 0x20 1 == 4 &&
    ecdsaOk (be 0x21 48) (be 0x51 48) (be 0xA0 48) (be 0xD0 48) (sha384 (m.take 0xA0 ++ m.drop 0x100))

/-- DETAIL of the first failing step; 0 when the image passes. -/
def State.fwCheck (s : State) (m : List Byte) : Nat :=
  if !fwLayoutOk m then 0xFFF0
  else if !fwKeyOk m then 0xFFF1
  else if fieldAt m 0xC 4 < s.fw.fusedSvn then 0xFFF2
  else if !fwSignOk m then 0xFFF3
  else 0

/-- VERSION and SVN as a reply gives them. -/
def fwResult (v : Nat × Nat) : List Byte := leBytes 4 v.1 ++ leBytes 4 v.2

/-- STAGE begins: the staging bank is invalid, and no activation stands, until the image has passed (R500, R505) (log 128). -/
def fwStage (s : State) (c : Cmd) (a n : Nat) : State :=
  holdReply (s.modFw fun f => { f with staging := some (a, n), staged := none, marked := false }) c .fwStage {}

/-- STAGE ends: the image is checked, and written to the bank that does not run when it passes (log 128). -/
def fwStageEnd (s : State) : State :=
  match s.fw.staging with
  | none => s
  | some (a, n) =>
    let m := s.hostBytes a n
    let d := s.fwCheck m
    let v := (fieldAt m 8 4, fieldAt m 0xC 4)
    let s := s.modFw fun f => { f with staging := none, staged := if d = 0 then some v else none }
    releaseHeld s .fwStage fun _ => if d = 0 then { result := fwResult v } else { status := stParam, detail := d }

/-- ACTIVATE. -/
def fwActivate (s : State) (c : Cmd) : State :=
  match s.fw.staged with
  | none => replyTo s c { status := stState }
  | some v => replyOk (s.modFw fun f => { f with marked := true }) c (fwResult v)

/-- FW_UPDATE. -/
def execFwUpdate (q : Fin 64) (io : Bool) (s : State) : Out :=
  .next (runCmd s q { opcode := 0x00F0, lenOk := lenIs 16, states := anyState } fun s c =>
    let p := c.payload
    let stage := fieldAt p 0 1 == 0
    let n := fieldAt p 4 4
    let a := fieldAt p 8 8
    checkedCmd s c [badField (decide (1 < fieldAt p 0 1)) 0, rsvd p 1 3, misaligned p 8,
        badField (if stage then !decide (256 ≤ n ∧ n ≤ 2 ^ 24) else n != 0) 4, badField (!stage && a != 0) 8,
        hostFails (io || !stage)] fun s =>
      if stage then fwStage s c a n else fwActivate s c)

end Sys2Proof.Machine
end

