-- ==== Sys2Proof/Machine/Startup.lean ====
section
/-! DEFINITION. Supply inputs and the orderly stop (R422-R424), resets and starts (R506-R509), firmware at a start (R501), the
phases of start-up (R510-R519), neighbour identification (R376), and resets of the PCIe endpoint (R471, R473). -/

namespace Sys2Proof.Machine

/-! ### Supply inputs (R422, R423) -/

/-- SUPPLY_SWITCH: 1 A lost, 2 A returned. -/
def supplySwitch (s : State) (cause : Nat) : State := raise s 0x70 cause (leBytes 1 s.pw.src)

/-- SUPPLY_LOST, when the load is on one input and the other is missing. -/
def supplyLost (s : State) : State :=
  let p := s.pw
  if p.pA && !p.pB then raise s 0x71 0 (leBytes 1 1)
  else if p.pB && !p.pA then raise s 0x71 0 (leBytes 1 0)
  else s

/-- The input that supplies the load: A while it is present. -/
def setSource (s : State) : State := s.modPw fun p => { p with src := if p.pA then 0 else 1 }

/-! ### The orderly stop (Table 15-1) -/

/-- Write the waiting events while the event ring has room (log 72). -/
def writeWaiting : Nat → State → State
  | 0, s => s
  | n + 1, s =>
    match s.ce.ev.wait with
    | [] => s
    | r :: rest =>
      if s.ce.ev.room then writeWaiting n (putEvent (s.modEv fun e => { e with wait := rest }) r) else s

/-- POWER_LOSS is written to the event ring and signalled at once (log 72). -/
def powerLoss (s : State) : State :=
  let s := raise s 0x72 0 []
  let s := writeWaiting s.ce.ev.wait.length s
  if s.ce.ev.unsig = 0 then s else signal (s.modEv fun e => { e with unsig := 0 }) s.ce.ev.vec

/-- The departure notice on P15 (Table 16-7) (log 96). -/
def departNotice (s : State) : State :=
  s.modBoot fun b => { b with
    depart := if (s.port 15).lanes = 0 then [] else leBytes 2 s.id.mid ++ leBytes 1 1 ++ leBytes 5 0 }

/-- The orderly stop: nothing acts from its beginning on, and at its end the power stages are off and LASTOFF holds the cause. The
junctions are sampled until it ends (R444), when the block idles (log 96). -/
def orderlyStop (s : State) (cause : Nat) : State :=
  (offState (departNotice (powerLoss s)) cause).modPw fun p => { p with
    stopping := true, temps := s.pw.temps, hot := s.pw.hot }

/-- The standby domain goes off: identity and debug enable are cleared, THERMTRIP# releases (R559, R572). -/
def standbyOff (s : State) : State :=
  { s with
    dbg := {}
    boot := { s.boot with standby := false, smbSlot := 0, ident := none, identPend := false }
    pw := { s.pw with thermtrip := false } }

/-! ### Firmware at a start (R501) -/

/-- FW_ACTIVATED with the image that runs. -/
def fwEvent (s : State) (cause : Nat) : State := raise s 0x0003 cause (fwResult (s.fw.version, s.fw.svn))

/-- The marked bank boots, when its image still verifies (log 74). -/
def fwBoot (s : State) : State :=
  match s.fw.staged with
  | some (v, n) =>
    if s.fw.marked then
      if n < s.fw.fusedSvn then
        fwEvent (s.modFw fun f => { f with staged := none, marked := false, booting := false, fresh := false }) 2
      else
        s.modFw fun f => { f with
          version := v, svn := n, bank := 1 - f.bank, staged := none, marked := false, other := (f.version, f.svn)
          booting := true, fresh := false }
    else s.modFw fun f => { f with booting := false }
  | none => s.modFw fun f => { f with booting := false }

/-- The other bank boots in its place (log 74). -/
def fwFallback (s : State) : State :=
  fwEvent (s.modFw fun f => { f with
    version := f.other.1, svn := f.other.2, bank := 1 - f.bank, staged := some (f.version, f.svn), booting := false }) 2

/-- FW_BOOT_TIMEOUT: the bank that boots does not come up within 10 s. -/
def execFwBootTimeout (s : State) : Out :=
  .next (if s.fw.booting ∧ s.boot.started ∧ s.boot.phase = 0 then fwFallback s else s)

/-! ### Starts (R506-R509, Table 18-2) -/

/-- The state that every start begins with, beside what it keeps: straps sampled, phase 0. -/
def begin (s : State) (slot board : Fin 8) : State :=
  let s := { s with id := { slot := slot.val, board := board.val } }
  let s := s.modPw fun p => { p with off := false, endAt := 0 }
  fwBoot (s.modBoot fun b => { b with started := true, phase := 0 })

/-- A cold start. While RESET# is asserted the module is held and its deassertion starts it. -/
def coldStart (s : State) (slot board : Fin 8) : State :=
  let s := (offState s s.boot.lastOff).modDbg fun d => { d with extest := none }
  let s := s.modPw fun p => { p with energy := 0, off := false }
  let s := s.modBoot fun b => { b with pwrOk := true, pwrWait := false, cold := b.perst && !b.resetN, pcie := !b.perst }
  let s := supplyLost (setSource s)
  if s.boot.resetN then s else begin s slot board

/-- What a warm start finds: the module in reset, with what Table 18-2 keeps (log 93) (log 103). -/
def warmState (s : State) (pcie : Bool) : State :=
  let t := offState s s.boot.lastOff
  { t with
    er := { retired := s.er.retired, volatile_ := s.er.volatile_ }
    tm := { tick := s.tm.tick, frac := s.tm.frac, f := s.tm.f, s := s.tm.s, stepped := s.tm.stepped }
    mem := { t.mem with passes := s.mem.passes }
    pw := { t.pw with off := false }
    boot := { t.boot with everReady := s.boot.everReady, pcie := pcie } }

/-- PWR_OK asserts, with the straps as they stand (R506, Table 21-5) (log 94). -/
def execPwrOkAssert (slot board : Fin 8) (s : State) : Out :=
  .next (
    if s.boot.pwrOk then s
    else if s.pw.pA || s.pw.pB then coldStart s slot board
    else (s.modBoot fun b => { b with pwrOk := true, pwrWait := true }).modDbg fun d => { d with extest := none })

/-- A task runs, or start-up is in progress. -/
def State.atWork (s : State) : Bool := s.ce.state == .running || (s.ce.state == .starting && s.boot.started)

/-- PWR_OK deasserts: the orderly stop when a task or start-up is in progress, and off in any case (Table 18-1). -/
def execPwrOkDeassert (s : State) : Out :=
  .next (
    if s.boot.pwrOk then
      let s := s.modBoot fun b => { b with pwrOk := false, pwrWait := false }
      let s := s.modPw fun p => { p with thermtrip := false }
      let s := s.modDbg fun d => { d with extest := if d.ir = 0 then some d.bscan else none }
      if s.pw.off then s else if s.atWork then orderlyStop s 1 else offState s 1
    else s)

/-- PERST# asserts: the whole module is held in reset, the endpoint included. -/
def execPerstAssert (s : State) : Out :=
  .next (
    if s.boot.perst then s
    else
      let s := s.modBoot fun b => { b with perst := true, pcie := false }
      if s.pw.off then s else warmState s false)

/-- PERST# deasserts: it belongs to the cold start in progress, or begins a warm start (R507). -/
def execPerstDeassert (slot board : Fin 8) (s : State) : Out :=
  .next (
    if s.boot.perst then
      let s := s.modBoot fun b => { b with perst := false, cold := false, pcie := !s.pw.off }
      if s.pw.off ∨ s.boot.started ∨ s.boot.resetN then s else begin s slot board
    else s)

/-- RESET# asserts: as PERST#, but the PCIe link stays trained. -/
def execResetAssert (s : State) : Out :=
  .next (
    if s.boot.resetN then s
    else
      let s := s.modBoot fun b => { b with resetN := true }
      if s.pw.off then s else warmState s s.boot.pcie)

/-- RESET# deasserts. -/
def execResetDeassert (slot board : Fin 8) (s : State) : Out :=
  .next (
    if s.boot.resetN then
      let s := s.modBoot fun b => { b with resetN := false }
      if s.pw.off ∨ s.boot.perst then s else begin s slot board
    else s)

/-- INPUT_PRESENT: input B (or A) has become present; the load returns to A. A PWR_OK that waits for an input starts the
module, with the straps as they stand (log 94). -/
def execInputPresent (b : Bool) (slot board : Fin 8) (s : State) : Out :=
  .next (
    let old := s.pw
    let s := s.modPw fun p => if b then { p with pB := true } else { p with pA := true }
    if s.boot.pwrWait then coldStart s slot board
    else
      let s := setSource s
      if old.off ∨ b ∨ old.pA then s else supplyLost (supplySwitch s 2))

/-- INPUT_LOST: the load moves to B, or the module stops (R423, R424, R559). -/
def execInputLost (b : Bool) (s : State) : Out :=
  .next (
    let old := s.pw
    let s := s.modPw fun p => if b then { p with pB := false } else { p with pA := false }
    if !(if b then old.pB else old.pA) then s
    else if s.pw.pA || s.pw.pB then
      let s := setSource s
      if s.pw.off then s else supplyLost (if b then s else supplySwitch s 1)
    else standbyOff (if s.pw.off then s else orderlyStop s 2))

/-- STANDBY_POWER_UP: the standby domain samples SLOT_ID for its SMBus address (R559, R569). -/
def execStandbyPowerUp (slot : Fin 8) (s : State) : Out :=
  .next (
    if (s.pw.pA || s.pw.pB) && !s.boot.standby then
      s.modBoot fun b => { b with standby := true, smbSlot := slot.val }
    else s)

/-! ### Phases (Table 18-3) -/

/-- The module is in a phase of start-up. -/
def State.inPhase (s : State) (n : Nat) : Bool := s.boot.started && s.ce.state == .starting && s.boot.phase == n

/-- STAGGER_END: the firmware has come up; supplies ramp, and self-test runs at P8 (R511, R513). -/
def execStaggerEnd (s : State) : Out :=
  .next (
    if s.inPhase 0 then
      let s := if s.fw.booting then fwEvent (s.modFw fun f => { f with booting := false, fresh := true }) 1 else s
      let s := s.modBoot fun b => { b with phase := 1 }
      setModes ((s.modPw fun p => { p with state := 8, volt := some 8 }).modCk fun c => { c with cur := stateMhz 8 })
    else s)

/-- Phase 1 ends: FB_ID takes the identity, the bridges have trained, and port training begins (R512-R515, R570) (log 95). -/
def phase1End (s : State) : State :=
  match s.boot.ident with
  | none => s.modBoot fun b => { b with waitId := true }
  | some v =>
    let s := { s with id := { s.id with half := v / 8 % 2, rack := v % 8, valid := true } }
    s.modBoot fun b => { b with phase := 2, waitId := false, identPend := false }

/-- A resource that self-test covers: tiles, banks, sub-arrays and bridge lanes (Table 18-4) (log 95). -/
def selfTested (r : Nat) : Bool := residOk r && decide (residClass r ≤ 4)

/-- The tiles of a die. -/
def dieTiles (d : Nat) : List Nat := (List.range 256).map (fun i => residTile d (i / 16) (i % 16))

/-- SELF_TEST_DONE: the failing resources, and the dies whose PLL, regulator or spine failed (R513). -/
def execSelfTestDone (fails : List Nat) (dies : BitVec 8) (s : State) : Out :=
  .next (
    if s.inPhase 1 ∧ !s.boot.waitId then
      let bad := (numsWhere 8 (bit dies.toNat)).flatMap dieTiles ++ fails.filter selfTested
      let s := bad.foldl (fun s r => retire s r 4) s
      phase1End ((List.range 16).foldl retrainBridge s)
    else s)

/-- TRAINING_BOUND: every port has trained, or 1.5 s have passed. -/
def execTrainingBound (s : State) : Out := .next (if s.inPhase 2 then s.modBoot fun b => { b with phase := 3 } else s)

/-- Phase 3 ends: a held plan is read (R516). -/
def phase3End (s : State) (io : Bool) : State := readHeld (s.modBoot fun b => { b with phase := 4 }) io

/-- IDENT_BOUND: 0.2 s have passed since the last port trained, or every trained port is identified. -/
def execIdentBound (io : Bool) (s : State) : Out := .next (if s.inPhase 3 then phase3End s io else s)

/-- Phase 3 ends with the last identification awaited. -/
def identified (s : State) (io : Bool) : State :=
  if s.inPhase 3 ∧ (List.range 16).all (fun p => !(s.port p).idWait) then phase3End s io else s

/-- NEIGHBOUR_ID: delivered packet `i` names the neighbour of its port (R376, R377). -/
def execNeighbourId (i : Nat) (io : Bool) (s : State) : Out :=
  .next (match s.inAt i 0x0E ctlNeighbour with
    | none => s
    | some a =>
      let s := dropIn s i
      match a.port with
      | none => s
      | some p =>
        let d := a.pkt.data
        let s := s.modPort p fun x => { x with
          seenMid := fieldAt d 0 2, seenPort := fieldAt d 2 1, serial := fieldAt d 8 8, idWait := false, noId := false }
        identified (checkOne s p) io)

/-- NO_ID_TIMER: nothing has come within 0.2 s of training (R376). -/
def execNoIdTimer (p : Fin 16) (io : Bool) (s : State) : Out :=
  .next (
    if (s.port p.val).idWait then
      identified (checkOne (s.modPort p.val fun x => { x with idWait := false, noId := true }) p.val) io
    else s)

/-- TICK_ALIGNMENT_TIMEOUT (R517). -/
def execTickAlignmentTimeout (s : State) : Out :=
  .next (if s.inPhase 6 ∧ s.boot.checked ∧ !s.boot.aligned then alignedNow s else s)

/-! ### The endpoint (R471, R473) -/

/-- MSI-X as after reset: every vector masked, none pending. -/
def msixReset (s : State) : State := s.modCe fun c => { c with msix := [], msixPend := 0 }

/-- HOT_RESET: the endpoint alone is reset (log 75). -/
def execHotReset (s : State) : Out := .next (if s.boot.pcie then msixReset s else s)

/-- Every ring disabled, and nothing of them left to write. -/
def ringsOff (s : State) : State :=
  let s := s.modCe fun c => { c with
    sq := (List.range 64).foldl (fun t q => tmod {} t q fun r => { r with en := false, busy := false }) c.sq
    cq := (List.range 64).foldl (fun t q => tmod {} t q fun r => { r with en := false, wait := [], unsig := 0 }) c.cq
    ev := { c.ev with en := false, wait := [], unsig := 0 }
    held := [], excl := none, load := none
    state := if c.state = .loading then .empty else c.state }
  let s := s.modFw fun f => { f with staging := none }
  (s.modSv fun v => { v with expEn := false }).modBoot fun b => { b with heldPlan := none }

/-- FUNCTION_LEVEL_RESET: the task stops as STOP does, rings and MSI-X are reset (R473) (log 75). -/
def execFunctionLevelReset (s : State) : Out :=
  .next (
    if s.boot.pcie then
      let s := if s.ce.state = .running then stopTask s else s
      msixReset (ringsOff s)
    else s)

end Sys2Proof.Machine
end

