-- ==== Sys2Proof/Machine/Debug.lean ====
section
/-! DEFINITION. The SMBus target (R569, R570) and halting, stepping and resuming of dies (R532-R537). The TAP stands in
`Sys2Proof/Machine/Tap.lean`. -/

namespace Sys2Proof.Machine

/-! ### Halting, stepping, resuming -/

/-- Compute dies that a scope names: 0 tile and 1 die name die DIE, 2 the module. -/
def State.scopeDies (s : State) : List Nat :=
  if s.dbg.scope = 2 then List.range 8 else if s.dbg.scope < 2 then [s.dbg.die] else []

/-- The die can be halted: it is powered, and not stopped for good. -/
def Die.haltable (x : Die) : Bool := !x.stop.fault && !x.stop.ref && !x.stop.xing && !x.stop.fenced

/-- VTILE and BUNDLE of DBG_CAUSE where no tile caused the halt: free (log 27). -/
def haltPlace (s : State) : State × Nat × Nat :=
  let (n, s) := s.fresh
  let v := (Config.haltPlace n).toNat
  (s, v / 2 ^ 13, v % 2 ^ 13)

/-- HALT of one die: it halts at the end of the present cyc; a scope of a tile records VTILE (R533). -/
def haltOne (s : State) (d : Nat) : State :=
  let x := s.die d
  if x.haltable ∧ !s.clockOff d ∧ (!x.stop.halted ∨ x.stop.step.isSome) then
    let (s, vt, bundle) := haltPlace s
    haltAfter s d 1 (if s.dbg.scope = 0 then s.dbg.vtile else vt) bundle
  else s

/-- HALT. -/
def haltScope (s : State) : State := s.scopeDies.foldl haltOne s

/-- RESUME of one die (R537). -/
def resumeOne (s : State) (d : Nat) : State :=
  if (s.die d).stop.halted then s.modDie d fun x => { x with stop := { x.stop with halted := false, step := none } } else s

/-- RESUME. -/
def resumeScope (s : State) : State := s.scopeDies.foldl resumeOne s

/-- STEP of one halted die: DBG_STEP.N cyc of issue; 0 requests no work (R536). -/
def stepOne (s : State) (d : Nat) : State :=
  let x := s.die d
  if x.stop.halted ∧ x.stop.step.isNone ∧ s.dbg.stepN ≠ 0 then
    s.modDie d fun x => { x with stop := { x.stop with step := some s.dbg.stepN } }
  else s

/-- STEP. -/
def stepScope (s : State) : State := s.scopeDies.foldl stepOne s

/-- The command that a write of DBG_CTL.CMD gives. -/
def debugCmd (s : State) (c : Nat) : State :=
  match c with | 1 => haltScope s | 2 => resumeScope s | 3 => stepScope s | _ => s

/-- A write of DBG_CTL: the RW fields, then the command, which acts only under the debug enable (R554). -/
def writeDbgCtl (s : State) (scope die vtile cmd : Nat) : State :=
  let s := s.modDbg fun b => { b with scope := scope % 4, die := die % 8, vtile := vtile % 256 }
  if s.dbg.enabled then debugCmd s cmd else s

/-- HALT: a write of DBG_CTL with CMD 1. -/
def execHalt (scope : Fin 4) (die : Fin 8) (vtile : Fin 256) (s : State) : Out :=
  .next (if s.pw.off then s else writeDbgCtl s scope.val die.val vtile.val 1)

/-- RESUME: a write of DBG_CTL with CMD 2. -/
def execResume (scope : Fin 4) (die : Fin 8) (vtile : Fin 256) (s : State) : Out :=
  .next (if s.pw.off then s else writeDbgCtl s scope.val die.val vtile.val 2)

/-- STEP: a write of DBG_CTL with CMD 3. -/
def execStep (scope : Fin 4) (die : Fin 8) (vtile : Fin 256) (s : State) : Out :=
  .next (if s.pw.off then s else writeDbgCtl s scope.val die.val vtile.val 3)

/-- STEP_COMPLETE: a stepping die has run its cyc of issue and halts again (R536). -/
def execStepComplete (die : Fin 8) (s : State) : Out :=
  .next (
    let x := s.die die.val
    if x.stop.halted ∧ x.stop.step = some 0 then
      let (s, p) := haltPlace s
      s.modDie die.val fun x => { x with stop := { x.stop with step := none }, dbgCause := (4, p) }
    else s)

/-! ### SMBus (Table 21-9) -/

/-- What an SMBus transfer returns, and whether the target acknowledges it. -/
def smbDone (s : State) (ack : Bool) (bs : List Byte) : State :=
  { s with bus := { s.bus with smb := bs, smbAck := ack } }

/-- A read. -/
def smbRead (s : State) (bs : List Byte) : State := if s.boot.standby then smbDone s true bs else smbDone s false []

/-- A write, with its packet error check right, if it has one. -/
def smbWrite (s : State) (pec : Bool) (f : State → State) : State :=
  if s.boot.standby ∧ pec then smbDone (f s) true [] else smbDone s false []

/-- The byte that a read of IDENTITY returns (log 93). -/
def State.identByte (s : State) : Nat :=
  match s.boot.ident with
  | some v => 0x80 + 0x40 * b2n s.boot.identPend + v % 16
  | none => 0

/-- A write of IDENTITY: it sets PENDING once phase 1 has ended, and ends the wait of R512 (R570). -/
def writeIdent (s : State) (v : Nat) : State :=
  if 16 ≤ v then s
  else
    let s := s.modBoot fun b => { b with ident := some v, identPend := b.identPend || s.id.valid }
    if s.inPhase 1 ∧ s.boot.waitId then phase1End s else s

/-- IDENTITY: a write of a byte, or a read. -/
def execIdentity (w : Option (BitVec 8)) (pec : Bool) (s : State) : Out :=
  .next (match w with
    | some v => smbWrite s pec fun s => writeIdent s v.toNat
    | none => smbRead s (leBytes 1 s.identByte))

/-- A write of DEBUG_EN; clearing it resumes every halted die (R525). -/
def writeDebugEn (s : State) (v : Nat) : State :=
  if 2 ≤ v then s
  else
    let s := s.modDbg fun d => { d with enabled := v == 1 }
    if v = 0 then (List.range 8).foldl resumeOne s else s

/-- DEBUG_EN: a write of a byte, or a read. -/
def execDebugEn (w : Option (BitVec 8)) (pec : Bool) (s : State) : Out :=
  .next (match w with
    | some v => smbWrite s pec fun s => writeDebugEn s v.toNat
    | none => smbRead s (leBytes 1 (b2n s.dbg.enabled)))

/-- STATUS. -/
def State.smbStatus (s : State) : Nat :=
  s.ce.state.code + 2 ^ 4 * (s.boot.phase % 8) + 2 ^ 7 * b2n s.boot.waitId + 2 ^ 8 * b2n s.pw.thermtrip +
    2 ^ 9 * b2n (!s.pw.off) + 2 ^ 10 * (s.pw.src % 2) + 2 ^ 11 * b2n s.pw.pA + 2 ^ 12 * b2n s.pw.pB

/-- SMB_STATUS. -/
def execSmbStatus (s : State) : Out := .next (smbRead s (leBytes 2 s.smbStatus))

/-- SMB_TEMP. -/
def execSmbTemp (s : State) : Out := .next (smbRead s (leBytes 2 (if s.pw.off then 0x8000 else s.pw.tj)))

/-- SMB_POWER. -/
def execSmbPower (s : State) : Out := .next (smbRead s (leBytes 2 (s.pw.pinA + s.pw.pinB)))

/-- SMB_COOLANT. -/
def execSmbCoolant (s : State) : Out :=
  .next (smbRead s (leBytes 2 s.pw.inlet ++ leBytes 2 s.pw.outlet ++ leBytes 2 s.pw.flow))

/-- LASTOFF. -/
def execLastoff (s : State) : Out := .next (smbRead s (leBytes 1 s.boot.lastOff))

/-- SERIAL. -/
def execSerial (s : State) : Out := .next (smbRead s (leBytes 8 s.made.serial))

end Sys2Proof.Machine
end

