-- ==== Sys2Proof/Machine/HostServe.lean ====
section
/-! DEFINITION. Host commands on requests: SUBMIT (R273, R274, R491), CANCEL, PARK and RESTORE (R290, R296, R300, R461),
QUERY_REQUEST (R492) and PREFIX_PIN (R495). -/

namespace Sys2Proof.Machine

/-! ### SUBMIT -/

/-- The fields of a SUBMIT payload (Table 17-9). -/
structure Sub where
  handle : Nat
  model  : Nat
  cont   : Bool
  keep   : Bool
  cls    : Nat
  smode  : Bool
  plen   : Nat
  maxnew : Nat
  prompt : Nat
  seed   : Nat
  temp   : Nat
  topp   : Nat
  topk   : Nat
  expk   : Nat
  prio   : Nat
  depth  : Nat
  cring  : Nat
  maskh  : Nat
  deadline : Nat
  ttl    : Nat
  pre    : Nat
  stops  : List Nat

def subOf (p : List Byte) : Sub :=
  let f := fieldAt p 6 2
  { handle := fieldAt p 0 4, model := fieldAt p 4 2, cont := bit f 0, keep := bit f 1, cls := b2n (bit f 2), smode := bit f 3
    plen := fieldAt p 8 4, maxnew := fieldAt p 0xC 4, prompt := fieldAt p 0x10 8, seed := fieldAt p 0x18 8
    temp := fieldAt p 0x20 4, topp := fieldAt p 0x24 4, topk := fieldAt p 0x28 2, expk := fieldAt p 0x2A 1
    prio := fieldAt p 0x2B 1, depth := fieldAt p 0x2C 1, cring := fieldAt p 0x2D 1, maskh := fieldAt p 0x2E 2
    deadline := fieldAt p 0x30 8, ttl := fieldAt p 0x38 4, pre := fieldAt p 0x3C 4
    stops := (List.range 4).map (fun i => fieldAt p (0x40 + 4 * i) 4) }

/-- Resident index of a MODEL_ID; a draft model takes no requests (R303). -/
def State.midxOf (s : State) (id : Nat) : Option Nat :=
  match (s.sv.models.find? (fun e => e.2.id == id)).map (·.1) with
  | some m => if s.isDraft m then none else some m
  | none => none

/-- The handle carries another generation than its slot (R271) (log 79). -/
def State.staleHandle (s : State) (h : Nat) : Bool := (s.entry (h % 65536)).gen != h / 65536

/-- The mask handle names no object of its generation (R292). -/
def State.staleMask (s : State) (h : Nat) : Bool :=
  if maskKind h = 0 then false else
  let d := s.maskDesc (if maskKind h = 1 then 1 else 3) (maskIdx h)
  !d.valid || d.gen != maskGen h

/-- TEMP is a positive normal finite value. -/
def tempOk (v : Nat) : Bool := !bit v 31 && decide (1 ≤ bits v 30 23 ∧ bits v 30 23 ≤ 254)

/-- TOPP is greater than 0; a subnormal counts as 0. -/
def toppOk (v : Nat) : Bool := !bit v 31 && decide (1 ≤ bits v 30 23) && !(bits v 30 23 == 255 && bits v 22 0 != 0)

/-- PLEN breaks its rule: for a new request, or for a continuation of `e`. -/
def State.plenBad (s : State) (u : Sub) (m : Nat) (e : Entry) : Bool :=
  let g := (s.model m).kvgeo
  let limp := geoLimp g
  if u.cont then (u.plen == 0 && e.ngen == 0) || decide (limp < e.npos + u.plen)
  else
    let under := match s.prefixOf u.pre with | some x => decide (u.plen ≤ x.blocks * geoTpp g) && x.midx == m | none => false
    decide (u.plen < 1) || decide (limp < u.plen) || under

/-- The E_PARAM conditions of Table 9-4 in the order of their fields; `e` is the continued entry. -/
def State.subParams (s : State) (p : List Byte) (u : Sub) (e : Entry) : List (Bool × Nat × Nat) :=
  let mo := s.midxOf u.model
  let m := mo.getD 0
  let wrongPre := match s.prefixOf u.pre with | some x => x.midx != m | none => false
  [ badField (!u.cont && u.handle != 0) 0, badField (mo.isNone || (u.cont && u.model != e.modelId)) 4,
    badField (fieldAt p 6 2 / 16 != 0) 6, badField (u.plen / 2 ^ 24 != 0 || s.plenBad u m e) 8,
    badField (u.maxnew / 2 ^ 24 != 0) 0xC, misaligned p 0x10, badField (u.smode && !tempOk u.temp) 0x20,
    badField (u.smode && !toppOk u.topp) 0x24, badField (decide (256 < u.topk)) 0x28, badField (decide (64 < u.expk)) 0x2A,
    badField (decide (7 < u.prio)) 0x2B,
    badField (if u.cont then u.depth != 0 else decide ((s.model m).maxdepth < u.depth)) 0x2C,
    badField (decide (63 < u.cring) || !(s.cqr u.cring).en) 0x2D,
    badField (maskKind u.maskh == 3 || (maskKind u.maskh == 0 && u.maskh != 0)) 0x2E,
    badField (if u.cont then u.pre != 0 else wrongPre) 0x3C ] ++
  (u.stops.zipIdx).map (fun t => badField (t.1 / 2 ^ 19 != 0 || (bit t.1 18 && decide ((s.model m).vocab ≤ bits t.1 17 0)))
    (0x40 + 4 * t.2))

/-- The lowest FREE slot from `i` on, of `n`. -/
def State.freeSlotFrom (s : State) : Nat → Nat → Option Nat
  | 0, _ => none
  | n + 1, i => if (s.entry i).state = .free then some i else State.freeSlotFrom s n (i + 1)

/-- The slot of a new request (R273, R454). -/
def State.newSlot (s : State) : Option Nat :=
  if s.tw.paired ∨ s.tw.ownHalf then s.freeSlotFrom 32768 (32768 * s.id.half) else s.freeSlotFrom 65536 0

/-- The first grammar state of a mask (R273). -/
def State.startState (s : State) (h : Nat) : Nat := if maskKind h = 2 then (s.maskDesc 3 (maskIdx h)).start else 0

/-- The fields that the payload of a new request and of a continuation both set (R491) (log 81). -/
def Sub.into (u : Sub) (e : Entry) : Entry :=
  let stop (i : Nat) : Nat := (u.stops[i]?).getD 0
  { e with
    state := .queued, prio := u.prio, cls := u.cls, keep := u.keep, maskh := u.maskh, maxnew := u.maxnew, ngen := 0, end_ := 0
    deadline := u.deadline, seed := u.seed, temp := u.temp, topp := u.topp, topk := u.topk, smode := u.smode, expk := u.expk
    cring := u.cring, ttl := u.ttl, prompt := u.prompt, stop0 := stop 0, stop1 := stop 1, stop2 := stop 2, stop3 := stop 3
    scode := 0, late := false, staged := [], badInput := false, retry := false }

/-- A new request in a FREE slot. -/
def Sub.fresh (u : Sub) (s : State) (m tag aseq : Nat) (e : Entry) : Entry :=
  let n := match s.prefixOf u.pre with | some x => x.blocks | none => 0
  u.into { gen := e.gen, modelId := u.model, midx := m, depth := u.depth, fresh := true, plen := u.plen
           pdone := n * geoTpp (s.model m).kvgeo, gstate := s.startState u.maskh, prefH := u.pre, tag := tag, aseq := aseq }

/-- A continuation of a PAUSED request (R274) (log 81). -/
def Sub.append (u : Sub) (aseq : Nat) (e : Entry) : Entry :=
  { u.into e with pdone := e.w, plen := e.npos + u.plen, aseq := aseq, ownFirst := e.ownFirst || e.ngen != 0 }

/-- SUBMIT (Table 9-4) (log 79). -/
def execSubmit (q : Fin 64) (s : State) : Out :=
  .next (runCmd s q { opcode := 0x0040, lenOk := lenIs 80, states := fun m => m != .starting } fun s c =>
    let u := subOf c.payload
    let i := u.handle % 65536
    let e := s.entry i
    let m := (s.midxOf u.model).getD 0
    let aseq := (s.sv.aseq + 1) % 2 ^ 32
    checkedCmd s c ([
        (!s.img.loaded || !s.img.serving, stState, 0),
        (u.cont && s.staleHandle u.handle, stStale, 0),
        (u.cont && (e.state != .paused || e.xfer || e.shadow), stState, 0)] ++
      s.subParams c.payload u e ++ [
        (!u.cont && u.pre != 0 && (s.prefixOf u.pre).isNone, stStale, 0),
        (s.staleMask u.maskh, stStale, 0),
        (!u.cont && s.newSlot.isNone, stNospace, 0)]) fun s =>
      let j := if u.cont then i else s.newSlot.getD 0
      let s := s.modSv fun v => { v with aseq := aseq }
      let s := s.modEntry j fun e => if u.cont then u.append aseq e else u.fresh s m c.tag aseq e
      replyOk s c (leBytes 4 (s.handle j) ++ leBytes 4 aseq))

/-! ### CANCEL, PARK, RESTORE -/

/-- The bytes of a command packet. -/
def Cmd.packet (c : Cmd) : List Byte :=
  leBytes 2 c.opcode ++ leBytes 2 c.flags ++ leBytes 4 c.tag ++ leBytes 2 c.length ++ leBytes 6 c.resv ++ c.payload

/-- Answer a command on a slot that has been accepted; one on a mirrored entry goes to the twin first (R461). -/
def answerMirrored (s : State) (c : Cmd) (i : Nat) : State :=
  if s.mirrored i then
    let n := s.tw.fwd
    let s := mirrorMsg s (.forward n) 0x05 (tget {} s.tw.mirrors (s.grpOf (s.entry i))).seq c.packet
    holdReply (s.modTw fun t => { t with fwd := n + 1 }) c (.forward n) {}
  else replyOk s c

/-- The states from which CANCEL leads (Table 9-5) (log 80). -/
def cancelFrom (e : Entry) : Bool :=
  !e.shadow && (match e.state with | .queued => true | .prefill => true | .decode => true | .paused => true | .parked => true
                                   | _ => false)

/-- CANCEL (R290). -/
def execCancel (q : Fin 64) (s : State) : Out :=
  .next (runCmd s q { opcode := 0x0041, lenOk := lenIs 8, states := ModState.image } fun s c =>
    let p := c.payload
    let h := fieldAt p 0 4
    let i := h % 65536
    checkedCmd s c [rsvd p 4 4, (s.staleHandle h, stStale, 0), (!cancelFrom (s.entry i), stState, 0)] fun s =>
      answerMirrored (s.modEntry i fun e => { e with came := e.state, state := .cancelling }) c i)

/-- The states from which PARK leads. -/
def parkFrom (e : Entry) : Bool :=
  !e.shadow && !e.xfer && (match e.state with | .queued => true | .prefill => true | .decode => true | .paused => true
                                              | _ => false)

/-- PARK (R296): recorded for phase 4; a later one replaces it (log 80). -/
def execPark (q : Fin 64) (s : State) : Out :=
  .next (runCmd s q { opcode := 0x0042, lenOk := lenIs 24, states := ModState.image } fun s c =>
    let p := c.payload
    let h := fieldAt p 0 4
    let i := h % 65536
    let e := s.entry i
    checkedCmd s c [misaligned p 8, (s.staleHandle h, stStale, 0), (!parkFrom e, stState, 0),
        (decide (fieldAt p 0x10 8 < parkSize (s.model e.midx) e.cls e.w), stNospace, 0)] fun s =>
      answerMirrored (s.modEntry i fun e => { e with
        parkRec := some (fieldAt p 8 8, fieldAt p 0x10 8, fieldAt p 4 4) }) c i)

/-- RESTORE (R300): recorded for phase 4. -/
def execRestore (q : Fin 64) (s : State) : Out :=
  .next (runCmd s q { opcode := 0x0043, lenOk := lenIs 8, states := ModState.image } fun s c =>
    let p := c.payload
    let h := fieldAt p 0 4
    let i := h % 65536
    let e := s.entry i
    checkedCmd s c [rsvd p 4 4, (s.staleHandle h, stStale, 0), (e.shadow || e.xfer || e.state != .parked, stState, 0)] fun s =>
      answerMirrored (s.modEntry i fun e => { e with restoreRec := true }) c i)

/-! ### QUERY_REQUEST -/

/-- The report of a slot (R492); a FREE entry has no model, and reports 0 from 0x80 on. -/
def State.requestReport (s : State) (i : Nat) : List Byte :=
  let e := s.entry i
  let tail := if e.state = .free then [] else
    leBytes 8 (parkSize (s.model e.midx) e.cls e.w) ++ leBytes 4 e.w ++ leBytes 4 e.npos ++ leBytes 4 (s.limp e)
  padTo 192 (e.bytes ++ tail)

/-- QUERY_REQUEST. A FREE slot holds no request of the handle (R468) (log 80). -/
def execQueryRequest (q : Fin 64) (io : Bool) (s : State) : Out :=
  .next (runCmd s q { opcode := 0x0044, lenOk := lenIs 16, states := ModState.image } fun s c =>
    let p := c.payload
    let h := fieldAt p 0 4
    let i := h % 65536
    checkedCmd s c [rsvd p 4 4, misaligned p 8, (s.staleHandle h || (s.entry i).state == .free, stStale, 0), hostFails io] fun s =>
      let e := s.entry i
      replyOk (hostPut s (fieldAt p 8 8) (s.requestReport i)) c
        (leBytes 1 e.state.code ++ leBytes 1 e.end_ ++ leBytes 2 0 ++ leBytes 4 e.ngen))

/-! ### PREFIX_PIN -/

/-- References of the frames of blocks 0 to n - 1, in index order. -/
def State.prefixRefs (s : State) (e : Entry) (n : Nat) : List Nat :=
  let g := (s.model e.midx).kvgeo
  (List.range (n * geoBr g)).map (s.refAt g e.pthead)

/-- Every frame that a pin of n blocks holds: those of the blocks, the root and the table frames (Table 8-8). -/
def State.prefixPins (s : State) (e : Entry) (n : Nat) : List Nat :=
  let g := (s.model e.midx).kvgeo
  let tables := (List.range ((n * geoBr g + 2047) / 2048)).map (s.tableFrame g e.pthead)
  (e.pthead :: tables ++ s.prefixRefs e n).filter refV

/-- The lowest free prefix slot from `i` on, of `n`. -/
def State.freePrefix (s : State) : Nat → Nat → Option Nat
  | 0, _ => none
  | n + 1, i => if (tget {} s.sv.prefixes i).live then State.freePrefix s n (i + 1) else some i

/-- Handle of a prefix slot. -/
def State.prefixHandle (s : State) (i : Nat) : Nat :=
  (s.sv.prefGen + (tget {} s.sv.prefixes i).gen) % 65536 * 65536 + i

/-- Pin the first blocks of a request. -/
def pinPrefix (s : State) (c : Cmd) (h n : Nat) : State :=
  let e := s.entry (h % 65536)
  let m := s.model e.midx
  let full := s.prefixPins e n |>.any (fun r => decide (65535 ≤ (s.counts r).hpins))
  checkedCmd s c [(s.staleHandle h, stStale, 0), (!refV e.pthead || e.shadow, stState, 0),
      badField (decide (e.w < n * geoTpp m.kvgeo) || (n != 0 && full)) 8,
      (n != 0 && (s.freePrefix 4095 1).isNone, stNospace, 0)] fun s =>
    if n = 0 then replyOk s c (leBytes 4 0)
    else
      let i := (s.freePrefix 4095 1).getD 0
      let pins := s.prefixPins e n
      let refs := s.prefixRefs e n
      let s := pins.foldl hpinInc s
      let s := s.modSv fun v => { v with prefixes := tmod {} v.prefixes i fun x =>
        { x with live := true, midx := e.midx, blocks := n, refs := refs, pins := pins } }
      replyOk s c (leBytes 4 (s.prefixHandle i))

/-- Unpin a prefix. -/
def unpinPrefix (s : State) (c : Cmd) (h n : Nat) : State :=
  let busy := s.sv.entries.any (fun e => e.2.state == .queued && !refV e.2.pthead && e.2.prefH == h)
  checkedCmd s c [badField (n != 0) 8, ((s.prefixOf h).isNone, stStale, 0), (busy, stBusy, 0)] fun s =>
    let x := tget {} s.sv.prefixes (h % 65536)
    let s := x.pins.foldl hpinDec s
    replyOk (s.modSv fun v => { v with prefixes := tset {} v.prefixes (h % 65536) { gen := x.gen + 1 } }) c (leBytes 4 0)

/-- PREFIX_PIN. -/
def execPrefixPin (q : Fin 64) (s : State) : Out :=
  .next (runCmd s q { opcode := 0x0061, lenOk := lenIs 16, states := ModState.image } fun s c =>
    let p := c.payload
    checkedCmd s c [rsvd p 1 3, rsvd p 0xC 4, badField (decide (1 < fieldAt p 0 1)) 0] fun s =>
      if fieldAt p 0 1 = 0 then pinPrefix s c (fieldAt p 4 4) (fieldAt p 8 4)
      else unpinPrefix s c (fieldAt p 4 4) (fieldAt p 8 4))

end Sys2Proof.Machine
end

