-- ==== Sys2Proof/Machine/Registers.lean ====
section
/-! DEFINITION. BAR0 (R543-R554): the value of every register, what a read does beside returning it, and what a write does to
the fields that lie wholly within the bytes it writes. -/

namespace Sys2Proof.Machine

/-! ### Accesses (R544) -/

/-- First byte and length of the bytes an access takes. -/
def partSpan : Part → Nat × Nat
  | .whole => (0, 8)
  | .lower => (0, 4)
  | .upper => (4, 4)
  | .bytes a two => (a.val, if two then 2 else 1)

/-- A write: the value, with each byte at its place in the register, and the bits it writes. -/
structure Wr where
  v  : Nat
  lo : Nat
  hi : Nat

/-- A write of 4 or 8 B; a narrower one is ignored. -/
def wrOf (p : Part) (data : BitVec 64) : Option Wr :=
  match p with
  | .whole => some ⟨data.toNat, 0, 63⟩
  | .lower => some ⟨data.toNat, 0, 31⟩
  | .upper => some ⟨data.toNat, 32, 63⟩
  | .bytes _ _ => none

/-- The field [hi:lo] lies wholly within the bytes written. -/
def Wr.has (w : Wr) (hi lo : Nat) : Bool := decide (w.lo ≤ lo) && decide (hi ≤ w.hi)

/-- The value of a field after the write. -/
def Wr.field (w : Wr) (hi lo old : Nat) : Nat := if w.has hi lo then bits w.v hi lo else old

/-- The same for one bit. -/
def Wr.flag (w : Wr) (i : Nat) (old : Bool) : Bool := if w.has i i then bit w.v i else old

/-- The nearer end of a range (R547). -/
def clampTo (lo hi v : Nat) : Nat := max lo (min hi v)

/-- The value of a ranged field after the write. -/
def Wr.clamped (w : Wr) (hi lo min_ max_ old : Nat) : Nat :=
  if w.has hi lo then clampTo min_ max_ (bits w.v hi lo) else old

/-! ### Rings (R474, R475, R477, R548) -/

/-- A size of a submission ring: a multiple of 128 up to 4,096. -/
def sqSizeOk (n : Nat) : Bool := n % 128 == 0 && decide (128 ≤ n ∧ n ≤ 4096)

/-- A size of a completion or event ring: a power of two from 128 to 65,536. -/
def cqSizeOk (n : Nat) : Bool := (List.range 10).any (fun i => n == 128 * 2 ^ i)

/-- A field that is not clamped: a value out of range is ignored. -/
def Wr.unclamped (w : Wr) (hi lo : Nat) (ok : Nat → Bool) (old : Nat) : Nat :=
  if w.has hi lo && ok (bits w.v hi lo) then bits w.v hi lo else old

/-- The host range of a ring is valid (log 92). -/
def ringFits (base bytes : Nat) : Bool := decide (base + bytes ≤ 2 ^ 64)

/-- CE_SQ_BASE, CE_CQ_BASE: the address, while EN is 0. -/
def Wr.addr (w : Wr) (lo old : Nat) : Nat := if w.has 63 lo then bits w.v 63 lo * 2 ^ lo else old

/-- CE_SQ_CFG. -/
def SqRing.cfg (r : SqRing) (w : Wr) : SqRing :=
  let on := w.flag 63 r.en
  if r.en then { r with en := on }
  else
    let r := { r with
      size := w.unclamped 12 0 sqSizeOk r.size, cq := w.field 29 24 r.cq, prio := w.field 31 30 r.prio }
    if on ∧ sqSizeOk r.size ∧ ringFits r.base (64 * r.size) then { r with en := true, head := 0, tail := 0 } else r

/-- CE_CQ_CFG. -/
def CqRing.cfg (r : CqRing) (w : Wr) : CqRing :=
  let on := w.flag 63 r.en
  if r.en then { r with en := on }
  else
    let r := { r with
      size := w.unclamped 16 0 cqSizeOk r.size, vec := w.field 29 24 r.vec
      mcnt := w.clamped 39 32 1 255 r.mcnt, mtime := w.field 47 40 r.mtime }
    if on ∧ cqSizeOk r.size ∧ ringFits r.base (32 * r.size) then { r with en := true, head := 0, tail := 0 } else r

/-- CE_EV_CFG. -/
def EvRing.cfg (r : EvRing) (w : Wr) : EvRing :=
  let on := w.flag 63 r.en
  if r.en then { r with en := on }
  else
    let r := { r with
      size := w.unclamped 16 0 cqSizeOk r.size, vec := w.field 29 24 r.vec
      mcnt := w.clamped 39 32 1 255 r.mcnt, mtime := w.field 47 40 r.mtime }
    if on ∧ cqSizeOk r.size ∧ ringFits r.base (32 * r.size) then
      { r with en := true, opened := true, head := 0, tail := 0 }
    else r

/-- CE_SQ_TAIL: a value of SIZE or more is ignored (R475). -/
def sqTail (s : State) (n : Nat) (w : Wr) : State :=
  if w.has 12 0 then
    let v := bits w.v 12 0
    if (s.sqr n).size ≤ v then ringError s 1 0 n else s.modSq n fun r => { r with tail := v }
  else s

/-- A head value lies between the current head and the tail. -/
def headOk (size head tail v : Nat) : Bool :=
  decide (v < size) && decide ((v + size - head) % size ≤ (tail + size - head) % size)

/-- CE_CQ_HEAD (R477). -/
def cqHead (s : State) (n : Nat) (w : Wr) : State :=
  if w.has 15 0 then
    s.modCq n fun r => if headOk r.size r.head r.tail (bits w.v 15 0) then { r with head := bits w.v 15 0 } else r
  else s

/-- CE_EV_HEAD (R480). -/
def evHead (s : State) (w : Wr) : State :=
  if w.has 15 0 then
    s.modEv fun r => if headOk r.size r.head r.tail (bits w.v 15 0) then { r with head := bits w.v 15 0 } else r
  else s

/-! ### MSI-X (R471) -/

/-- A 4 B word of the table; clearing the mask bit of a pending vector signals it (log 106). -/
def msixPut (s : State) (i v : Nat) : State :=
  let stored := if i % 4 = 3 then 1 - v % 2 else if i % 4 = 0 then v / 4 * 4 else v
  let s := s.modCe fun c => { c with msix := tset 0 c.msix i stored }
  let vec := i / 4
  if i % 4 = 3 ∧ v % 2 = 0 ∧ bit s.ce.msixPend vec then
    signal (s.modCe fun c => { c with msixPend := c.msixPend - 2 ^ vec }) vec
  else s

/-- A write of an 8 B word of the table (log 47). -/
def msixWrite (s : State) (j : Nat) (w : Wr) : State :=
  let s := if w.has 31 0 then msixPut s (2 * j) (bits w.v 31 0) else s
  if w.has 63 32 then msixPut s (2 * j + 1) (bits w.v 63 32) else s

/-! ### The mask store and the governor (R549) -/

/-- SPACE and WORD of HC_TBL_ADDR. -/
def tblSpace (a : Nat) : Nat := bits a 63 62
def tblWord (a : Nat) : Nat := bits a 22 0

/-- The word index after an access. -/
def tblNext (a : Nat) : Nat := setBits a 0 23 (tblWord a + 1)

/-- Descriptors of a space (Table 9-11) (log 97). -/
def descCount (space : Nat) : Nat := if space = 2 then 16 else 256

/-- HC_TBL_DATA as it reads. -/
def State.tblData (s : State) : Nat :=
  let sp := tblSpace s.sv.tblAddr
  let w := tblWord s.sv.tblAddr
  if sp = 0 then s.stagedWord w
  else if w < 2 * descCount sp then word64 (s.stagedDesc (sp * 256 + w / 2)).toNat (w % 2) else 0

/-- RW bits of a mask descriptor (Table 20-4). -/
def descMask : Nat := (2 ^ 41 - 1) * 2 ^ 75 + 2 ^ 70 + (2 ^ 64 - 1)

/-- 8 B words that the staging holds, of at most 524,288 (log 97). -/
def Serve.staged (v : Serve) : Nat := v.stWritten.length + 2 * v.stDesc.length

/-- A write of HC_TBL_DATA: ignored while STATE is 1; one that finds the staging full marks it so (log 91). -/
def tblPut (s : State) (x : Nat) : State :=
  let v := s.sv
  if v.tblState = 1 then s else
  let sp := tblSpace v.tblAddr
  let w := tblWord v.tblAddr
  let adv (u : Serve) : Serve := { u with tblAddr := tblNext u.tblAddr }
  if sp = 0 then
    if v.stWritten.contains w ∨ v.staged < 524288 then
      s.modSv fun u => adv { u with stWords := tset 0 u.stWords w x, stWritten := addOnce u.stWritten w }
    else s.modSv fun u => adv { u with stFull := true }
  else if w < 2 * descCount sp then
    let key := sp * 256 + w / 2
    let old := (s.stagedDesc key).toNat
    let new := BitVec.ofNat 128 (putWord old (w % 2) x &&& descMask ||| (old &&& (63 * 2 ^ 64)))
    if v.stDesc.any (fun e => e.1 == key) ∨ v.staged + 2 ≤ 524288 then
      s.modSv fun u => adv { u with stDesc := tins key new (tdel key u.stDesc) }
    else s.modSv fun u => adv { u with stFull := true }
  else s.modSv adv

/-- The staged governor entry. -/
def State.gtData (s : State) : Nat :=
  match (s.sv.stGov.find? (fun e => e.1 == s.sv.gtAddr)).map (·.2) with
  | some v => v.toNat
  | none => (tget 0 s.sv.gov s.sv.gtAddr).toNat

/-- HC_GT_ADDR after an access. -/
def Serve.gtNext (v : Serve) : Serve := { v with gtAddr := (v.gtAddr + 1) % 1024 }

/-- A write of HC_GT_DATA is staged. While a commit is recorded it joins that commit (DESIGN CHOICE, log 91). -/
def gtPut (s : State) (x : Nat) : State :=
  s.modSv fun v => Serve.gtNext { v with stGov := tins v.gtAddr (BitVec.ofNat 64 x) (tdel v.gtAddr v.stGov) }

/-! ### The export ring (R294) -/

def expSizeOk (n : Nat) : Bool := n % 4096 == 0 && decide (4096 ≤ n ∧ n ≤ 2 ^ 31)

/-- HC_EXP_SIZE. -/
def Serve.expCfg (v : Serve) (w : Wr) : Serve :=
  let on := w.flag 63 v.expEn
  if v.expEn then { v with expEn := on }
  else
    let v := { v with expSize := w.unclamped 31 0 expSizeOk v.expSize }
    if on ∧ expSizeOk v.expSize ∧ ringFits v.expBase v.expSize then
      { v with expEn := true, expHead := 0, expTail := 0, expLast := 0 }
    else v

/-- HC_EXP_HEAD: a multiple of 32 between head and tail. -/
def Serve.expHeadPut (v : Serve) (x : Nat) : Serve :=
  if x % 32 = 0 ∧ headOk v.expSize v.expHead v.expTail x then { v with expHead := x } else v

/-! ### The fabric staging area (R552) -/

/-- FB_STAGE_ADDR: its fields, and the address after an access. -/
def stageNext (a : Nat) : Nat :=
  let i := bits a 15 4
  if bits a 63 62 = 0 then
    (if bit a 3 then setBits a 3 13 (2 * ((i + 1) % 1024)) else setBits a 3 1 1)
  else setBits a 4 12 (i + 1)

/-- FB_STAGE_DATA as it reads. -/
def State.stageData (s : State) : Nat :=
  let a := s.fab.stAddr
  let i := bits a 15 4
  match bits a 63 62 with
  | 0 => if i < 1024 then word64 (tget 0 s.fab.stPaths i) (b2n (bit a 3)) else 0
  | 1 => (tget 0 s.fab.stMcast i).toNat
  | _ => 0

/-- A write of FB_STAGE_DATA, ignored while a handshake is in progress (log 91). -/
def stagePut (s : State) (x : Nat) : State :=
  if s.switching then s else
  let a := s.fab.stAddr
  let i := bits a 15 4
  s.modFab fun f =>
    let f := { f with stAddr := stageNext a }
    match bits a 63 62 with
    | 0 => if i < 1024 then { f with stPaths := tset 0 f.stPaths i (putWord (tget 0 f.stPaths i) (b2n (bit a 3)) x) } else f
    | 1 => { f with stMcast := tset 0 f.stMcast i (BitVec.ofNat 64 x) }
    | _ => f

/-! ### Register values -/

/-- Two 4 B registers side by side. -/
def pair32 (lo hi : Nat) : Nat := lo % 2 ^ 32 + hi % 2 ^ 32 * 2 ^ 32

/-- The configuration of a completion or event ring as it reads. -/
def cfgWord (en : Bool) (mtime mcnt vec size : Nat) : Nat :=
  b2n en * 2 ^ 63 + mtime * 2 ^ 40 + mcnt * 2 ^ 32 + vec * 2 ^ 24 + size

/-- The CE_ block. -/
def State.ceWord (s : State) (off : Nat) : Nat :=
  if off = 0 then b2n s.ce.strict
  else if off = 8 then s.ce.state.code + 2 ^ 4 * (s.boot.phase % 8) + 2 ^ 7 * b2n s.boot.waitId
  else if 0x40 ≤ off ∧ off < 0x60 then
    let g := (off - 0x40) / 4
    pair32 (s.stepNo g) (s.stepNo (g + 1))
  else if 0x1000 ≤ off ∧ off < 0x1800 then
    let r := s.sqr ((off - 0x1000) / 0x20)
    match off % 0x20 with
    | 0 => r.base
    | 8 => b2n r.en * 2 ^ 63 + r.prio * 2 ^ 30 + r.cq * 2 ^ 24 + r.size
    | 0x10 => pair32 r.tail r.head
    | _ => 0
  else if 0x2000 ≤ off ∧ off < 0x3000 then
    let r := s.cqr ((off - 0x2000) / 0x40)
    match off % 0x40 with
    | 0 => r.base
    | 8 => cfgWord r.en r.mtime r.mcnt r.vec r.size
    | 0x10 => r.wb
    | 0x18 => pair32 r.head r.tail
    | 0x20 => r.stall
    | _ => 0
  else
    let r := s.ce.ev
    match off with
    | 0x3000 => r.base
    | 0x3008 => cfgWord r.en r.mtime r.mcnt r.vec r.size
    | 0x3010 => r.wb
    | 0x3018 => pair32 r.head r.tail
    | 0x3020 => r.lost
    | _ => 0

/-- The HC_ block. -/
def State.hcWord (s : State) (off : Nat) : Nat :=
  let v := s.sv
  match off with
  | 0x20000 => v.tblAddr
  | 0x20008 => s.tblData
  | 0x20018 => v.tblObj * 2 ^ 16 + v.tblReason * 2 ^ 8 + v.tblState
  | 0x20040 => v.expBase
  | 0x20048 => b2n v.expEn * 2 ^ 63 + v.expSize
  | 0x20050 => v.expHead
  | 0x20058 => v.expTail
  | 0x20060 => v.expDrop
  | 0x20068 => v.full
  | 0x20070 => v.emitBad
  | 0x20078 => v.nonfinite
  | 0x20080 => v.ttlA + v.ttlB * 2 ^ 32
  | 0x200C0 => v.gtAddr
  | 0x200C8 => s.gtData
  | 0x200D8 => v.gtMidx * 2 ^ 16 + v.gtReason * 2 ^ 8 + v.gtState
  | 0x20100 => s.tw.skip
  | 0x20108 => s.tw.defer_
  | _ => 0

/-- Service state of a port as FB_PORT_STATE reports it. -/
def PortSvc.code : PortSvc → Nat
  | .down => 0 | .up => 1 | .retiring => 2

/-- The FB_ and TM_ blocks. -/
def State.fbWord (s : State) (off : Nat) : Nat :=
  let f := s.fab
  let t := s.tm
  match off with
  | 0x40000 => s.fbId
  | 0x40008 => f.ep.cur + 2 * b2n f.plan.have_ + 4 * b2n s.switching
  | 0x40010 => f.stAddr
  | 0x40018 => s.stageData
  | 0x40020 => f.timeout
  | 0x40028 => ((List.range 16).map (fun p => (s.port p).svc.code * 4 ^ p)).sum
  | 0x40040 => f.malformed
  | 0x40048 => f.misroute
  | 0x40050 => f.mcMiss
  | 0x40058 => f.mcLost
  | 0x40060 => f.dropped
  | 0x40068 => f.timeouts
  | 0x40070 => f.stale
  | 0x50000 => s.now % 2 ^ 64
  | 0x50008 => b2n t.pps
  | 0x50010 => t.state.code + t.active * 2 ^ 8 + t.depth * 2 ^ 16 + t.master * 2 ^ 32
  | 0x50018 => t.lead + t.slow * 2 ^ 32
  | 0x50020 => t.late
  | 0x50028 => t.stale
  | _ => 0

/-- CK_MARGIN_MIN word m. -/
def State.marginWord (s : State) (m : Nat) : Nat :=
  ((List.range 8).map (fun j => tget 0 s.ck.marginMin (8 * m + j) % 256 * 2 ^ (8 * j))).sum

/-- PW_STATE. -/
def Power.stateWord (p : Power) : Nat :=
  p.state + p.localLimit * 2 ^ 4 + p.ceil * 2 ^ 8 + p.cap * 2 ^ 12 + p.therm * 2 ^ 16 + p.margin * 2 ^ 20 +
    p.alert * 2 ^ 24 + p.lock * 2 ^ 28

/-- The CK_ and PW_ blocks. -/
def State.pwWord (s : State) (off : Nat) : Nat :=
  let c := s.ck
  let p := s.pw
  match off with
  | 0x60000 => ((List.range 24).map (fun i => s.modeOf i * 4 ^ i)).sum + c.cur * 2 ^ 48 + c.fb * 2 ^ 60
  | 0x60008 => c.want
  | 0x60010 => c.pending + min c.realigns (2 ^ 32 - 1) * 2 ^ 32
  | 0x60018 => c.low + c.crit * 2 ^ 8
  | 0x60020 => s.marginWord 0
  | 0x60028 => s.marginWord 1
  | 0x60030 => s.marginWord 2
  | 0x70000 => b2n p.pA + 2 * b2n p.pB + 4 * p.src + p.vA * 2 ^ 32 + p.vB * 2 ^ 48
  | 0x70008 => p.pinA
  | 0x70010 => p.pinB
  | 0x70018 => p.energy % 2 ^ 64
  | 0x70020 => p.stateWord
  | 0x70028 => p.ceil
  | 0x70030 => p.watts + p.win * 2 ^ 16 + p.hyst * 2 ^ 32
  | 0x70038 => p.throttle
  | 0x70040 => p.hold
  | 0x70048 => b2n p.gateSpad + 2 * b2n p.gateCav + p.gateDelay * 2 ^ 16
  | 0x70050 => p.dieOff + p.dieOffCur * 2 ^ 8
  | 0x70058 => p.tj + p.tjSrc * 2 ^ 16
  | 0x70060 => p.inlet + p.outlet * 2 ^ 16 + p.flow * 2 ^ 32
  | _ => 0

/-- The 32 B of an error-log record (Table 16-4). -/
def LogRec.bytes (r : LogRec) : List Byte :=
  leBytes 8 r.tick ++ leBytes 1 r.kind ++ leBytes 1 r.flags ++ leBytes 2 r.cause ++ leBytes 4 r.resid ++ leBytes 8 r.addr ++
    leBytes 2 r.count ++ leBytes 2 r.bundle ++ leBytes 1 r.vtile ++ leBytes 1 r.die ++ leBytes 2 0

/-- ER_WIN_ of a class. -/
def Errors.winWord (e : Errors) (c : Nat) : Nat := tget 0 e.thresh c + tget 0 e.win c * 2 ^ 32

/-- The ER_ block. -/
def State.erWord (s : State) (off : Nat) : Nat :=
  let e := s.er
  match off with
  | 0x80000 => e.scrub
  | 0x80008 => e.winWord 2
  | 0x80010 => e.winWord 3
  | 0x80018 => e.winWord 4
  | 0x80020 => e.winWord 5
  | 0x80028 => min e.head (2 ^ 64 - 1)
  | 0x80030 => e.sel
  | 0x80038 => min e.lost (2 ^ 64 - 1)
  | _ => if 0x80040 ≤ off ∧ off < 0x80060 then fieldAt e.captured.bytes (off - 0x80040) 8 else 0

/-- The DBG_ block. -/
def State.dbgWord (s : State) (off : Nat) : Nat :=
  let b := s.dbg
  let halted := numsWhere 8 (fun d => (s.die d).stop.halted)
  let stepping := numsWhere 8 (fun d => (s.die d).stop.step.isSome)
  if off = 0xE0000 then
    b.scope * 2 ^ 2 + b.die * 2 ^ 4 + b.vtile * 2 ^ 8 + b2n b.enabled * 2 ^ 62 + b2n (!halted.isEmpty) * 2 ^ 63
  else if off = 0xE0008 then b.stepN
  else if off = 0xE0010 then maskOf (halted.filter (fun d => !stepping.contains d)) + maskOf stepping * 2 ^ 8
  else if 0xE0040 ≤ off ∧ off < 0xE0080 then
    let (c, vt, bundle) := (s.die ((off - 0xE0040) / 8)).dbgCause
    c + vt * 2 ^ 8 + bundle * 2 ^ 16
  else 0

/-- The value of the 8 B register at an aligned offset of BAR0; a reserved offset reads 0 (R543). -/
def State.regWord (s : State) (off : Nat) : Nat :=
  if off < 0x10000 then s.ceWord off
  else if off < 0x10400 then pair32 (s.msixWord ((off - 0x10000) / 4)) (s.msixWord ((off - 0x10000) / 4 + 1))
  else if off = 0x10800 then s.ce.msixPend
  else if off < 0x30000 then s.hcWord off
  else if 0x30000 ≤ off ∧ off < 0x30200 then ((s.pmStatus ((off - 0x30000) / 64)).reverse[off % 64 / 8]?).getD 0
  else if off < 0x60000 then s.fbWord off
  else if off < 0x80000 then s.pwWord off
  else if off < 0xE0000 then s.erWord off
  else s.dbgWord off

/-- A word that two 4 B registers share: no half of it is latched. TICK is one value (R379). -/
def twoRegs (off : Nat) : Bool :=
  decide (0x40 ≤ off ∧ off < 0x60) || (decide (0x1000 ≤ off ∧ off < 0x1800) && off % 0x20 == 0x10) ||
    (decide (0x2000 ≤ off ∧ off < 0x3000) && off % 0x40 == 0x18) || off == 0x3018 || decide (0x10000 ≤ off ∧ off < 0x10400)

/-- What a read does beside returning the value. `lo` and `hi`: it takes bytes of the lower and of the upper half (log 90). -/
def readEffect (s : State) (off : Nat) (lo hi : Bool) : State :=
  if off = 0x20008 then s.modSv fun v => { v with tblAddr := tblNext v.tblAddr }
  else if off = 0x200C8 then s.modSv Serve.gtNext
  else if off = 0x40018 then s.modFab fun f => { f with stAddr := stageNext f.stAddr }
  else if 0x60020 ≤ off ∧ off < 0x60038 then
    let m := (off - 0x60020) / 8
    s.modCk fun c => { c with marginMin := c.marginMin.filter fun e =>
      !(e.1 / 8 == m && (if e.1 % 8 < 4 then lo else hi)) }
  else if 0x80040 ≤ off ∧ off < 0x80060 then
    match s.er.capIdx with
    | some i => s.modEr fun e => { e with log := tmod {} e.log i fun r => { r with isRead := true } }
    | none => s
  else s

/-- A read of bytes of a register through one path with its latches: the state, the latches, and the value with each byte
at its place (R544) (log 90). -/
def readReg (s : State) (latch : Tbl Nat) (off : Nat) (p : Part) : State × Tbl Nat × Nat :=
  let v := s.regWord off
  match p with
  | .whole => (readEffect s off true true, latch, v)
  | .lower =>
    if twoRegs off then (readEffect s off true false, latch, v % 2 ^ 32)
    else (readEffect s off true true, tset 0 latch off (1 + v / 2 ^ 32), v % 2 ^ 32)
  | .upper =>
    let l := tget 0 latch off
    if l = 0 then (readEffect s off false true, latch, v / 2 ^ 32 * 2 ^ 32)
    else (s, tset 0 latch off 0, (l - 1) * 2 ^ 32)
  | .bytes a two =>
    let n := if two then 2 else 1
    (readEffect s off (decide (a.val < 4)) (decide (4 < a.val + n)), latch,
      v / 2 ^ (8 * a.val) % 2 ^ (8 * n) * 2 ^ (8 * a.val))

/-! ### Writes -/

/-- The CE_ block. -/
def ceWrite (s : State) (off : Nat) (w : Wr) : State :=
  if off = 0 then (if s.img.loaded then s else s.modCe fun c => { c with strict := w.flag 0 c.strict })
  else if 0x1000 ≤ off ∧ off < 0x1800 then
    let n := (off - 0x1000) / 0x20
    match off % 0x20 with
    | 0 => s.modSq n fun r => if r.en then r else { r with base := w.addr 12 r.base }
    | 8 => s.modSq n fun r => r.cfg w
    | 0x10 => sqTail s n w
    | _ => s
  else if 0x2000 ≤ off ∧ off < 0x3000 then
    let n := (off - 0x2000) / 0x40
    match off % 0x40 with
    | 0 => s.modCq n fun r => if r.en then r else { r with base := w.addr 12 r.base }
    | 8 => s.modCq n fun r => r.cfg w
    | 0x10 => s.modCq n fun r => if r.en then r else { r with wb := w.addr 2 r.wb }
    | 0x18 => cqHead s n w
    | _ => s
  else match off with
    | 0x3000 => s.modEv fun r => if r.en then r else { r with base := w.addr 12 r.base }
    | 0x3008 => s.modEv fun r => r.cfg w
    | 0x3010 => s.modEv fun r => if r.en then r else { r with wb := w.addr 2 r.wb }
    | 0x3018 => evHead s w
    | _ => s

/-- The HC_ block. -/
def hcWrite (s : State) (off : Nat) (w : Wr) : State :=
  match off with
  | 0x20000 => s.modSv fun v =>
      let a := if w.has 22 0 then setBits v.tblAddr 0 23 (bits w.v 22 0) else v.tblAddr
      { v with tblAddr := if w.has 63 62 then setBits a 62 2 (bits w.v 63 62) else a }
  | 0x20008 => if w.has 63 0 then tblPut s w.v else if s.sv.tblState = 1 then s else readEffect s off true true
  | 0x20010 => if w.flag 0 false then recordTbl s else s
  | 0x20040 => s.modSv fun v => if v.expEn then v else { v with expBase := w.addr 12 v.expBase }
  | 0x20048 => s.modSv fun v => v.expCfg w
  | 0x20050 => if w.has 31 0 then s.modSv fun v => v.expHeadPut (bits w.v 31 0) else s
  | 0x20080 => s.modSv fun v => { v with ttlA := w.field 31 0 v.ttlA, ttlB := w.field 63 32 v.ttlB }
  | 0x200C0 => s.modSv fun v => { v with gtAddr := w.field 9 0 v.gtAddr }
  | 0x200C8 => if w.has 63 0 then gtPut s w.v else readEffect s off true true
  | 0x200D0 => if w.flag 0 false then recordGt s else s
  | _ => s

/-- The FB_ and TM_ blocks. -/
def fbWrite (s : State) (off : Nat) (w : Wr) : State :=
  match off with
  | 0x40010 => s.modFab fun f =>
      let a := if w.has 15 4 then setBits (setBits f.stAddr 4 12 (bits w.v 15 4)) 3 1 (bits w.v 3 3) else f.stAddr
      { f with stAddr := if w.has 63 62 then setBits a 62 2 (bits w.v 63 62) else a }
  | 0x40018 => if w.has 63 0 then stagePut s w.v else if s.switching then s else readEffect s off true true
  | 0x40020 => s.modFab fun f => { f with timeout := w.clamped 9 0 1 1000 f.timeout }
  | 0x50008 => s.modTm fun t => { t with pps := w.flag 0 t.pps }
  | 0x50018 => s.modTm fun t => { t with
      lead := w.clamped 15 0 100 65535 t.lead, slow := w.clamped 47 32 1 65535 t.slow }
  | _ => s

/-- The 24 modes of CK_REGION_MODE, 0b11 stored as 0b00. -/
def regionModes (v : Nat) : Nat := ((List.range 24).map (fun i => let m := v / 4 ^ i % 4; (if m = 3 then 0 else m) * 4 ^ i)).sum

/-- PW_CAP.WATTS as stored. -/
def wattsStored (v : Nat) : Nat := if v = 0 then 0 else clampTo 450 2400 v

/-- The CK_ and PW_ blocks. -/
def pwWrite (s : State) (off : Nat) (w : Wr) : State :=
  match off with
  | 0x60008 => if w.has 47 0 then s.modCk fun c => { c with want := regionModes (bits w.v 47 0) } else s
  | 0x60018 => s.modCk fun c =>
      let low := w.field 7 0 c.low
      { c with low := low, crit := min low (w.field 15 8 c.crit) }
  | 0x70028 => s.modPw fun p => { p with ceil := w.clamped 3 0 0 14 p.ceil }
  | 0x70030 =>
      let s := s.modPw fun p => { p with win := w.clamped 31 16 1 1000 p.win, hyst := w.clamped 47 32 0 500 p.hyst }
      if w.has 15 0 then setWatts s (wattsStored (bits w.v 15 0)) else s
  | 0x70038 => s.modPw fun p => { p with throttle := w.clamped 7 0 60 95 p.throttle }
  | 0x70040 => s.modPw fun p => { p with hold := w.clamped 9 0 1 1000 p.hold }
  | 0x70048 => s.modPw fun p => { p with
      gateSpad := w.flag 0 p.gateSpad, gateCav := w.flag 1 p.gateCav, gateDelay := w.field 31 16 p.gateDelay }
  | 0x70050 => if w.has 7 0 then setDieOff s (bits w.v 7 0) else s
  | _ => s

/-- ER_WIN_ of a class. -/
def winPut (s : State) (c : Nat) (w : Wr) : State :=
  s.modEr fun e => { e with
    thresh := tset 0 e.thresh c (w.field 15 0 (tget 0 e.thresh c))
    win := tset 0 e.win c (w.clamped 63 32 1 3600000 (tget 0 e.win c)) }

/-- ER_LOG_SEL: the record is captured (R452). -/
def logSelect (s : State) (i : Nat) : State :=
  s.modEr fun e => { e with sel := i, captured := tget {} e.log i, capIdx := if i < e.head then some i else none }

/-- The ER_ block. -/
def erWrite (s : State) (off : Nat) (w : Wr) : State :=
  match off with
  | 0x80000 => s.modEr fun e => { e with scrub := w.clamped 7 0 1 255 e.scrub }
  | 0x80008 => winPut s 2 w
  | 0x80010 => winPut s 3 w
  | 0x80018 => winPut s 4 w
  | 0x80020 => winPut s 5 w
  | 0x80030 => if w.has 11 0 then logSelect s (bits w.v 11 0) else s
  | _ => s

/-- The DBG_ block. -/
def dbgWrite (s : State) (off : Nat) (w : Wr) : State :=
  match off with
  | 0xE0000 =>
    let b := s.dbg
    writeDbgCtl s (w.field 3 2 b.scope) (w.field 6 4 b.die) (w.field 15 8 b.vtile) (w.field 1 0 0)
  | 0xE0008 => s.modDbg fun b => { b with stepN := w.field 23 0 b.stepN }
  | _ => s

/-- A write of the 8 B register at an aligned offset of BAR0; a reserved offset ignores it (R543). -/
def writeReg (s : State) (off : Nat) (w : Wr) : State :=
  if off < 0x10000 then ceWrite s off w
  else if off < 0x10400 then msixWrite s ((off - 0x10000) / 8) w
  else if off < 0x30000 then hcWrite s off w
  else if off < 0x60000 then fbWrite s off w
  else if off < 0x80000 then pwWrite s off w
  else if off < 0xE0000 then erWrite s off w
  else dbgWrite s off w

/-! ### Host accesses -/

/-- A write through BAR0, while the endpoint is up (log 92). -/
def barWrite (s : State) (off : Nat) (p : Part) (data : BitVec 64) : State :=
  if s.boot.pcie then (match wrOf p data with | some w => writeReg s off w | none => s) else s

/-- A read through BAR0. -/
def barRead (s : State) (off : Nat) (p : Part) : State :=
  if s.boot.pcie then
    let (s, latch, v) := readReg s s.bus.latch off p
    { s with bus := { s.bus with rdata := v, latch := latch } }
  else s

/-- A write, or a read where no data are given. -/
def barAccess (s : State) (off : Nat) (p : Part) (data : Option (BitVec 64)) : State :=
  match data with
  | some v => barWrite s off p v
  | none => barRead s off p

/-- CE_MODE (R114). -/
def execCeMode (p : Part) (data : BitVec 64) (s : State) : Out := .next (barWrite s 0 p data)

/-- CE_SQ_CFG (R548). -/
def execCeSqCfg (n : Fin 64) (p : Part) (data : BitVec 64) (s : State) : Out :=
  .next (barWrite s (0x1008 + 0x20 * n.val) p data)

/-- CE_CQ_CFG (R548). -/
def execCeCqCfg (n : Fin 64) (p : Part) (data : BitVec 64) (s : State) : Out :=
  .next (barWrite s (0x2008 + 0x40 * n.val) p data)

/-- CE_EV_CFG (R548). -/
def execCeEvCfg (p : Part) (data : BitVec 64) (s : State) : Out := .next (barWrite s 0x3008 p data)

/-- CE_SQ_TAIL (R475). -/
def execCeSqTail (n : Fin 64) (p : Part) (data : BitVec 64) (s : State) : Out :=
  .next (barWrite s (0x1010 + 0x20 * n.val) p data)

/-- CE_CQ_HEAD (R477). -/
def execCeCqHead (n : Fin 64) (p : Part) (data : BitVec 64) (s : State) : Out :=
  .next (barWrite s (0x2018 + 0x40 * n.val) p data)

/-- CE_EV_HEAD (R480). -/
def execCeEvHead (p : Part) (data : BitVec 64) (s : State) : Out := .next (barWrite s 0x3018 p data)

/-- HC_TBL_DATA (R549). -/
def execHcTblData (p : Part) (data : Option (BitVec 64)) (s : State) : Out := .next (barAccess s 0x20008 p data)

/-- HC_TBL_COMMIT (R291). -/
def execHcTblCommit (p : Part) (data : BitVec 64) (s : State) : Out := .next (barWrite s 0x20010 p data)

/-- HC_GT_DATA (R549). -/
def execHcGtData (p : Part) (data : Option (BitVec 64)) (s : State) : Out := .next (barAccess s 0x200C8 p data)

/-- HC_GT_COMMIT (R315). -/
def execHcGtCommit (p : Part) (data : BitVec 64) (s : State) : Out := .next (barWrite s 0x200D0 p data)

/-- FB_STAGE_DATA (R552). -/
def execFbStageData (p : Part) (data : Option (BitVec 64)) (s : State) : Out := .next (barAccess s 0x40018 p data)

/-- TM_TICK_LO: the read latches the upper half (R379). -/
def execTmTickLo (s : State) : Out := .next (barRead s 0x50000 .lower)

/-- REGISTER_HALF_READ: a read of the word `word` of BAR0, a half of it or another part (R544). -/
def execRegisterHalfRead (word : Fin 131072) (p : Part) (s : State) : Out := .next (barRead s (8 * word.val) p)

/-- CK_MARGIN_MIN (R419). -/
def execCkMarginMin (m : Fin 3) (p : Part) (s : State) : Out := .next (barRead s (0x60020 + 8 * m.val) p)

/-- CK_REGION_MODE (R407). -/
def execCkRegionMode (p : Part) (data : BitVec 64) (s : State) : Out := .next (barWrite s 0x60008 p data)

/-- PW_CEIL (R428). -/
def execPwCeil (p : Part) (data : BitVec 64) (s : State) : Out := .next (barWrite s 0x70028 p data)

/-- PW_CAP (R432). -/
def execPwCap (p : Part) (data : BitVec 64) (s : State) : Out := .next (barWrite s 0x70030 p data)

/-- PW_THERM (R441). -/
def execPwTherm (p : Part) (data : BitVec 64) (s : State) : Out := .next (barWrite s 0x70038 p data)

/-- PW_DIE_OFF (R431). -/
def execPwDieOff (p : Part) (data : BitVec 64) (s : State) : Out := .next (barWrite s 0x70050 p data)

/-- ER_LOG_SEL (R452). -/
def execErLogSel (p : Part) (data : BitVec 64) (s : State) : Out := .next (barWrite s 0x80030 p data)

/-- ER_LOG_DATA (R452, R553). -/
def execErLogData (w : Fin 4) (p : Part) (s : State) : Out := .next (barRead s (0x80040 + 8 * w.val) p)

/-- REGISTER_WRITE: a write of the word `word` of BAR0 (R543-R545). -/
def execRegisterWrite (word : Fin 131072) (p : Part) (data : BitVec 64) (s : State) : Out :=
  .next (barWrite s (8 * word.val) p data)

end Sys2Proof.Machine
end

