-- ==== Sys2Proof/Machine/Rings.lean ====
section
/-! DEFINITION. The rings as they are written and signalled (R477-R480), the NOTICE that follows a token record (R460), and
host-memory accesses that fail (R472). -/

namespace Sys2Proof.Machine

/-! ### Completion rings -/

/-- A token record has been written: a TOKEN record's position is the request's last one, and the twin of a mirrored entry gets
a NOTICE; it says END written for an END record. -/
def recordNotice (s : State) (bytes : List Byte) : State :=
  let h := fieldAt bytes 0 4
  let i := h % 65536
  let kind := fieldAt bytes 31 1
  if s.handle i = h then
    let s := if kind = 1 then s.modEntry i fun e => { e with lastTok := some (fieldAt bytes 8 3) } else s
    if s.mirrored i then notice s i (kind == 2) false else s
  else s

/-- COMPLETION_ENTRY_WRITE: the next entry of a completion ring. -/
def execCompletionEntryWrite (q : Fin 64) (s : State) : Out :=
  .next (match writeCq s q.val with
    | (s, some e) => if e.sq.isNone then recordNotice s e.bytes else s
    | (s, none) => s)

/-! ### The event ring -/

/-- EVENT_RECORD_WRITE: EVENT_LOST first when room has returned, else the next event, which a full ring loses (R480). -/
def execEventRecordWrite (s : State) : Out :=
  .next (
    let e := s.ce.ev
    if !e.en then s
    else if e.room then
      if e.lostNew ≠ 0 then
        let r : EvRec := ⟨s.now, 0x0004, 0, e.seq, leBytes 4 (min e.lostNew (2 ^ 32 - 1))⟩
        putEvent (s.modEv fun e => { e with lostNew := 0, seq := (e.seq + 1) % 2 ^ 32 }) r
      else match e.wait with
        | [] => s
        | r :: rest => putEvent (s.modEv fun e => { e with wait := rest }) r
    else match e.wait with
      | [] => s
      | _ :: rest => s.modEv fun e => { e with wait := rest, lost := count64 e.lost, lostNew := e.lostNew + 1 })

/-- MSIX_SIGNAL_TIMER: MTIME has passed since the first entry not yet signalled of completion ring `ring`, or of the event
ring (64) (R479). -/
def execMsixSignalTimer (ring : Fin 65) (s : State) : Out :=
  .next (
    if ring.val < 64 then
      let r := s.cqr ring.val
      if r.unsig ≠ 0 ∧ r.mtime ≠ 0 then cqSignal s ring.val true else s
    else
      let r := s.ce.ev
      if r.unsig ≠ 0 ∧ r.mtime ≠ 0 then signal (s.modEv fun e => { e with unsig := 0 }) r.vec else s)

/-! ### Accesses that fail (Table 17-2) -/

/-- The prompt fetch of a slot fails: it is retried, and SERVE_ERROR(PROMPT_IO) is raised once per request. -/
def promptFails (s : State) (i : Nat) : State :=
  let e := s.entry i
  if s.wantsPrompt e then
    let s := s.modEntry i fun e => { e with retry := true, ioTold := true }
    if e.ioTold then s else serveError s i 4 e.npos
  else s

/-- A park write-out fails: it is abandoned at the next phase 4; one whose request is gone ends. -/
def writeoutFails (s : State) (i : Nat) : State :=
  match (s.entry i).transfer with
  | .writing _ pins => s.modEntry i fun e => { e with transfer := .writeFailed pins }
  | _ =>
    match s.sv.orphans.find? (fun o => o.slot == i && (match o.xfer with | .writing _ _ => true | _ => false)) with
    | some o =>
      let s := s.modSv fun v => { v with orphans := v.orphans.erase o }
      (match o.xfer with | .writing _ pins => pins | _ => []).foldl hpinDec s
    | none => s

/-- A park read-in fails: as the CRC mismatch of R300, with SERVE_ERROR(PARK_IO). -/
def readinFails (s : State) (i : Nat) : State :=
  match (s.entry i).transfer with
  | .reading root => abandonReadin s i root 3
  | _ =>
    match s.sv.orphans.find? (fun o => o.slot == i && (match o.xfer with | .reading _ => true | _ => false)) with
    | some o => endOrphan s o
    | none => s

/-- The write of the export record written last fails: the record is dropped and counted (log 77). -/
def exportFails (s : State) : State :=
  let v := s.sv
  if v.expLast = 0 then s else
  s.modSv fun v => { v with
    expTail := (v.expTail + v.expSize - v.expLast) % v.expSize, expLast := 0, expDrop := count64 v.expDrop }

/-- HOST_MEMORY_ACCESS_ERROR by the purpose of the access: 0 submission ring, 1 completion ring, 2 event ring, 3 prompt
fetch, 4 park write-out, 5 park read-in of a slot, 6 export record. A buffer that a command names fails within its
command. -/
def execHostMemoryAccessError (kind : Fin 7) (index : Fin 65536) (s : State) : Out :=
  .next (
    let i := index.val
    match kind.val with
    | 0 => if (s.sqr i).en then ringError (s.modSq i fun r => { r with en := false }) 2 0 i else s
    | 1 => if (s.cqr i).en then ringError (s.modCq i fun r => { r with en := false }) 2 1 i else s
    | 2 => if s.ce.ev.en then ringError (s.modEv fun r => { r with en := false }) 2 2 0 else s
    | 3 => promptFails s i
    | 4 => writeoutFails s i
    | 5 => readinFails s i
    | _ => exportFails s)

end Sys2Proof.Machine
end

