-- ==== Sys2Proof/Machine/Tap.lean ====
section
/-! DEFINITION. The test access port (R523-R528): each TAP instruction with the scan of its data register, from Capture-DR to
Update-DR, and the debug accesses that JDATA starts. -/

namespace Sys2Proof.Machine

/-- The TAP acts while the standby domain is powered (R559) (log 107). -/
def tap (s : State) (f : State → State) : State := if s.boot.standby then f s else s

/-- An instruction is selected, and its data register captures a value (log 107). -/
def capture (s : State) (ir dr : Nat) : State := s.modDbg fun d => { d with ir := ir, dr := dr }

/-- TAP_RESET: Test-Logic-Reset selects IDCODE. -/
def execTapReset (s : State) : Out := .next (tap s fun s => s.modDbg fun d => { d with ir := 1, extest := none })

/-- The boundary-scan register captures the pins. -/
def capturePins (s : State) (ir : Nat) : State :=
  let (n, s) := s.fresh
  capture s ir (Config.pinCapture n)

/-- EXTEST: the scanned value drives the sideband outputs while PWR_OK is deasserted (R525). -/
def execExtest (v : Nat) (s : State) : Out :=
  .next (tap s fun s =>
    (capturePins s 0).modDbg fun d => { d with bscan := v, extest := if s.boot.pwrOk then none else some v })

/-- SAMPLE/PRELOAD. -/
def execSamplePreload (v : Nat) (s : State) : Out :=
  .next (tap s fun s => (capturePins s 2).modDbg fun d => { d with bscan := v, extest := none })

/-- The identification code (R524). -/
def State.idcode (s : State) : Nat := if s.made.b0 then 0x2834C5E7 else 0x1834C5E7

/-- IDCODE. -/
def execIdcode (s : State) : Out :=
  .next (tap s fun s => (capture s 1 s.idcode).modDbg fun d => { d with extest := none })

/-- BYPASS: the one-bit register captures 0, as IEEE 1149.1 gives. -/
def execBypass (s : State) : Out := .next (tap s fun s => (capture s 0xFF 0).modDbg fun d => { d with extest := none })

/-- An instruction that acts only under the debug enable, and as BYPASS without it (R525). -/
def guarded (s : State) (ir : Nat) (f : State → State) : State :=
  tap s fun s =>
    let s := s.modDbg fun d => { d with extest := none }
    if s.dbg.enabled then f s else capture s ir 0

/-- The access of JREG at Update-DR: the state, and the value read or written (R526) (log 98). -/
def jregAccess (s : State) (write : Bool) (off data : Nat) : State × Nat :=
  if off % 4 ≠ 0 ∨ s.pw.off then (s, bits s.dbg.jreg 31 0)
  else
    let word := 0xE0000 + off / 8 * 8
    let upper := off % 8 == 4
    if write then
      let w : Wr := if upper then ⟨data * 2 ^ 32, 32, 63⟩ else ⟨data, 0, 31⟩
      (writeReg s word w, data)
    else
      let (s, latch, v) := readReg s s.dbg.latch word (if upper then .upper else .lower)
      (s.modDbg fun d => { d with latch := latch }, if upper then v / 2 ^ 32 else v % 2 ^ 32)

/-- JREG: the scan of [49] WRITE, [48:32] OFFSET, [31:0] DATA. -/
def execJreg (v : BitVec 50) (s : State) : Out :=
  .next (guarded s 0x20 fun s =>
    let v := v.toNat
    let s := capture s 0x20 s.dbg.jreg
    let (s, data) := jregAccess s (bit v 49) (bits v 48 32) (bits v 31 0)
    s.modDbg fun d => { d with jreg := setBits v 0 32 data })

/-- JADDR as it reads. -/
def Debug.jaddr (d : Debug) : Nat := d.jga + b2n d.jwrite * 2 ^ 48 + b2n d.jinc * 2 ^ 49

/-- JADDR: [47:0] GA, [48] WRITE, [49] INC (R527). -/
def execJaddr (v : BitVec 64) (s : State) : Out :=
  .next (guarded s 0x21 fun s =>
    let v := v.toNat
    (capture s 0x21 s.dbg.jaddr).modDbg fun d => { d with jga := bits v 47 0, jwrite := bit v 48, jinc := bit v 49 })

/-- JDATA: the status and data are captured, and one access starts, unless one is pending (R527). -/
def execJdata (v : BitVec 72) (s : State) : Out :=
  .next (guarded s 0x22 fun s =>
    let s := capture s 0x22 (s.dbg.jdata + s.dbg.jstatus * 2 ^ 64)
    if s.dbg.pendAcc.isSome then s
    else s.modDbg fun d => { d with
      pendAcc := some (d.jga, d.jwrite, bits v.toNat 63 0), jstatus := accPending
      jga := if d.jinc then (d.jga + 8) % 2 ^ 48 else d.jga })

/-- No debug access raises an event (R528) (log 71). -/
def noEvents (before after : State) : State := after.modEv fun _ => before.ce.ev

/-- DEBUG_ACCESS: once a slot of its bank or of its Cavern line is free, the pending access completes, with its status and the data of a read (R527, R528) (log 71) (log 98). -/
def execDebugAccess (s : State) : Out :=
  .next (match s.dbg.pendAcc with
    | none => s
    | some (ga, write, v) =>
      let done (s : State) (st : Nat) : State := s.modDbg fun d => { d with pendAcc := none, jstatus := st }
      if s.pw.off then done s accOff else
      match s.accessSlot ga write with
      | none => s
      | some s =>
      if write then
        let (t, st) := writeWord s true ga v
        done (noEvents s t) st
      else
        let (t, st, data) := readWord s true ga
        let t := noEvents s t
        if st = accOk then done (t.modDbg fun d => { d with jdata := data }) st
        else if st = accUe then
          let (n, t) := t.fresh
          done (t.modDbg fun d => { d with jdata := (Config.ueData n).toNat }) st
        else done t st)

end Sys2Proof.Machine
end

