-- ==== Sys2Proof/Machine/TimeRows.lean ====
section
/-! DEFINITION. TICK and the time tree: the reference (R380), TIME (R382, R386, R387, R518), link delays (R384), the loss
of the parent (R386) and TSYNC (R388). -/

namespace Sys2Proof.Machine

/-- f + s as they act: both are 0 in FREE, where a warm start keeps their values for the time loop (R380, Table 18-2) (log 93). -/
def Time.rate (t : Time) : Int := if t.state = .free then 0 else t.f + t.s

/-- TICK_ADVANCE: one reference period adds 10 x (1 + f + s) ns (R380) (log 40) (log 99). -/
def execTickAdvance (s : State) : Out :=
  .next (
    if s.pw.off then s
    else s.modTm fun t =>
      let n := t.frac + 655360 * (100000000 + t.rate).toNat
      { t with tick := t.tick + n / 100000000, frac := n % 100000000 })

/-- SSTATE of a TIME message (Table 13-6). -/
def Time.sstate (t : Time) : Nat := b2n (t.state == .master || t.state == .locked) + 2 * t.state.code

/-- Payload of TIME. TX is written as the frame leaves (R383). -/
def timePayload (s : State) : List Byte :=
  let depth := if s.tm.state = .master then 0 else s.tm.depth
  let master := if s.tm.state = .master then s.id.mid else s.tm.master
  stampBytes s.tm.tick ++ leBytes 1 s.tm.sstate ++ leBytes 1 depth ++ leBytes 2 master ++ leBytes 2 s.tm.nseq

/-- TIME_SEND: every 1 ms, on each port in service (R382). -/
def execTimeSend (s : State) : Out :=
  .next (
    if s.tm.state.sends then
      (List.range 16).foldl (fun s p =>
        if s.portOk p then
          linkMsg (s.modTm fun t => { t with nseq := (t.nseq + 1) % 65536 }) p 0x10 (timePayload s)
        else s) s
    else s)

/-- f within 100 ppm, in units of 0.01 ppm. -/
def clampF (f : Int) : Int := max (-10000) (min 10000 f)

/-- What the loop does to f on one message: at most 0.01 ppm (free, log 12). -/
def freeF (n : Nat) : Int := (((Config.loopF n).toNat % 3 : Nat) : Int) - 1

/-- The slew term against an offset: free, at most 1 ppm, and all of it past 10 µs (R382, R387; log 12). -/
def freeS (n : Nat) (theta4 : Int) : Int :=
  let size : Int := if theta4.natAbs > 2621440000 then 100 else (((Config.loopS n).toNat % 100 : Nat) : Int) + 1
  if theta4 = 0 then 0 else if theta4 > 0 then -size else size

/-- What the rate of own TICK lacks against the parent's over the messages measured, in units of 0.01 ppm: rounded down, and
whether it is exact. -/
def slopeOf (l : List (Nat × Int)) : Int × Bool :=
  match l, l.getLast? with
  | a :: _, some b =>
    let num := (a.2 - b.2) * 100000000
    let den := 4 * ((b.1 : Int) - (a.1 : Int))
    (num / den, num % den == 0)
  | _, _ => (0, true)

/-- A value of f within 0.02 ppm of the measured rate: one of those on the grid of 0.01 ppm, free (R518; log 12). -/
def slopeErr (n : Nat) (exact : Bool) : Int :=
  let k := (Config.slopeErr n).toNat
  if exact then ((k % 5 : Nat) : Int) - 2 else ((k % 4 : Nat) : Int) - 1

/-- The step of R387: f takes the measured rate, and TICK the parent's time (log 40). -/
def timeStep (s : State) (theta4 : Int) : State :=
  let (n, s) := s.fresh
  s.modTm fun t => { t with
    f := clampF (t.f + t.s + (slopeOf t.slope).1 + slopeErr n (slopeOf t.slope).2), s := 0, tick := ((t.tick : Int) - theta4 / 4).toNat, frac := 0
    stepped := true, slope := [], good := 0, wild := 0 }

/-- LOCKED or TRACKING, by SYNCED. -/
def lockedBy (synced : Bool) : TState := if synced then .locked else .tracking

/-- The loop's update for one message with offset theta (2^-18 ns), and the transitions of Table 13-3. -/
def timeLoop (s : State) (theta4 : Int) (synced : Bool) : State :=
  let (n, s) := s.fresh
  let small := decide (theta4.natAbs ≤ 262144)
  let large := decide (2621440 < theta4.natAbs)
  let huge := decide (2621440000 < theta4.natAbs)
  let s := s.modTm fun t => { t with
    f := clampF (t.f + freeF n), s := freeS n theta4
    good := if small then t.good + 1 else 0, wild := if large then t.wild + 1 else 0 }
  let s := if huge ∧ s.boot.everReady ∧ !s.tm.faulted then
      raise (s.modTm fun t => { t with faulted := true }) 0x51 0 (leBytes 8 (unsignedOf 64 (theta4 / 262144)))
    else s
  match s.tm.state with
  | .acquiring =>
    if 16 ≤ s.tm.good then
      let s := s.modTm fun t => { t with state := lockedBy synced, wild := 0 }
      if synced then alignedNow s else s
    else s
  | .locked =>
    if 4 ≤ s.tm.wild then s.modTm fun t => t.acquire t.active t.tick
    else s.modTm fun t => { t with state := lockedBy synced }
  | .tracking =>
    if 4 ≤ s.tm.wild then s.modTm fun t => t.acquire t.active t.tick
    else
      let s := s.modTm fun t => { t with state := lockedBy synced }
      if synced then alignedNow s else s
  | _ => s

/-- TIME: delivered packet `i` is a TIME message (R382, R386, R387, R518). -/
def execTime (i : Nat) (s : State) : Out :=
  .next (match s.inAt i 0x0E 0x10 with
    | none => s
    | some a =>
      let s := dropIn s i
      match a.port with
      | none => s
      | some p =>
        let plan := s.fab.plan
        if s.tm.state = .holdover ∧ (p = plan.parent ∨ p = plan.backup) then s.modTm fun t => t.acquire p t.tick
        else if s.tm.state.follows ∧ p = s.tm.active then
          let d := a.pkt.data
          let tx : Nat := fieldAt d 0 8 * 65536 + fieldAt d 8 2
          let synced := bit (fieldAt d 10 1) 0
          let s := s.modTm fun t => { t with
            heard := t.tick, synced := synced, depth := min 15 (fieldAt d 11 1 + 1), master := fieldAt d 12 2 }
          match (s.port p).delay with
          | none => s
          | some l =>
            let theta4 : Int := 4 * ((a.at_ : Int) - (tx : Int)) - l
            if s.tm.state = .acquiring ∧ !s.boot.everReady ∧ !s.tm.stepped ∧ 16 ≤ (s.port p).samples.length then
              if 64 ≤ s.tm.slope.length then timeStep s theta4
              else s.modTm fun t => { t with slope := t.slope ++ [(a.at_, theta4)] }
            else timeLoop s theta4 synced
        else s)

/-! ### Link delay (R384) -/

/-- DELAY_EXCHANGE_TIMER: an exchange begins on a port in service. T1 is taken as the frame leaves. -/
def execDelayExchangeTimer (p : Fin 16) (s : State) : Out :=
  .next (
    if s.portOk p.val then
      let s := s.modPort p.val fun x => { x with exch := (x.exch + 1) % 65536, exchT1 := none }
      linkMsg s p.val 0x11 (stampBytes s.tm.tick ++ leBytes 2 (s.port p.val).exch ++ leBytes 4 0)
    else s)

/-- DELAY_REQ: answered with T2, its arrival; T3 is written as the answer leaves (R383). -/
def execDelayReq (i : Nat) (s : State) : Out :=
  .next (match s.inAt i 0x0E 0x11 with
    | none => s
    | some a =>
      let s := dropIn s i
      match a.port with
      | none => s
      | some p =>
        linkMsg s p 0x12 (stampBytes a.at_ ++ leBytes 2 (fieldAt a.pkt.data 10 2) ++ leBytes 4 0 ++
          stampBytes s.tm.tick ++ leBytes 6 0))

/-- DELAY_RESP: one sample, ((T4 - T1) - (T3 - T2)) / 2. -/
def execDelayResp (i : Nat) (s : State) : Out :=
  .next (match s.inAt i 0x0E 0x12 with
    | none => s
    | some a =>
      let s := dropIn s i
      match a.port with
      | none => s
      | some p =>
        let d := a.pkt.data
        let x := s.port p
        match x.exchT1 with
        | none => s
        | some t1 =>
          if fieldAt d 10 2 = x.exch then
            let t2 : Int := ((fieldAt d 0 8 * 65536 + fieldAt d 8 2 : Nat) : Int)
            let t3 : Int := ((fieldAt d 16 8 * 65536 + fieldAt d 24 2 : Nat) : Int)
            let sample : Int := ((a.at_ : Int) - (t1 : Int)) - (t3 - t2)
            s.modPort p fun x => { x with samples := (sample :: x.samples).take 16, exchT1 := none }
          else s)

/-- PARENT_TIMEOUT: no valid message for 5 ms (R386). -/
def execParentTimeout (s : State) : Out :=
  .next (if s.tm.state.follows ∧ s.tm.heard + 5000000 * 65536 ≤ s.tm.tick then parentLost s else s)

/-- TSYNC: a rising edge on the master, with TM_CFG.PPS (R388). -/
def execTsync (s : State) : Out :=
  .next (
    if s.tm.state = .master ∧ s.tm.pps then
      let s' := s.modTm fun t => { t with edge := some t.tick }
      match s.tm.edge with
      | none => s'
      | some e =>
        let d : Int := (s.tm.tick : Int) - (e : Int) - 65536000000000
        if d.natAbs ≤ 65536000000 then
          let (n, s') := s'.fresh
          let k : Int := (((Config.loopF n).toNat % 2 : Nat) : Int)
          s'.modTm fun t => { t with f := clampF (t.f + (if d = 0 then 0 else if d > 0 then -k else k)) }
        else s'
    else s)

end Sys2Proof.Machine
end

