-- ==== Sys2Proof/Machine/Dispatch.lean ====
section
/-! DEFINITION. The meaning of every command: one arm per constructor of `Instr`. -/

namespace Sys2Proof.Machine

/-- A command's effect on everything but the queue. -/
def exec (i : Instr) (s : State) : Host.Outcome State Fault Refusal :=
  match i with
  | .cnop x => Sys2Proof.Machine.execCnop x s
  | .cset x cnt imm => Sys2Proof.Machine.execCset x cnt imm s
  | .cjmp x tgt => Sys2Proof.Machine.execCjmp x tgt s
  | .cloop x cnt tgt => Sys2Proof.Machine.execCloop x cnt tgt s
  | .cwait x n => Sys2Proof.Machine.execCwait x n s
  | .cwaitExpiry x => Sys2Proof.Machine.execCwaitExpiry x s
  | .skipidle x midx tgt => Sys2Proof.Machine.execSkipidle x midx tgt s
  | .stepb x tgt => Sys2Proof.Machine.execStepb x tgt s
  | .cend x => Sys2Proof.Machine.execCend x s
  | .dnop x => Sys2Proof.Machine.execDnop x s
  | .dset x md sel imm => Sys2Proof.Machine.execDset x md sel imm s
  | .dreg x region rop base size => Sys2Proof.Machine.execDreg x region rop base size s
  | .dmov x src dst rowlen rows sinc dinc pace => Sys2Proof.Machine.execDmov x src dst rowlen rows sinc dinc pace s
  | .dmovx x src dst rowlen rows sinc dinc pace gcnt => Sys2Proof.Machine.execDmovx x src dst rowlen rows sinc dinc pace gcnt s
  | .dtrn x src dst hw blocks sinc dinc => Sys2Proof.Machine.execDtrn x src dst hw blocks sinc dinc s
  | .dgath x dop kind md hd layer ntok pace gcnt pin rinc stripe => Sys2Proof.Machine.execDgath x dop kind md hd layer ntok pace gcnt pin rinc stripe s
  | .mnop x => Sys2Proof.Machine.execMnop x s
  | .mload x kind fmt cb cseg ren src vlast zb => Sys2Proof.Machine.execMload x kind fmt cb cseg ren src vlast zb s
  | .mswap x => Sys2Proof.Machine.execMswap x s
  | .mstream x abank acc ren rows src => Sys2Proof.Machine.execMstream x abank acc ren rows src s
  | .mgemv x abank acc nout cb cseg bank0 loff => Sys2Proof.Machine.execMgemv x abank acc nout cb cseg bank0 loff s
  | .mdrain x bank dest zc rlast qpt csline dline => Sys2Proof.Machine.execMdrain x bank dest zc rlast qpt csline dline s
  | .mclr x banks => Sys2Proof.Machine.execMclr x banks s
  | .mcbload x cb seg0 nseg src => Sys2Proof.Machine.execMcbload x cb seg0 nseg src s
  | .vnop x => Sys2Proof.Machine.execVnop x s
  | .vcfg x cfg src => Sys2Proof.Machine.execVcfg x cfg src s
  | .vlut x seg0 nseg src => Sys2Proof.Machine.execVlut x seg0 nseg src s
  | .vrun x cfg rows mkeep aoff boff doff => Sys2Proof.Machine.execVrun x cfg rows mkeep aoff boff doff s
  | .nnop x => Sys2Proof.Machine.execNnop x s
  | .nsend x rd ch ren src nl scnt => Sys2Proof.Machine.execNsend x rd ch ren src nl scnt s
  | .nmcast x rd ch ren src nl scnt => Sys2Proof.Machine.execNmcast x rd ch ren src nl scnt s
  | .nred x rd ch ren src nl scnt => Sys2Proof.Machine.execNred x rd ch ren src nl scnt s
  | .nrecv x ch ren dst nl gcnt => Sys2Proof.Machine.execNrecv x ch ren dst nl gcnt s
  | .ngate x cnt val timeout => Sys2Proof.Machine.execNgate x cnt val timeout s
  | .gateOpen die => Sys2Proof.Machine.execGateOpen die s
  | .gateTimeout die => Sys2Proof.Machine.execGateTimeout die s
  | .arrivalWrite id b => Sys2Proof.Machine.execArrivalWrite id b s
  | .remoteAccess id b => Sys2Proof.Machine.execRemoteAccess id b s
  | .remoteResponse id b => Sys2Proof.Machine.execRemoteResponse id b s
  | .offdieSendRead x entry => Sys2Proof.Machine.execOffdieSendRead x entry s
  | .lineArrival k => Sys2Proof.Machine.execLineArrival k s
  | .sendAck k => Sys2Proof.Machine.execSendAck k s
  | .reductionCombine k => Sys2Proof.Machine.execReductionCombine k s
  | .pmRequest die k => Sys2Proof.Machine.execPmRequest die k s
  | .pmGuestRelease die k => Sys2Proof.Machine.execPmGuestRelease die k s
  | .patrolRead die stack => Sys2Proof.Machine.execPatrolRead die stack s
  | .sequencerFetch x => Sys2Proof.Machine.execSequencerFetch x s
  | .linkFrame p frame fec poison => Sys2Proof.Machine.execLinkFrame p frame fec poison s
  | .linkNak p seq => Sys2Proof.Machine.execLinkNak p seq s
  | .linkReplayTimer p => Sys2Proof.Machine.execLinkReplayTimer p s
  | .portRetrain p lanes => Sys2Proof.Machine.execPortRetrain p lanes s
  | .packetRoute k => Sys2Proof.Machine.execPacketRoute k s
  | .fabricInject k => Sys2Proof.Machine.execFabricInject k s
  | .nack k => Sys2Proof.Machine.execNack k s
  | .response k => Sys2Proof.Machine.execResponse k s
  | .transactionTimeout tag => Sys2Proof.Machine.execTransactionTimeout tag s
  | .portTrained p lanes => Sys2Proof.Machine.execPortTrained p lanes s
  | .portSignalLost p => Sys2Proof.Machine.execPortSignalLost p s
  | .portTrainRetry p lanes => Sys2Proof.Machine.execPortTrainRetry p lanes s
  | .osfpInsert twin lanes => Sys2Proof.Machine.execOsfpInsert twin lanes s
  | .join k => Sys2Proof.Machine.execJoin k s
  | .drainPoll => Sys2Proof.Machine.execDrainPoll s
  | .drainCountRequest k => Sys2Proof.Machine.execDrainCountRequest k s
  | .load k => Sys2Proof.Machine.execLoad k s
  | .loaded k => Sys2Proof.Machine.execLoaded k s
  | .handshakeDone k => Sys2Proof.Machine.execHandshakeDone k s
  | .handshakeTimeout mid => Sys2Proof.Machine.execHandshakeTimeout mid s
  | .abort k => Sys2Proof.Machine.execAbort k s
  | .bridgeFrame b dir res syms => Sys2Proof.Machine.execBridgeFrame b dir res syms s
  | .bridgeReplayTimer b dir syms => Sys2Proof.Machine.execBridgeReplayTimer b dir syms s
  | .bridgeRetrain b dir ok => Sys2Proof.Machine.execBridgeRetrain b dir ok s
  | .tickAdvance => Sys2Proof.Machine.execTickAdvance s
  | .timeSend => Sys2Proof.Machine.execTimeSend s
  | .time k => Sys2Proof.Machine.execTime k s
  | .delayExchangeTimer p => Sys2Proof.Machine.execDelayExchangeTimer p s
  | .delayReq k => Sys2Proof.Machine.execDelayReq k s
  | .delayResp k => Sys2Proof.Machine.execDelayResp k s
  | .parentTimeout => Sys2Proof.Machine.execParentTimeout s
  | .tsync => Sys2Proof.Machine.execTsync s
  | .slanes x sel midx lane dline => Sys2Proof.Machine.execSlanes x sel midx lane dline s
  | .semit x src nl pace => Sys2Proof.Machine.execSemit x src nl pace s
  | .sstop x midx lane code => Sys2Proof.Machine.execSstop x midx lane code s
  | .semitSlice k => Sys2Proof.Machine.execSemitSlice k s
  | .gauntletFeed midx lane pidx => Sys2Proof.Machine.execGauntletFeed midx lane pidx s
  | .promptFetch slot => Sys2Proof.Machine.execPromptFetch slot s
  | .promptFetchRetry slot => Sys2Proof.Machine.execPromptFetchRetry slot s
  | .parkWriteoutDone slot => Sys2Proof.Machine.execParkWriteoutDone slot s
  | .restoreReadinDone slot => Sys2Proof.Machine.execRestoreReadinDone slot s
  | .parkExpiryCheck => Sys2Proof.Machine.execParkExpiryCheck s
  | .completionEntryWrite q => Sys2Proof.Machine.execCompletionEntryWrite q s
  | .eventRecordWrite => Sys2Proof.Machine.execEventRecordWrite s
  | .msixSignalTimer ring => Sys2Proof.Machine.execMsixSignalTimer ring s
  | .hostMemoryAccessError kind index => Sys2Proof.Machine.execHostMemoryAccessError kind index s
  | .localArrival g => Sys2Proof.Machine.execLocalArrival g s
  | .arrive k => Sys2Proof.Machine.execArrive k s
  | .cut k => Sys2Proof.Machine.execCut k s
  | .frequencyChange g => Sys2Proof.Machine.execFrequencyChange g s
  | .done k => Sys2Proof.Machine.execDone k s
  | .arm k => Sys2Proof.Machine.execArm k s
  | .echoRelease g die => Sys2Proof.Machine.execEchoRelease g die s
  | .echoSlowTimer g => Sys2Proof.Machine.execEchoSlowTimer g s
  | .refMonitor ok => Sys2Proof.Machine.execRefMonitor ok s
  | .crossingDetect die xing move => Sys2Proof.Machine.execCrossingDetect die xing move s
  | .marginSample region slacks => Sys2Proof.Machine.execMarginSample region slacks s
  | .pllLockTimeout die => Sys2Proof.Machine.execPllLockTimeout die s
  | .freqApplyIdle => Sys2Proof.Machine.execFreqApplyIdle s
  | .powerMeasure pA pB vA vB => Sys2Proof.Machine.execPowerMeasure pA pB vA vB s
  | .capWindow => Sys2Proof.Machine.execCapWindow s
  | .thermalSample readings => Sys2Proof.Machine.execThermalSample readings s
  | .thermalEase => Sys2Proof.Machine.execThermalEase s
  | .coolantCheck inlet outlet flow => Sys2Proof.Machine.execCoolantCheck inlet outlet flow s
  | .regAlert src => Sys2Proof.Machine.execRegAlert src s
  | .alertEase => Sys2Proof.Machine.execAlertEase s
  | .marginEase => Sys2Proof.Machine.execMarginEase s
  | .lockClear => Sys2Proof.Machine.execLockClear s
  | .throttleAnnounce g => Sys2Proof.Machine.execThrottleAnnounce g s
  | .throttle k => Sys2Proof.Machine.execThrottle k s
  | .jobfreq k => Sys2Proof.Machine.execJobfreq k s
  | .storageGateDelay => Sys2Proof.Machine.execStorageGateDelay s
  | .pair k => Sys2Proof.Machine.execPair k s
  | .pairExchangeTimeout => Sys2Proof.Machine.execPairExchangeTimeout s
  | .entry k => Sys2Proof.Machine.execEntry k s
  | .frame k => Sys2Proof.Machine.execFrame k s
  | .pointEnd k => Sys2Proof.Machine.execPointEnd k s
  | .pointInstall g => Sys2Proof.Machine.execPointInstall g s
  | .notice k => Sys2Proof.Machine.execNotice k s
  | .forward k => Sys2Proof.Machine.execForward k s
  | .forwardReplyTimeout n => Sys2Proof.Machine.execForwardReplyTimeout n s
  | .heartbeatSend => Sys2Proof.Machine.execHeartbeatSend s
  | .heartbeat k => Sys2Proof.Machine.execHeartbeat k s
  | .heartbeatMissed => Sys2Proof.Machine.execHeartbeatMissed s
  | .depart k => Sys2Proof.Machine.execDepart k s
  | .fence k => Sys2Proof.Machine.execFence k s
  | .guestRelease k => Sys2Proof.Machine.execGuestRelease k s
  | .imageReq k io => Sys2Proof.Machine.execImageReq k io s
  | .imageChunk k => Sys2Proof.Machine.execImageChunk k s
  | .imageEnd k => Sys2Proof.Machine.execImageEnd k s
  | .twinImageTimeout => Sys2Proof.Machine.execTwinImageTimeout s
  | .identify q => Sys2Proof.Machine.execIdentify q s
  | .getConfig q io => Sys2Proof.Machine.execGetConfig q io s
  | .loadImage q io => Sys2Proof.Machine.execLoadImage q io s
  | .unloadImage q => Sys2Proof.Machine.execUnloadImage q s
  | .mapGrid q => Sys2Proof.Machine.execMapGrid q s
  | .run q => Sys2Proof.Machine.execRun q s
  | .stop q => Sys2Proof.Machine.execStop q s
  | .armEcho q => Sys2Proof.Machine.execArmEcho q s
  | .submit q => Sys2Proof.Machine.execSubmit q s
  | .cancel q => Sys2Proof.Machine.execCancel q s
  | .park q => Sys2Proof.Machine.execPark q s
  | .restore q => Sys2Proof.Machine.execRestore q s
  | .queryRequest q io => Sys2Proof.Machine.execQueryRequest q io s
  | .setPower q => Sys2Proof.Machine.execSetPower q s
  | .setJobFreq q => Sys2Proof.Machine.execSetJobFreq q s
  | .pagePoolCfg q => Sys2Proof.Machine.execPagePoolCfg q s
  | .prefixPin q => Sys2Proof.Machine.execPrefixPin q s
  | .fabricPlan q io => Sys2Proof.Machine.execFabricPlan q io s
  | .fabricStatus q io => Sys2Proof.Machine.execFabricStatus q io s
  | .epochSwitch q => Sys2Proof.Machine.execEpochSwitch q s
  | .twinCfg q => Sys2Proof.Machine.execTwinCfg q s
  | .adopt q => Sys2Proof.Machine.execAdopt q s
  | .readMem q io => Sys2Proof.Machine.execReadMem q io s
  | .writeMem q io => Sys2Proof.Machine.execWriteMem q io s
  | .getStats q io => Sys2Proof.Machine.execGetStats q io s
  | .clearStats q => Sys2Proof.Machine.execClearStats q s
  | .retire q => Sys2Proof.Machine.execRetire q s
  | .unretire q => Sys2Proof.Machine.execUnretire q s
  | .fwUpdate q io => Sys2Proof.Machine.execFwUpdate q io s
  | .inputPresent b slot board => Sys2Proof.Machine.execInputPresent b slot board s
  | .inputLost b => Sys2Proof.Machine.execInputLost b s
  | .pwrOkAssert slot board => Sys2Proof.Machine.execPwrOkAssert slot board s
  | .pwrOkDeassert => Sys2Proof.Machine.execPwrOkDeassert s
  | .perstAssert => Sys2Proof.Machine.execPerstAssert s
  | .perstDeassert slot board => Sys2Proof.Machine.execPerstDeassert slot board s
  | .resetAssert => Sys2Proof.Machine.execResetAssert s
  | .resetDeassert slot board => Sys2Proof.Machine.execResetDeassert slot board s
  | .functionLevelReset => Sys2Proof.Machine.execFunctionLevelReset s
  | .hotReset => Sys2Proof.Machine.execHotReset s
  | .fwBootTimeout => Sys2Proof.Machine.execFwBootTimeout s
  | .staggerEnd => Sys2Proof.Machine.execStaggerEnd s
  | .selfTestDone fails dies => Sys2Proof.Machine.execSelfTestDone fails dies s
  | .trainingBound => Sys2Proof.Machine.execTrainingBound s
  | .identBound io => Sys2Proof.Machine.execIdentBound io s
  | .neighbourId k io => Sys2Proof.Machine.execNeighbourId k io s
  | .noIdTimer p io => Sys2Proof.Machine.execNoIdTimer p io s
  | .tickAlignmentTimeout => Sys2Proof.Machine.execTickAlignmentTimeout s
  | .standbyPowerUp slot => Sys2Proof.Machine.execStandbyPowerUp slot s
  | .identity w pec => Sys2Proof.Machine.execIdentity w pec s
  | .debugEn w pec => Sys2Proof.Machine.execDebugEn w pec s
  | .smbStatus => Sys2Proof.Machine.execSmbStatus s
  | .smbTemp => Sys2Proof.Machine.execSmbTemp s
  | .smbPower => Sys2Proof.Machine.execSmbPower s
  | .smbCoolant => Sys2Proof.Machine.execSmbCoolant s
  | .lastoff => Sys2Proof.Machine.execLastoff s
  | .serial => Sys2Proof.Machine.execSerial s
  | .tapReset => Sys2Proof.Machine.execTapReset s
  | .extest v => Sys2Proof.Machine.execExtest v s
  | .idcode => Sys2Proof.Machine.execIdcode s
  | .samplePreload v => Sys2Proof.Machine.execSamplePreload v s
  | .bypass => Sys2Proof.Machine.execBypass s
  | .jreg v => Sys2Proof.Machine.execJreg v s
  | .jaddr v => Sys2Proof.Machine.execJaddr v s
  | .jdata v => Sys2Proof.Machine.execJdata v s
  | .debugAccess => Sys2Proof.Machine.execDebugAccess s
  | .halt scope die vtile => Sys2Proof.Machine.execHalt scope die vtile s
  | .resume scope die vtile => Sys2Proof.Machine.execResume scope die vtile s
  | .step scope die vtile => Sys2Proof.Machine.execStep scope die vtile s
  | .stepComplete die => Sys2Proof.Machine.execStepComplete die s
  | .ceMode p data => Sys2Proof.Machine.execCeMode p data s
  | .ceSqCfg n p data => Sys2Proof.Machine.execCeSqCfg n p data s
  | .ceCqCfg n p data => Sys2Proof.Machine.execCeCqCfg n p data s
  | .ceEvCfg p data => Sys2Proof.Machine.execCeEvCfg p data s
  | .ceSqTail n p data => Sys2Proof.Machine.execCeSqTail n p data s
  | .ceCqHead n p data => Sys2Proof.Machine.execCeCqHead n p data s
  | .ceEvHead p data => Sys2Proof.Machine.execCeEvHead p data s
  | .hcTblData p data => Sys2Proof.Machine.execHcTblData p data s
  | .hcTblCommit p data => Sys2Proof.Machine.execHcTblCommit p data s
  | .hcGtData p data => Sys2Proof.Machine.execHcGtData p data s
  | .hcGtCommit p data => Sys2Proof.Machine.execHcGtCommit p data s
  | .fbStageData p data => Sys2Proof.Machine.execFbStageData p data s
  | .tmTickLo => Sys2Proof.Machine.execTmTickLo s
  | .registerHalfRead word p => Sys2Proof.Machine.execRegisterHalfRead word p s
  | .ckMarginMin m p => Sys2Proof.Machine.execCkMarginMin m p s
  | .ckRegionMode p data => Sys2Proof.Machine.execCkRegionMode p data s
  | .pwCeil p data => Sys2Proof.Machine.execPwCeil p data s
  | .pwCap p data => Sys2Proof.Machine.execPwCap p data s
  | .pwTherm p data => Sys2Proof.Machine.execPwTherm p data s
  | .pwDieOff p data => Sys2Proof.Machine.execPwDieOff p data s
  | .erLogSel p data => Sys2Proof.Machine.execErLogSel p data s
  | .erLogData w p => Sys2Proof.Machine.execErLogData w p s
  | .registerWrite word p data => Sys2Proof.Machine.execRegisterWrite word p data s

end Sys2Proof.Machine
end

