-- ==== Sys2Proof/Machine/Idle.lean ====
section
/-! DEFINITION. What the block does when no command waits: one cyc of every die passes (log 5), and an epoch switch that waits
for a boundary applies once no group runs (R372); the staging of a firmware image and an orderly stop end (log 96, log 128). -/

namespace Sys2Proof.Machine

/-- An orderly stop ends: the junctions are sampled no more (Table 15-1) (log 96). -/
def stopEnd (s : State) : State :=
  if s.pw.stopping then s.modPw fun p => { p with stopping := false, temps := [], hot := [] } else s

/-- One cyc with no command waiting. -/
def idle (s : State) : State := stopEnd (fwStageEnd (applyIdle (tick s)))

/-- The command in front of the queue, with the rest. -/
def State.popCmd (s : State) : Option (Instr × State) :=
  match s.pending with
  | [] => none
  | c :: rest => some (c, { s with pending := rest })

end Sys2Proof.Machine
end

