-- ==== Sys2Proof/Machine/Step.lean ====
section
/-! DEFINITION. The step: the command in front of the queue takes effect with the queue's rest; with an empty queue one cyc
passes (log 5). -/

namespace Sys2Proof.Machine

/-- One step. -/
def step (s : State) : Host.Outcome State Fault Refusal :=
  match s.popCmd with
  | some (c, t) => exec c t
  | none => .next (idle s)

/-- The command that a word spells, put in front of the queue; the table gives no row any bits, so no word spells one. -/
def State.withFetchWord (s : State) (nbits w : Nat) : State :=
  match Sys2Proof.decodeTableWord nbits w with
  | some c => { s with pending := c :: s.pending }
  | none => s

end Sys2Proof.Machine
end

