-- ==== Sys2Proof/Safety.lean ====
section
/-! DEFINITION. The terms of the claims: what it is for a command to complete, what a frame leaves unchanged, and what a
good state is. -/

namespace Sys2Proof.Machine

/-- The command completes: it answers a next state, of which `P` holds. -/
def Completes (i : Instr) (s : State) (P : State → Prop) : Prop := ∃ t, exec i s = .next t ∧ P t

/-- The byte memories are in canonical form. -/
def State.memWf (s : State) : Bool :=
  Memory.wf s.mem.spad && Memory.wf s.mem.cav && Memory.wf s.mem.host && Memory.wf s.sv.store

/-- Nothing differs but the record of one tile. -/
def OnlyTile (k : Nat) (s t : State) : Prop := t = { s with tiles := t.tiles } ∧ ∀ j, j ≠ k → t.tile j = s.tile j

/-- Nothing differs but the record of one die. -/
def OnlyDie (d : Nat) (s t : State) : Prop := t = { s with dies := t.dies } ∧ ∀ j, j ≠ d → t.die j = s.die j

/-- Every byte of memory is the same. -/
def SameBytes (s t : State) : Prop :=
  (∀ a, mget t.mem.spad a = mget s.mem.spad a) ∧ (∀ a, mget t.mem.cav a = mget s.mem.cav a) ∧
  ∀ a, mget t.mem.host a = mget s.mem.host a

/-- The tile has a fault of a cause to report, and its die stops at the end of the cyc. -/
def Faulted (k : Nat) (c : Cause) (t : State) : Prop :=
  (t.tile k).faultNow = true ∧ (∃ f ∈ (t.tile k).faults, f.cause = c) ∧ (t.die (k / 256)).stop.atEnd = true

/-! ### Instructions under way -/

/-- The job that the bundle which issues at tile `k` leaves: over when `lat` cyc have passed. -/
def State.jobOf (s : State) (k : Nat) (slot : Slot) (lat : Nat) (w : Work) : Job :=
  ⟨slot, (s.die (k / 256)).cyc, (s.tile k).pc, (s.die (k / 256)).cyc + lat, w⟩

/-- The tile with a resource held for `occ` cyc from cyc `c` on, and a latency of `lat` noted. -/
def Tile.held (u : Tile) (c : Nat) (r : Res) (occ lat : Nat) : Tile :=
  { u with busy := tset 0 u.busy r.idx (c + occ), quietAt := max u.quietAt (c + lat) }

/-- An instruction has issued: its tile is `u` with the job, the turn of its slot is past, and nothing else differs. -/
def Issued (k : Nat) (u : Tile) (j : Job) (s t : State) : Prop :=
  t.tile k = { u with jobs := u.jobs ++ [j], passed := j.slot.rank + 1 } ∧ OnlyTile k s t

/-- One cyc of a job of tile `k` while nothing else is under way. -/
def Job.cycle (k : Nat) (a : State × Job) (c : Nat) : State × Job :=
  let s := a.1.modDie (k / 256) fun d => { d with cyc := c }
  let r := a.2.read s k c
  let w := Job.write r.1 k c [] { a.2 with work := r.2 }
  (w.1, { a.2 with work := w.2 })

/-- A job from its issue to its end while nothing else is under way. -/
def Job.run (k : Nat) (j : Job) (s : State) : State :=
  ((List.range (j.fin - j.t0)).foldl (fun a i => Job.cycle k a (j.t0 + i)) (s, j)).1

/-- No word of a scratchpad is in error, and the tile has no watchpoint. -/
def Calm (k : Nat) (s : State) : Prop := s.mem.spadErr = [] ∧ (s.tile k).wp = []

/-- The die's count of cyc, at a tile. -/
def State.cycAt (s : State) (k : Nat) : Nat := (s.die (k / 256)).cyc

/-- An instruction of a slot has issued with a latency of `lat` cyc: its tile is `u` with a job. Run to its end from any
calm state `v` while nothing else is under way, the job has the effect `E v`. -/
def Leaves (k : Nat) (slot : Slot) (u : Tile) (lat : Nat) (s t : State) (E : State → State → Prop) : Prop :=
  ∃ w, Issued k u (s.jobOf k slot lat w) s t ∧ ∀ v, Calm k v → E v ((s.jobOf k slot lat w).run k v)

/-- Of a state only tile `k`, bytes of scratchpad and the count of cyc of the tile's die differ. -/
def RanIn (k : Nat) (s t : State) : Prop :=
  t = { s with tiles := t.tiles, dies := t.dies, mem := { s.mem with spad := t.mem.spad } } ∧
  (∀ j, j ≠ k → t.tile j = s.tile j) ∧ (∀ d, d ≠ k / 256 → t.die d = s.die d) ∧
  t.die (k / 256) = { s.die (k / 256) with cyc := (t.die (k / 256)).cyc }

/-- Of a state only the matrix state of tile `k` and the count of cyc of its die differ. -/
def RanInMx (k : Nat) (s t : State) : Prop :=
  RanIn k s t ∧ t.mem = s.mem ∧ t.tile k = { s.tile k with mx := (t.tile k).mx }

/-- Byte `i` of a line source whose words lie as they do in `s`. -/
def srcAt (s : State) (k : Nat) (ren : Bool) (src i : Nat) : Nat := srcByte s k ren src (i / 8 * 8) + i % 8

/-- Byte `b` of word `j` of an end of a move that lies on the die of tile `k`. -/
def MvEnd.byteAt (s : State) (k : Nat) (e : MvEnd) (j b : Nat) : Byte :=
  match e with
  | .own ws => s.spByte k ((ws[j]?).getD 0 + b)
  | .cavern ws => s.cvByte (k / 256) ((ws[j]?).getD 0 + b)
  | .far _ => 0

/-- The words of a move stand at multiples of 8 within their spaces; none is written twice, and none that is written is
read, or lies in the code region. -/
structure MvApart (s : State) (k : Nat) (a b : MvEnd) : Prop where
  src : ∀ o ∈ a.words, o % 8 = 0 ∧ o < (if a.kind = .own then 2 ^ 20 else 2 ^ 32)
  dst : ∀ o ∈ b.words, o % 8 = 0 ∧ o < (if b.kind = .own then 2 ^ 20 else 2 ^ 32)
  once : b.words.Nodup
  inOut : a.kind = b.kind → ∀ o ∈ a.words, o ∉ b.words
  code : b.kind = .own → ∀ o ∈ b.words, ∀ i, i < 8 → s.inCode k (o + i) = false

/-- The conditions under which a DMOV raises no fault of its own (R73, R82, R86, R97). -/
structure DmovFree (s : State) (k : Nat) (a b : MoveDesc) (rows rowlen : Nat) : Prop where
  port : s.busyRes k .mvPort = false
  addrA : endAddressBad s k a (endOf s k a false rows rowlen) = false
  addrB : endAddressBad s k b (endOf s k b true rows rowlen) = false
  tileA : endNoTile s a = false
  tileB : endNoTile s b = false
  ends : endOwn s k a = true ∧ (endOwn s k b = true ∨ endCavern s k b = true) ∨
    endCavern s k a = true ∧ endOwn s k b = true
  room : b.ren = true → b.peek = false → (s.tile k).pushFails b.region (rowlen * rows * 8) = false
  data : a.ren = true → a.peek = false → (s.tile k).popFails a.region (rowlen * rows * 8) = false
  onA : endOff s k a (endOf s k a false rows rowlen) = false
  onB : endOff s k b (endOf s k b true rows rowlen) = false

/-- The work of a DTRN (R99). -/
def trnJob (a b : MoveDesc) (m blocks : Nat) : TrnJob :=
  { src := gaOff a.addr.toNat / 8 * 8, dst := gaOff b.addr.toNat / 8 * 8, srcS := a.strideB, dstS := b.strideB, m := m
    blocks := blocks }

/-- The conditions under which a DTRN raises no fault at issue (R92, R99). -/
structure DtrnFree (s : State) (k : Nat) (a b : MoveDesc) (w : TrnJob) : Prop where
  port : s.busyRes k .mvPort = false
  plain : a.ren = false ∧ b.ren = false
  formA : gaIllFormed a.addr.toNat = false
  formB : gaIllFormed b.addr.toNat = false
  ends : endOwn s k a = true ∧ endOwn s k b = true
  tileA : endNoTile s a = false
  tileB : endNoTile s b = false
  banks : ∀ i, i < w.blocks → ∀ r, r < w.m → ∀ p ∈ rowRanges (w.srcOff i r) ++ rowRanges (w.dstOff i r), s.bankOn k p.1 = true

/-- Byte `x` of destination row `r` of block `b`, and of source row `r`. -/
def TrnJob.dstByte (w : TrnJob) (b r x : Nat) : Nat := (w.dstOff b r + x) % 2 ^ 20
def TrnJob.srcByte (w : TrnJob) (b r x : Nat) : Nat := (w.srcOff b r + x) % 2 ^ 20

/-- No two bytes of destination rows are one, and none is a byte of a source row or of the code region. -/
structure TrnJob.Apart (w : TrnJob) (s : State) (k : Nat) : Prop where
  out : ∀ b r x b' r' x', b < w.blocks → r < w.m → x < 32 → b' < w.blocks → r' < w.m → x' < 32 →
    w.dstByte b r x = w.dstByte b' r' x' → b = b' ∧ r = r' ∧ x = x'
  inOut : ∀ b r x b' r' x', b < w.blocks → r < w.m → x < 32 → b' < w.blocks → r' < w.m → x' < 32 →
    w.dstByte b r x ≠ w.srcByte b' r' x'
  code : ∀ b r x, b < w.blocks → r < w.m → x < 32 → s.inCode k (w.dstByte b r x) = false

/-- The conditions under which a DMOVX between own scratchpad and a far end raises no fault (R82, R98). -/
structure DmovxFree (s : State) (k : Nat) (a b : MoveDesc) (rows rowlen : Nat) (isRead : Bool) : Prop where
  port : s.busyRes k .mvPort = false
  addrA : endAddressBad s k a (endOf s k a false rows rowlen) = false
  addrB : endAddressBad s k b (endOf s k b true rows rowlen) = false
  tileA : endNoTile s a = false
  tileB : endNoTile s b = false
  reads : isRead = true → a.ren = false ∧ endFar s k a = true ∧ endOwn s k b = true
  writes : isRead = false → (a.ren = true ∨ endFar s k a = false) ∧ b.ren = false ∧ endFar s k b = true ∧ endOwn s k a = true
  room : b.ren = true → b.peek = false → (s.tile k).pushFails b.region (rowlen * rows * 8) = false
  data : a.ren = true → a.peek = false → (s.tile k).popFails a.region (rowlen * rows * 8) = false
  onA : endOff s k a (endOf s k a false rows rowlen) = false
  onB : endOff s k b (endOf s k b true rows rowlen) = false
  peer : gaSlot (if isRead then a else b).addr.toNat = s.id.slot ∨
    s.noPeer (gaSlot (if isRead then a else b).addr.toNat) = false

/-- Beat `b` of a transaction has become `x`, and its other beats are as they were. -/
def BeatIs (t : State) (u : Txn) (b : Nat) (x : Beat) : Prop :=
  ∃ v, t.txn? u.id = some v ∧ v.beats[b]? = some x ∧ (∀ j, j ≠ b → v.beats[j]? = u.beats[j]?) ∧
    v = { u with beats := v.beats }

/-- A line source can be read: its region is enabled and holds enough. -/
structure SrcReady (s : State) (k : Nat) (ren : Bool) (src n : Nat) : Prop where
  form : srcReserved ren src = false
  enabled : srcRegionBad s k ren src = false
  holds : srcRegionEmpty s k ren src n = false

/-- The global address of the target tile of an ATOMADD. -/
def VCfg.targetGa (c : VCfg) : Nat := c.target * 2 ^ 32

/-- The conditions under which a VRUN of configuration `c` raises no fault at issue (R228, R236). -/
structure VrunFree (s : State) (k : Nat) (c : VCfg) (rows : Nat) : Prop where
  chain : s.busyRes k .vxChain = false
  legal : c.refused rows = false
  solo : c.asrc = 1 → (s.gang k).1 = 1
  reducer : c.asrc = 2 ∨ c.bsrc = 2 → (s.gang k).1 ≠ 1 ∧ s.reducer k = k
  strict : c.atom = true → s.ce.strict = false
  popA : c.asrc = 2 → ∃ e, (s.tile k).ftq.head? = some e ∧ e.readyAt ≤ (s.die (k / 256)).cyc
  openA : c.asrc = 0 → c.a.ren = true → (tget {} (s.tile k).regions c.a.region).en = true
  openB : c.bsrc = 1 → c.b.ren = true → (tget {} (s.tile k).regions c.b.region).en = true
  openD : c.wr ≠ 0 → c.d.ren = true → (tget {} (s.tile k).regions c.d.region).en = true
  near : c.atom = true → gaSlot c.targetGa = s.id.slot → s.bound (gaDie c.targetGa) (gaBlock c.targetGa) = true
  far : c.atom = true → gaSlot c.targetGa ≠ s.id.slot → s.noPeer (gaSlot c.targetGa) = false
  room : c.wr ≠ 0 → c.d.ren = true → (s.tile k).pushFails c.d.region (rows * c.cols * vecBytes c.d.fmt) = false
  dataA : c.asrc = 0 → c.a.ren = true → (s.tile k).popFails c.a.region (rows * c.cols * vecBytes c.a.fmt) = false
  dataB : c.bsrc = 1 → c.b.ren = true → rows * c.cols * vecBytes c.b.fmt +
    (if c.asrc = 0 ∧ c.a.ren = true ∧ c.a.region = c.b.region then rows * c.cols * vecBytes c.a.fmt else 0) ≤
    (s.tile k).avail c.b.region

/-- A VRUN whose every vector is read from and written to plain scratchpad, with no record, reduction or row pair, in
the common cyc of R230. -/
structure VCfg.Simple (c : VCfg) : Prop where
  src : c.asrc = 0 ∧ c.bsrc < 2 ∧ c.a.ren = false ∧ (c.bsrc = 1 → c.b.ren = false)
  out : c.wr = 1 ∧ c.d.ren = false ∧ c.owr = false
  row : c.pen = false ∧ c.red = 0 ∧ (c.qnt = 0 ∨ c.qnt = 5) ∧ c.pace2 = false

/-- Bytes of a stream's vector. -/
def Stream.covers (x : Stream) (ps : List Nat) (o : Nat) : Prop := ∃ p ∈ x.spans ps, p.1 ≤ o ∧ o < p.1 + p.2

/-- Every vector of a VRUN lies within its lines, in banks that are on; what it writes lies outside the code region, and
no byte of it is read or written by another vector. -/
structure RunJob.Apart (w : RunJob) (s : State) (k : Nat) : Prop where
  lines : ∀ j, j < w.rows * w.c.cols → w.vecBad j 0 = false ∧ w.c.d.bad (w.piecesD j) = false
  banks : ∀ o, s.bankOn k o = true
  code : ∀ j o, j < w.rows * w.c.cols → w.c.d.covers (w.piecesD j) o → s.inCode k o = false
  outs : ∀ i j o, i < w.rows * w.c.cols → j < w.rows * w.c.cols → w.c.d.covers (w.piecesD i) o →
    w.c.d.covers (w.piecesD j) o → i = j
  halves : w.c.d.fmt = 2 → w.c.d.hoff % 2 ^ 20 ≠ 0 ∧ 64 ∣ w.c.d.hoff
  ins : ∀ i j o, i < w.rows * w.c.cols → j < w.rows * w.c.cols → w.c.d.covers (w.piecesD i) o →
    ¬ w.c.a.covers (w.piecesA j) o ∧ ¬ w.c.b.covers (w.piecesB j) o ∧ ¬ w.c.w.covers (w.piecesW j) o

/-- Element `l` of vector `j` past FN, of a VRUN without records, as scratchpad stands in `s` (R211-R216). -/
def RunJob.elem (w : RunJob) (s : State) (k j l : Nat) : F32 :=
  let at_ (x : Stream) (ps : List Nat) : Nat := ((laneB x.lb (rawVec s k x.fmt ps))[l]?).getD 0
  Fp.fn (s.tile k).lut w.c.lutS w.c.lutB w.c.fnc
    (w.c.element {} (at_ w.c.a (w.piecesA j)) (if w.c.bsrc = 0 then Fp.zero else cvtRaw w.c.b.fmt (at_ w.c.b (w.piecesB j)))
      (if w.c.usesW then cvtRaw w.c.w.fmt (at_ w.c.w (w.piecesW j)) else Fp.zero))

/-- The conditions under which a send along route `r` raises no fault that its destinations do not raise (R337). -/
structure SendFree (s : State) (k : Nat) (r : Route) (ren : Bool) (src nl : Nat) : Prop where
  form : ren = true → src < 16
  port : s.busyRes k .nxSend = false
  route : r.bad = false
  enabled : ren = true → (tget {} (s.tile k).regions (src % 16)).en = true
  holds : ren = true → (s.tile k).popFails (src % 16) (64 * nl) = false

/-- Every byte address of byte ranges, in order. -/
def rangeAddrs (l : List (Nat × Nat)) : List Nat := l.flatMap fun r => (List.range r.2).map fun i => r.1 + i

/-- A tile takes arrivals at every address: it lies in the scratchpad, in a bank that is on, and outside the code region. -/
def TakesAt (s : State) (k : Nat) (l : List Nat) : Prop :=
  ∀ o ∈ l, o < 2 ^ 20 ∧ s.bankOn k o = true ∧ s.inCode k o = false

/-- Data have been stored at addresses of a tile, each byte at its own, and no other byte of scratchpad or Cavern differs. -/
def StoredAt (s t : State) (k : Nat) (l : List Nat) (data : List Byte) : Prop :=
  (l.Nodup → ∀ (b : Nat) (v : Byte) (o : Nat), data[b]? = some v → l[b]? = some o → t.spByte k o = v) ∧
  (∀ a, (∀ o ∈ l, a ≠ spKey k o) → mget t.mem.spad a = mget s.mem.spad a) ∧ t.mem.cav = s.mem.cav

/-- No tile holds work, a line or a fetch, and no line is on a mesh. -/
def State.Still (s : State) : Prop :=
  (∀ k, (s.tile k).jobs = [] ∧ (s.tile k).holding = [] ∧ (s.tile k).fetch = false) ∧ ∀ d, (s.die d).mesh = []

/-- The tile has one more send in its queue, `e`, and counts one more transaction. -/
def Queued (k : Nat) (s t : State) (e : Send) : Prop :=
  (t.tile k).sendq = (s.tile k).sendq ++ [e] ∧ (t.tile k).outst = (s.tile k).outst + 1 ∧ e.id = s.net.nextId ∧
  t.net.nextId = s.net.nextId + 1 ∧ SameBytes s t ∧ ∀ j, j ≠ k → t.tile j = s.tile j

/-- The head record of a DGATH: 16 bytes of own scratchpad (R257). -/
def State.gathHead (s : State) (k : Nat) (h : MoveDesc) : Nat := s.spNat k (gaOff h.addr.toNat % 2 ^ 20) 16

/-- KVGEO of the model that a head record names. -/
def State.gathGeo (s : State) (k : Nat) (h : MoveDesc) : Nat := (tget {} s.sv.models (bits (s.gathHead k h) 9 0)).kvgeo

/-- The conditions under which a DGATH of `n` tokens raises no fault at issue (R256-R259). -/
structure DgathFree (s : State) (k dop kind stripe : Nat) (m ms h : MoveDesc) (layer n : Nat) : Prop where
  port : s.busyRes k .mvPort = false
  head : h.ren = false ∧ endOwn s k h = true ∧ gaIllFormed h.addr.toNat = false ∧ gaOff h.addr.toNat % 16 = 0
  resident : ∃ e ∈ s.sv.models, e.1 = bits (s.gathHead k h) 9 0
  layers : kind = 0 → layer < geoLayers (s.gathGeo k h)
  records : kind = 1 → stripe = 0 ∧ layer + n ≤ 32 * geoNstate (s.gathGeo k h)
  forms : dop ≠ 3 ∧ (dop = 2 → kind = 0) ∧ (stripe = 1 → m.ren = false)
  scaleForm : kind = 0 → ms.ren = false ∧ 0 ≤ ms.stride.toInt
  scales : dop ≠ 2 → kind = 0 → endOwn s k ms = true ∧ gaIllFormed ms.addr.toNat = false
  rows : dop ≠ 2 → if m.ren = true then (tget {} (s.tile k).regions m.region).en = true
    else endOwn s k m = true ∧ gaIllFormed m.addr.toNat = false
  room : dop = 0 → m.ren = true → m.peek = false →
    (s.tile k).pushFails m.region (n * (if kind = 0 then geoLw (s.gathGeo k h) else 256)) = false
  data : dop = 1 → m.ren = true → m.peek = false →
    (s.tile k).popFails m.region (n * (if kind = 0 then geoLw (s.gathGeo k h) else 256)) = false

/-- A reference names a live frame of this module that lies within its tile's scratchpad or its die's Cavern, and that no beat
of an earlier request is still to reach (R241, R247). -/
structure LiveFrame (s : State) (r : Nat) (wr : Bool) : Prop where
  live : s.refCause r = 0
  here : s.refLocal r = true
  room : (s.frame (refDie r) (refFrame r)).off + 8192 ≤
    (if (s.frame (refDie r) (refFrame r)).loc = 2 then 2 ^ 20 else 2 ^ 32)
  idle : s.frameBusy r wr = false

/-- Code and scale frame of the one token of request `q`: its page table is read without an error, and the page manager has
the slots to read it (R242, R247, R253, R258). -/
structure TokenReady (s : State) (q : Gath) (cf sf : Nat) : Prop where
  one     : q.kind = 0 ∧ q.ntok = 1 ∧ q.present 0 = true ∧ q.pin = false
  clean   : s.mem.spadErr = [] ∧ s.mem.cavErr = []
  head    : s.refCause q.head = 0
  slots   : (takeSlots s (s.gathTables q)).isSome = true
  code    : let g := (tget {} s.sv.models q.midx).kvgeo
    s.refCause (s.tableFrame g q.head ((q.at_ g 0).cx / 2048)) = 0 ∧ s.refAt g q.head (q.at_ g 0).cx = cf
  scale   : let g := (tget {} s.sv.models q.midx).kvgeo
    s.refCause (s.tableFrame g q.head ((q.at_ g 0).sx / 2048)) = 0 ∧ s.refAt g q.head (q.at_ g 0).sx = sf
  codeIn  : LiveFrame s cf (q.dop == 1)
  scaleIn : LiveFrame s sf (q.dop == 1)

/-- Every global address that beats reach, in order, and every local one. -/
def beatGas (l : List Beat) : List Nat := l.flatMap fun b => (List.range b.len).map fun i => b.ga + i
def beatLocs (l : List Beat) : List Nat := l.flatMap fun b => (List.range b.len).map fun i => b.loc + i

/-- Global addresses of bytes [off, off + n) of a frame of this module. -/
def State.frameGas (s : State) (r off n : Nat) : List Nat := (List.range n).map fun i => s.frameGa r (off + i)

/-- Beats of one kind on their way. -/
def SentAs (op : BeatOp) (l : List Beat) : Prop := ∀ b ∈ l, b.op = op ∧ b.st = .out

/-- Command packet `c` of opcode `op` stands at the head of ring `q`, the ring served next; its header is well formed, and no
exclusive command, load or firmware update makes it E_BUSY (R475, R476, R483, R485). -/
structure CmdReady (s : State) (q : Fin 64) (op : Nat) (c : Cmd) : Prop where
  head : ∃ n, s.headPacket q.val = some (c, n)
  turn : s.nextRing = some q.val
  opcode : c.opcode = op
  form : c.length ≤ 4080 ∧ c.flags / 2 = 0 ∧ c.resv = 0
  free : s.ce.excl = none ∧ s.ce.state ≠ .loading ∧ (op = 0x00F0 → s.fw.staging = none)

/-- The packet of ring `q` has been taken and its reply, the last at the ring's completion ring, is `a` (R482). -/
def Replies (s t : State) (q : Fin 64) (c : Cmd) (a : Ans) : Prop :=
  (t.sqr q.val).busy = true ∧
  ((t.cqr (s.sqr q.val).cq).wait.getLast?).map (·.bytes) =
    some (replyBytes c.tag c.opcode a.status c.sq (t.sqr q.val).head a.detail a.result)

/-- The bytes `bs` stand in host memory at `a`, and no other byte of it has changed. -/
def HostHolds (s t : State) (a : Nat) (bs : List Byte) : Prop :=
  t.hostBytes a bs.length = bs ∧ (∀ b, b < a ∨ a + bs.length ≤ b → mget t.mem.host b = mget s.mem.host b) ∧
  t.mem = { s.mem with host := t.mem.host }

/-- Table 17-8: every command with its opcode, its lengths, its states, and whether it is exclusive. -/
def hostCommands (s : State) (q : Fin 64) (io : Bool) : List (Instr × CmdSpec) :=
  let image := ModState.image
  [(.identify q, { opcode := 0x0010, lenOk := lenIs 0, states := anyState }),
   (.getConfig q io, { opcode := 0x0011, lenOk := lenIs 16, states := anyState }),
   (.loadImage q io, { opcode := 0x0020, lenOk := lenIs 16, states := loadStates, excl := true }),
   (.unloadImage q, { opcode := 0x0021, lenOk := lenIs 0, states := (· ∈ [.loaded, .ended]), excl := true }),
   (.mapGrid q, { opcode := 0x0022, lenOk := mapLen, states := anyState, excl := true }),
   (.run q, { opcode := 0x0030, lenOk := lenIs 0, states := (· ∈ [.loaded]), excl := true }),
   (.stop q, { opcode := 0x0031, lenOk := lenIs 0, states := (· ∈ [.running, .ended]), excl := true }),
   (.armEcho q, { opcode := 0x0032, lenOk := lenIs 16, states := (· ∈ [.loaded]) })] ++
  [(.submit q, { opcode := 0x0040, lenOk := lenIs 80, states := (· ≠ .starting) }),
   (.cancel q, { opcode := 0x0041, lenOk := lenIs 8, states := image }),
   (.park q, { opcode := 0x0042, lenOk := lenIs 24, states := image }),
   (.restore q, { opcode := 0x0043, lenOk := lenIs 8, states := image }),
   (.queryRequest q io, { opcode := 0x0044, lenOk := lenIs 16, states := image }),
   (.setPower q, { opcode := 0x0050, lenOk := lenIs 8, states := anyState }),
   (.setJobFreq q, { opcode := 0x0051, lenOk := lenIs 8, states := image }),
   (.pagePoolCfg q, { opcode := 0x0060, lenOk := poolLen, states := (· ∈ [.loaded]), excl := true }),
   (.prefixPin q, { opcode := 0x0061, lenOk := lenIs 16, states := image })] ++
  [(.fabricPlan q io, { opcode := 0x0070, lenOk := lenIs 24, states := anyState, excl := s.headFull q.val }),
   (.fabricStatus q io, { opcode := 0x0071, lenOk := lenIs 16, states := anyState }),
   (.epochSwitch q, { opcode := 0x0072, lenOk := lenIs 0, states := anyState }),
   (.twinCfg q, { opcode := 0x0080, lenOk := lenIs 24, states := image }),
   (.adopt q, { opcode := 0x0081, lenOk := lenIs 0, states := image }),
   (.readMem q io, { opcode := 0x0090, lenOk := lenIs 24, states := image }),
   (.writeMem q io, { opcode := 0x0091, lenOk := lenIs 24, states := image }),
   (.getStats q io, { opcode := 0x00A0, lenOk := lenIs 24, states := image }),
   (.clearStats q, { opcode := 0x00A1, lenOk := lenIs 8, states := image }),
   (.retire q, { opcode := 0x00B0, lenOk := lenIs 8, states := anyState }),
   (.unretire q, { opcode := 0x00B1, lenOk := lenIs 8, states := anyState }),
   (.fwUpdate q io, { opcode := 0x00F0, lenOk := lenIs 16, states := anyState })]

end Sys2Proof.Machine
end

