-- ==== Sys2Proof/WellFormed.lean ====
section
/-! DEFINITION. Well-formed commands: those whose operands name something that exists and that the spec's encodings admit. The
machine gives every other command an effect too; the well-formed ones are those that the module can meet. -/

namespace Sys2Proof

open Machine

/-- The tile that an instruction names. -/
def Instr.site? : Instr → Option Site
  | .cnop x => some x
  | .cset x _ _ => some x
  | .cjmp x _ => some x
  | .cloop x _ _ => some x
  | .cwait x _ => some x
  | .cwaitExpiry x => some x
  | .skipidle x _ _ => some x
  | .stepb x _ => some x
  | .cend x => some x
  | .dnop x => some x
  | .dset x _ _ _ => some x
  | .dreg x _ _ _ _ => some x
  | .dmov x _ _ _ _ _ _ _ => some x
  | .dmovx x _ _ _ _ _ _ _ _ => some x
  | .dtrn x _ _ _ _ _ _ => some x
  | .dgath x _ _ _ _ _ _ _ _ _ _ _ => some x
  | .mnop x => some x
  | .mload x _ _ _ _ _ _ _ _ => some x
  | .mswap x => some x
  | .mstream x _ _ _ _ _ => some x
  | .mgemv x _ _ _ _ _ _ _ => some x
  | .mdrain x _ _ _ _ _ _ _ => some x
  | .mclr x _ => some x
  | .mcbload x _ _ _ _ => some x
  | .vnop x => some x
  | .vcfg x _ _ => some x
  | .vlut x _ _ _ => some x
  | .vrun x _ _ _ _ _ _ => some x
  | .nnop x => some x
  | .nsend x _ _ _ _ _ _ => some x
  | .nmcast x _ _ _ _ _ _ => some x
  | .nred x _ _ _ _ _ _ => some x
  | .nrecv x _ _ _ _ _ => some x
  | .ngate x _ _ _ => some x
  | .slanes x _ _ _ _ => some x
  | .semit x _ _ _ => some x
  | .sstop x _ _ _ => some x
  | .offdieSendRead x _ => some x
  | .sequencerFetch x => some x
  | _ => none

/-- Bytes of an access that lie within the register, aligned to their number. -/
def Part.ok : Part → Bool
  | .bytes a two => !two || a.val % 2 == 0
  | _ => true

/-- Lanes with which a port trains, or 0 when it fails (R343). -/
def lanesPossible (n : Nat) : Bool := n != 3

/-- Operands other than a tile and the fields of an encoding are in range. -/
def Instr.operandsOk : Instr → Bool
  | .portTrained _ l => lanesOk l.val
  | .portRetrain _ l => lanesPossible l.val
  | .portTrainRetry _ l => lanesPossible l.val
  | .osfpInsert _ l => lanesPossible l.val
  | .bridgeFrame _ _ _ syms => syms.length == 18
  | .bridgeReplayTimer _ _ syms => syms.length == 18
  | .marginSample r slacks => slacks.length == monitorsOf r.val
  | .crossingDetect _ _ move => decide (move ≤ 64)
  | .thermalSample l => l.all fun r => decide (r.2.1 < sensorsOf r.1)
  | .regAlert src => src.val != 0
  | .transactionTimeout tag => decide (tag < 65536)
  | .handshakeTimeout mid => decide (mid < 1024)
  | .selfTestDone fails _ => fails.all selfTested
  | .ceMode p _ => p.ok
  | .ceSqCfg _ p _ => p.ok
  | .ceCqCfg _ p _ => p.ok
  | .ceEvCfg p _ => p.ok
  | .ceSqTail _ p _ => p.ok
  | .ceCqHead _ p _ => p.ok
  | .ceEvHead p _ => p.ok
  | .hcTblData p _ => p.ok
  | .hcTblCommit p _ => p.ok
  | .hcGtData p _ => p.ok
  | .hcGtCommit p _ => p.ok
  | .fbStageData p _ => p.ok
  | .registerHalfRead _ p => p.ok
  | .ckMarginMin _ p => p.ok
  | .ckRegionMode p _ => p.ok
  | .pwCeil p _ => p.ok
  | .pwCap p _ => p.ok
  | .pwTherm p _ => p.ok
  | .pwDieOff p _ => p.ok
  | .erLogSel p _ => p.ok
  | .erLogData _ p => p.ok
  | .registerWrite _ p _ => p.ok
  | _ => true

/-- A virtual tile index below 240 (R12). -/
def Site.ok (x : Site) : Bool := decide (x.vt.val < 240)

/-- The command is well-formed. -/
def Instr.wf (i : Instr) : Bool :=
  (match i.site? with | some x => x.ok | none => true) && fieldsLegal i && i.operandsOk

end Sys2Proof
end

