-- ==== Sys2Proof/Certificates/Slice0/Obligations.lean ====
section
/-! DEFINITION. The statements for the provers. Each docstring says what its statement claims and where it comes from. -/

open Sys2Proof Sys2Proof.Machine

/-- A step runs the command in front of the queue, and every command completes. For every command c, queue rest and state
s: step of s with c in front of rest is exec of c on s with the rest as its queue, and it answers a next state: no command
of the table stops the block, whatever state it comes in. (95_what_each_step_holds.md) -/
def Obligations.StepRunsFrontCommand : Prop :=
  ∀ (c : Instr) (rest : List Instr) (s : State),
    step { s with pending := c :: rest } = exec c { s with pending := rest } ∧
    ∃ t, step { s with pending := c :: rest } = .next t ∧ exec c { s with pending := rest } = .next t

/-- No-operations change nothing, and CSET writes one counter. CNOP, DNOP, MNOP, VNOP and NNOP answer the state they
were given. Where its tile issues, CSET answers a next state in which counter CNT holds IMM; every other counter,
every other field of the tile (its fault mark among them) but the mark that the turn of its slot is past, every other tile,
memory and everything else is unchanged. (R134) -/
def Obligations.NoOperationsAndCset : Prop :=
  ∀ (x : Site) (cnt : BitVec 4) (imm : BitVec 20) (s : State),
    exec (.cnop x) s = .next s ∧ exec (.dnop x) s = .next s ∧ exec (.mnop x) s = .next s ∧
    exec (.vnop x) s = .next s ∧ exec (.nnop x) s = .next s ∧
    (s.canIssue x .ct = true → Completes (.cset x cnt imm) s fun t =>
      (∀ j, tget 0 (t.tile x.key).ctr j = if j = cnt.toNat then imm else tget 0 (s.tile x.key).ctr j) ∧
      t.tile x.key = { s.tile x.key with ctr := (t.tile x.key).ctr, passed := 1 } ∧ OnlyTile x.key s t)

/-- Control transfers are taken or fall through. In an even bundle, outside a delay slot, with an even target in the
code region: CJMP records a taken branch to TGT; SKIPIDLE does if the idle mask bit of MIDX is 1 and else changes
nothing; CLOOP changes nothing at a counter of 0, else takes 1 from it and records the branch unless it is now 0.
Nothing else changes but the mark that the turn of the slot is past. (04_program_model_and_timing.md) -/
def Obligations.ControlTransfersAreTaken : Prop :=
  ∀ (x : Site) (tgt : BitVec 13) (s : State), s.canIssue x .ct = true → (s.tile x.key).inDelay = false →
    (s.tile x.key).pc % 2 = 0 → s.badTarget x.key tgt.toNat = false →
    Completes (.cjmp x tgt) s (fun t =>
      t.tile x.key = { s.tile x.key with pend := .branch tgt.toNat, passed := 1 } ∧ OnlyTile x.key s t) ∧
    (∀ midx : BitVec 10, Completes (.skipidle x midx tgt) s (fun t =>
      if bit (s.die x.die.val).idle midx.toNat = true
      then t.tile x.key = { s.tile x.key with pend := .branch tgt.toNat, passed := 1 } ∧ OnlyTile x.key s t
      else t = s.pass x .ct)) ∧
    (∀ cnt : BitVec 4, Completes (.cloop x cnt tgt) s (fun t =>
      let c := tget 0 (s.tile x.key).ctr cnt.toNat
      if c = 0 then t = s.pass x .ct else
      (∀ j, tget 0 (t.tile x.key).ctr j = if j = cnt.toNat then c - 1 else tget 0 (s.tile x.key).ctr j) ∧
      t.tile x.key = { s.tile x.key with
        ctr := (t.tile x.key).ctr, passed := 1, pend := if c = 1 then (s.tile x.key).pend else .branch tgt.toNat } ∧
      OnlyTile x.key s t))

/-- The sequencer waits, ends a bundle and fetches. Outside a delay slot: CWAIT N records a wait of N, CWAIT 0 changes
nothing, STEPB records the step's end with its even target in the code region, and CEND records the task's end of the
tile. Nothing else changes but the mark that the turn of the slot is past. At the end of a bundle of a tile with no fault in it: after a taken transfer the bundle in
sequence issues next and the target is kept; at the end of that bundle the kept target is the bundle that issues next;
with no transfer and no kept target the next bundle in sequence issues. CWAIT N then waits 2N cyc, STEPB TGT waits for
the release with TGT as its pc, and CEND has ended the tile. CWAIT_EXPIRY at a tile that waits with 0 cyc left, on a
die that runs, makes the tile issue. SEQUENCER_FETCH at a tile that issues or waits, in an even cyc counted from its
first bundle, makes the fetch of this cyc: it reads the 64 B line that holds the bundle due two cyc on, where that lies
in the code region and no word is uncorrectable, and at the end of an odd cyc that line is the one that bundles issue
from. (04_program_model_and_timing.md, 02_tiles_and_virtual_grid.md) -/
def Obligations.SequencerGoesOn : Prop :=
  (∀ (x : Site) (s : State), s.canIssue x .ct = true → (s.tile x.key).inDelay = false →
     (∀ n : BitVec 16, Completes (.cwait x n) s (fun t =>
       if n = 0 then t = s.pass x .ct
       else t.tile x.key = { s.tile x.key with pend := .wait n.toNat, passed := 1 } ∧ OnlyTile x.key s t)) ∧
     (∀ tgt : BitVec 13, s.badTarget x.key tgt.toNat = false → Completes (.stepb x tgt) s (fun t =>
       t.tile x.key = { s.tile x.key with pend := .stepb tgt.toNat, passed := 1 } ∧ OnlyTile x.key s t)) ∧
     Completes (.cend x) s (fun t => t.tile x.key = { s.tile x.key with pend := .cend, passed := 1 } ∧ OnlyTile x.key s t)) ∧
  (∀ (t : Tile), t.faultNow = false →
     (∀ g, t.pend = .branch g →
       t.endBundle.pc = t.pc + 1 ∧ t.endBundle.branchTo = some g ∧ t.endBundle.seq = t.seq ∧
       t.endBundle.endBundle.pc = g ∧ t.endBundle.endBundle.branchTo = none) ∧
     (t.pend = .none → t.branchTo = none → t.endBundle.pc = t.pc + 1 ∧ t.endBundle.seq = t.seq) ∧
     (∀ n, t.pend = .wait n → t.branchTo = none → t.endBundle.pc = t.pc + 1 ∧ t.endBundle.seq = .waiting (2 * n)) ∧
     (∀ g, t.pend = .stepb g → t.endBundle.pc = g ∧ t.endBundle.seq = .inStepb g) ∧
     (t.pend = .cend → t.endBundle.seq = .ended)) ∧
  (∀ (x : Site) (s : State), s.bound x.die.val x.vt.val = true → (s.die x.die.val).runs = true →
     ((s.tile x.key).seq = .waiting 0 → Completes (.cwaitExpiry x) s (fun t =>
       (t.tile x.key).seq = .issuing ∧ (t.tile x.key).pc = (s.tile x.key).pc ∧ t.mem = s.mem ∧
       ∀ j, j ≠ x.key → t.tile j = s.tile j)) ∧
     ((s.tile x.key).seq = .issuing ∨ (∃ n, (s.tile x.key).seq = .waiting n) →
       ((s.die x.die.val).cyc - (s.tile x.key).origin) % 2 = 0 → Completes (.sequencerFetch x) s (fun t =>
         t.tile x.key = { s.tile x.key with fetch := true } ∧ OnlyTile x.key s t))) ∧
  (∀ (k : Nat) (s : State), (s.tile k).fetch = true →
     let b := (s.tile k).fetchIndex / 2 * 2
     let off := (s.codeRegion k).1 + 32 * b
     b < s.bundles k → (checkSp s k [(off, 64)]).2 = false →
     ((fetchLine s k).tile k).nextLine = some (b, s.spBytes k off 64) ∧ SameBytes s (fetchLine s k) ∧
     ∀ j, j ≠ k → (fetchLine s k).tile j = s.tile j) ∧
  (∀ (t : Tile) (c : Nat), t.nextLine ≠ none →
     (t.takeLine c).line = (if (c - t.origin) % 2 = 0 then t.nextLine else t.line))

/-- Instructions out of place fault or do nothing. CJMP, CLOOP, CWAIT, SKIPIDLE, STEPB and CEND in a delay slot, CJMP in
an odd bundle, and CJMP and STEPB with an odd or out-of-region target give their tile a FETCH fault to report and stop
its die at the end of the cyc; memory stays. An instruction of a slot whose tile does not issue (unbound, its die
stopped or held, its sequencer not issuing, or a later slot of the bundle has issued) answers the state it was given. This
is the model's choice (log 4, log 19).
(04_program_model_and_timing.md, 95_what_each_step_holds.md) -/
def Obligations.InstructionsOutOfPlace : Prop :=
  (∀ (x : Site) (tgt : BitVec 13) (s : State), s.canIssue x .ct = true →
     ((s.tile x.key).inDelay = true →
       ∀ i ∈ [Instr.cjmp x tgt, .cloop x 0 tgt, .cwait x 1, .skipidle x 0 tgt, .stepb x tgt, .cend x],
         Completes i s (fun t => Faulted x.key .fetch t ∧ t.mem = s.mem)) ∧
     ((s.tile x.key).pc % 2 = 1 → Completes (.cjmp x tgt) s (fun t => Faulted x.key .fetch t ∧ t.mem = s.mem)) ∧
     (s.badTarget x.key tgt.toNat = true →
       ∀ i ∈ [Instr.cjmp x tgt, .stepb x tgt], Completes i s (fun t => Faulted x.key .fetch t ∧ t.mem = s.mem))) ∧
  (∀ (i : Instr) (x : Site) (sl : Slot) (w : Nat) (s : State), i.site? = some x → encodeSlot i = some (sl, w) →
     s.canIssue x sl = false → exec i s = .next s)

/-- DSET writes one field of one move descriptor. Where its tile issues: SEL 0 replaces ADDR[31:0], SEL 1 ADDR[47:32],
SEL 2 STRIDE, SEL 3 RCTL, and SEL 4 adds the sign-extended immediate to ADDR; the descriptor's other fields, the other
descriptors, the other fields of the tile but the mark that the turn of the slot is past, and everything else stay. SEL 5 to 7 faults with ENCODING.
(03_memory_and_regions.md) -/
def Obligations.DsetWritesOneField : Prop :=
  ∀ (x : Site) (md : BitVec 5) (sel : BitVec 3) (imm : BitVec 32) (s : State), s.canIssue x .mv = true →
    let m := tget {} (s.tile x.key).md md.toNat
    (sel.toNat ≤ 4 → Completes (.dset x md sel imm) s (fun t =>
      let m' := tget {} (t.tile x.key).md md.toNat
      m'.addr.toNat = (if sel = 0 then m.addr.toNat / 2 ^ 32 * 2 ^ 32 + imm.toNat
        else if sel = 1 then imm.toNat % 2 ^ 16 * 2 ^ 32 + m.addr.toNat % 2 ^ 32
        else if sel = 4 then (m.addr + imm.signExtend 48).toNat else m.addr.toNat) ∧
      m'.stride = (if sel = 2 then imm.setWidth 24 else m.stride) ∧
      m'.rctl = (if sel = 3 then imm.setWidth 6 else m.rctl) ∧
      (∀ j, j ≠ md.toNat → tget {} (t.tile x.key).md j = tget {} (s.tile x.key).md j) ∧
      t.tile x.key = { s.tile x.key with md := (t.tile x.key).md, passed := 2 } ∧ OnlyTile x.key s t)) ∧
    (4 < sel.toNat → Completes (.dset x md sel imm) s (fun t => Faulted x.key .encoding t ∧ t.mem = s.mem))

/-- DREG sets up, empties or closes a region. Where its tile issues: ROP 0 with SIZE 0 only has its turn past, with BASE +
SIZE within the 16,384 lines opens the region empty at BASE lines with SIZE lines, and past them faults with ADDRESS;
ROP 1 empties it and ROP 2 closes it, with BASE and SIZE 0; a reserved form faults with ENCODING. The new state is
there at the end of the cyc of issue, and only the named region of the tile has changed. (03_memory_and_regions.md) -/
def Obligations.DregSetsOneRegion : Prop :=
  ∀ (x : Site) (r : BitVec 4) (rop : BitVec 2) (base size : BitVec 14) (s : State), s.canIssue x .mv = true →
    let k := x.key
    let Sets (i : Instr) (f : Region → Region) : Prop := Completes i s fun t =>
      Leaves k .mv (s.tile k) 1 s t fun v v' =>
        (∀ j, tget {} (v'.tile k).regions j =
          if j = r.toNat then f (tget {} (v.tile k).regions j) else tget {} (v.tile k).regions j) ∧
        v'.tile k = { v.tile k with regions := (v'.tile k).regions } ∧ RanIn k v v' ∧ v'.mem = v.mem
    (exec (.dreg x r 0 base 0) s = .next (s.pass x .mv)) ∧
    (size ≠ 0 → base.toNat + size.toNat ≤ 16384 → Sets (.dreg x r 0 base size) fun _ =>
      { en := true, base := base.toNat * 64, size := size.toNat * 64, head := 0, tail := 0, fill := 0 }) ∧
    Sets (.dreg x r 1 0 0) (fun g => { g with head := 0, tail := 0, fill := 0 }) ∧
    Sets (.dreg x r 2 0 0) (fun g => { g with en := false }) ∧
    (size ≠ 0 → 16384 < base.toNat + size.toNat →
      Completes (.dreg x r 0 base size) s (fun t => Faulted k .address t ∧ t.mem = s.mem)) ∧
    (rop = 3 ∨ rop ≠ 0 ∧ (base ≠ 0 ∨ size ≠ 0) →
      Completes (.dreg x r rop base size) s (fun t => Faulted k .encoding t ∧ t.mem = s.mem))

/-- DMOV copies words between scratchpad and the die's Cavern. A DMOV of at least one word that no check refuses issues:
its regions and its descriptors step, the MV port is held for the occupancy of its beats, and its job takes that and the
path latency. Run by itself, with the banks on and, for a Cavern end, within the beat budget and with no word in error,
the job has copied every word, with the words of both ends apart: each byte of a destination word is what the source
word held; every other byte of scratchpad, Cavern and host memory, every tile and every other die are as they were.
(03_memory_and_regions.md) -/
def Obligations.DmovCopiesWords : Prop :=
  ∀ (x : Site) (src dst : BitVec 5) (rowlen : BitVec 11) (rows : BitVec 12) (sinc dinc : BitVec 1) (pace : BitVec 6)
    (s : State), s.canIssue x .mv = true → pace.toNat ≤ 32 → rowlen ≠ 0 → rows ≠ 0 →
    let k := x.key
    let a := tget {} (s.tile k).md src.toNat
    let b := tget {} (s.tile k).md dst.toNat
    let ea := endOf s k a false rows.toNat rowlen.toNat
    let eb := endOf s k b true rows.toNat rowlen.toNat
    DmovFree s k a b rows.toNat rowlen.toNat →
    let w : MoveJob := {
      src := ea.kind, dst := eb.kind, pace := paceOf pace.toNat (endSlow k ea || endSlow k eb)
      beats := beatList rowlen.toNat (if endCavern s k b then eb.words else ea.words) ea.words eb.words }
    let lat := w.occupancy - 1 + pathLatency s k ea eb
    let s1 := applyIncs (applyRegions s k a b (rowlen.toNat * rows.toNat * 8)) k src.toNat dst.toNat (sinc = 1)
      (dinc = 1) rows.toNat
    Completes (.dmov x src dst rowlen rows sinc dinc pace) s fun t =>
      Leaves k .mv ((s1.tile k).held (s.cycAt k) .mvPort w.occupancy lat) lat s t fun v v' =>
        v.tp2 = s.tp2 → (∀ o, v.bankOn k o = true) → MvApart v k ea eb →
        (ea.kind = .cavern ∨ eb.kind = .cavern → w.pace ≤ 16 ∧ (v.die (k / 256)).beats = [] ∧ v.mem.cavErr = []) →
        (∀ j i, j < rowlen.toNat * rows.toNat → i < 8 → eb.byteAt v' k j i = ea.byteAt v k j i) ∧
        (∀ key, (eb.kind = .own → ∀ o ∈ eb.words, key < spKey k o ∨ spKey k o + 8 ≤ key) →
          mget v'.mem.spad key = mget v.mem.spad key) ∧
        (∀ key, (eb.kind = .cavern → ∀ o ∈ eb.words, key < cvKey (k / 256) o ∨ cvKey (k / 256) o + 8 ≤ key) →
          mget v'.mem.cav key = mget v.mem.cav key) ∧
        v' = { v with dies := v'.dies, mem := { v.mem with spad := v'.mem.spad, cav := v'.mem.cav } } ∧
        ∀ d, d ≠ k / 256 → v'.die d = v.die d

/-- DTRN transposes elements within own scratchpad. A DTRN of at least one block that no check refuses issues: its
descriptors step, the MV port is held 16 or 8 cyc a block. Run by itself, with the banks on and no written byte read,
written again or in the code region, its job has put element (r, i) of each block at row i, place r, of the
destination; every other byte of scratchpad and everything else is as it was. (03_memory_and_regions.md) -/
def Obligations.DtrnTransposes : Prop :=
  ∀ (x : Site) (src dst : BitVec 5) (hw : BitVec 1) (blocks : BitVec 12) (sinc dinc : BitVec 1) (s : State),
    s.canIssue x .mv = true → blocks ≠ 0 →
    let k := x.key
    let n := blocks.toNat
    let a := tget {} (s.tile k).md src.toNat
    let b := tget {} (s.tile k).md dst.toNat
    let m := if hw = 0 then 32 else 16
    let e := if hw = 0 then 1 else 2
    let w := trnJob a b m n
    DtrnFree s k a b w →
    let occ := m / 2 * n
    let stepS (j : Nat) (d : MoveDesc) : MoveDesc :=
      if sinc = 1 ∧ j = src.toNat then { d with addr := d.addr + BitVec.ofNat 48 (32 * n) } else d
    let stepD (j : Nat) (d : MoveDesc) : MoveDesc :=
      if dinc = 1 ∧ j = dst.toNat then { d with addr := d.addr + BitVec.ofInt 48 (((n * m : Nat) : Int) * d.strideB) } else d
    Completes (.dtrn x src dst hw blocks sinc dinc) s fun t =>
      (∀ j, tget {} (t.tile k).md j = stepD j (stepS j (tget {} (s.tile k).md j))) ∧
      Leaves k .mv ({ s.tile k with md := (t.tile k).md }.held (s.cycAt k) .mvPort occ (occ + m / 2 + 1)) (occ + m / 2 + 1)
        s t fun v v' =>
        (∀ o, v.bankOn k o = true) → w.Apart v k →
        (∀ c r i y, c < n → r < m → i < m → y < e →
          v'.spByte k (w.dstByte c i (e * r + y)) = v.spByte k (w.srcByte c r (e * i + y))) ∧
        (∀ key, (∀ c i y, c < n → i < m → y < 32 → key ≠ spKey k (w.dstByte c i y)) →
          mget v'.mem.spad key = mget v.mem.spad key) ∧
        RanIn k v v' ∧ v'.tile k = v.tile k

/-- DMOVX opens one outstanding transaction and issues its beats. A DMOVX of at least one word that no check refuses
issues: a transaction of the tile with the next number and no beats is outstanding, the tile counts one more, and no
byte of memory has changed. Run by itself with the banks on, where the far end lies on this module, its job closes the
transaction with one word of the far end for each word of the move, in order: of a write they carry the bytes of the
source words, of a read they name the destination words; no memory has changed yet. (03_memory_and_regions.md) -/
def Obligations.DmovxStartsTransaction : Prop :=
  ∀ (x : Site) (src dst : BitVec 5) (rowlen : BitVec 11) (rows : BitVec 12) (sinc dinc : BitVec 1) (pace : BitVec 6)
    (gcnt : BitVec 5) (isRead : Bool) (s : State), s.canIssue x .mv = true → pace.toNat ≤ 32 → rowlen ≠ 0 → rows ≠ 0 →
    let k := x.key
    let a := tget {} (s.tile k).md src.toNat
    let b := tget {} (s.tile k).md dst.toNat
    let far := (if isRead then a else b).addr.toNat
    let near := (endOf s k (if isRead then b else a) isRead rows.toNat rowlen.toNat).words
    let away := (endOf s k (if isRead then a else b) (!isRead) rows.toNat rowlen.toNat).words
    DmovxFree s k a b rows.toNat rowlen.toNat isRead →
    let s1 := applyIncs (applyRegions s k a b (rowlen.toNat * rows.toNat * 8)) k src.toNat dst.toNat (sinc = 1)
      (dinc = 1) rows.toNat
    Completes (.dmovx x src dst rowlen rows sinc dinc pace gcnt) s fun t =>
      ∃ (u : Txn) (w : Work),
        let p := moveOccupancy (beatList rowlen.toNat (if isRead = true ∨ gaSpace far = 1 then away else near) away away).length (paceOf pace.toNat (gaSpace far == 1))
        let j := s.jobOf k .mv p w
        u.id = s.net.nextId ∧ u.from_ = .tile x ∧ u.node = x.die.val ∧ u.bundle = (s.tile k).pc ∧ u.beats = [] ∧ u.more = true ∧
        (isRead = true ∨ gaSpace far ≠ 0 → u.landCnt = none ∧ u.ackCnt = gcnt.toNat) ∧
        (isRead = false → gaSpace far = 0 → u.landCnt = some (gaDie far * 256 + gaBlock far, gcnt.toNat) ∧ u.ackCnt = 0) ∧
        t.net = { s.net with txns := s.net.txns ++ [u], nextId := s.net.nextId + 1 } ∧
        t.tile k = { (s1.tile k).held (s.cycAt k) .mvPort p p with
          jobs := (s.tile k).jobs ++ [j], outst := (s.tile k).outst + 1, passed := 2 } ∧
        t = { s with tiles := t.tiles, net := t.net } ∧ (∀ i, i ≠ k → t.tile i = s.tile i) ∧
        ∀ v, Calm k v → (∀ o, v.bankOn k o = true) → v.txn? u.id = some u → gaSlot far = v.id.slot →
          ∃ u', (j.run k v).txn? u.id = some u' ∧ u' = { u with beats := u'.beats, more := false } ∧
            (u'.beats.flatMap fun y => (List.range (y.len / 8)).map fun i => y.ga + 8 * i) = away.map (gaWithOff far) ∧
            (u'.beats.flatMap fun y => (List.range (y.len / 8)).map fun i => y.loc + 8 * i) = near ∧
            (∀ y ∈ u'.beats, y.st = .out ∧ y.op = if isRead then .read else .write) ∧
            (isRead = false → (u'.beats.flatMap (·.data)) = near.flatMap (fun o => v.spBytes k o 8)) ∧
            (j.run k v).mem = v.mem

/-- Beats reach their targets and their answers come back. For beat b of a transaction of a tile, on its way to this
module: ARRIVAL_WRITE of a write to a bound tile with its banks on, outside the code region and within the scratchpad,
stores its data; REMOTE_ACCESS of a write to named Cavern that is on stores its data, and of a read of it, or of a bound
tile with its bank on, carries back what was there when no word is uncorrectable; the beat is then answered with no fault.
REMOTE_RESPONSE of a clean read that is not the last beat stores its data at the issuer and closes the beat; of a clean
write that is the last beat open, it ends the transaction and takes 1 from the tile's outstanding count. Each leaves every
other byte of scratchpad and Cavern. Each acts where every bridge of the route carries traffic, no scheduled access has
the banks and no other beat the slot of Cavern that it needs, and no earlier beat of the transaction is still to land in
the line it writes; a beat that lacks one of these waits, and nothing changes. (03_memory_and_regions.md,
11_package_network.md, 95_what_each_step_holds.md) -/
def Obligations.BeatsLandAndReturn : Prop :=
  ∀ (s : State) (u : Txn) (x : Site) (b : Nat) (bt : Beat), s.txn? u.id = some u → u.from_ = .tile x →
    u.beats[b]? = some bt →
    let k := gaDie bt.ga * 256 + gaBlock bt.ga
    let o := gaOff bt.ga
    let d := gaDie bt.ga
    let takesAll (k o : Nat) : Prop :=
      o + bt.data.length ≤ 2 ^ 20 ∧ ∀ i, i < bt.data.length → s.bankOn k (o + i) = true ∧ s.inCode k (o + i) = false
    let stored (t : State) (k o : Nat) : Prop :=
      (∀ i v, bt.data[i]? = some v → t.spByte k (o + i) = v) ∧
      (∀ a, ¬ (spKey k o ≤ a ∧ a < spKey k o + bt.data.length) → mget t.mem.spad a = mget s.mem.spad a) ∧
      t.mem.cav = s.mem.cav
    let carried (t : State) (bs : List Byte) : Prop :=
      BeatIs t u b { bt with data := bs, poison := false, st := .back 0 } ∧ SameBytes s t
    (bt.st = .out → bt.op = .write → gaSlot bt.ga = s.id.slot → gaSpace bt.ga = 0 →
      (s.rangeTaken k o bt.len = true ∨ s.pathUp u.node d = false ∨ u.waitsFor b bt = true →
        exec (.arrivalWrite u.id b) s = .next s) ∧
      (s.bound (k / 256) (k % 256) = true → takesAll k o → s.rangeTaken k o bt.len = false → s.pathUp u.node d = true →
        u.waitsFor b bt = false → Completes (.arrivalWrite u.id b) s (fun t =>
          BeatIs t u b { bt with st := .back 0 } ∧ stored t k o))) ∧
    (bt.st = .out → gaSlot bt.ga = s.id.slot → gaSpace bt.ga = 1 →
      (spareBeat s d o (bt.op != .read) = none ∨ s.pathUp u.node d = false ∨ u.waitsFor b bt = true →
        exec (.remoteAccess u.id b) s = .next s) ∧
      (s.subNamed d o = true → s.subOn d o = true → (spareBeat s d o (bt.op != .read)).isSome = true →
        s.pathUp u.node d = true → u.waitsFor b bt = false →
        (bt.op = .write → o + bt.data.length ≤ 2 ^ 32 → Completes (.remoteAccess u.id b) s (fun t =>
          BeatIs t u b { bt with st := .back 0 } ∧ (∀ i v, bt.data[i]? = some v → t.cvByte d (o + i) = v) ∧
          (∀ a, ¬ (cvKey d o ≤ a ∧ a < cvKey d o + bt.data.length) → mget t.mem.cav a = mget s.mem.cav a) ∧
          t.mem.spad = s.mem.spad)) ∧
        (bt.op = .read → (checkCv s d [(o, bt.len)]).2 = false → Completes (.remoteAccess u.id b) s (fun t =>
          carried t (s.cvBytes d o bt.len))))) ∧
    (bt.st = .out → bt.op = .read → gaSlot bt.ga = s.id.slot → gaSpace bt.ga = 0 → s.bound d (gaBlock bt.ga) = true →
      s.bankOn k o = true → (checkSp s k [(o, bt.len)]).2 = false → s.rangeTaken k o bt.len = false →
      s.pathUp u.node d = true → Completes (.remoteAccess u.id b) s (fun t => carried t (s.spBytes k o bt.len))) ∧
    (bt.st = .back 0 → bt.op = .read → (∃ j y, j ≠ b ∧ u.beats[j]? = some y ∧ y.st ≠ .done) →
      (s.rangeTaken x.key bt.loc bt.data.length = true ∨ s.pathUp (s.farNode bt.ga) x.die.val = false →
        exec (.remoteResponse u.id b) s = .next s) ∧
      (takesAll x.key bt.loc → s.rangeTaken x.key bt.loc bt.data.length = false →
        s.pathUp (s.farNode bt.ga) x.die.val = true → Completes (.remoteResponse u.id b) s (fun t =>
          BeatIs t u b { bt with st := .done } ∧ stored t x.key bt.loc))) ∧
    (bt.st = .back 0 → bt.op = .write → u.more = false → (∀ j y, j ≠ b → u.beats[j]? = some y → y.st = .done) →
      s.pathUp (s.farNode bt.ga) x.die.val = true → s.tooSoon x u = false →
      Completes (.remoteResponse u.id b) s (fun t =>
        t.txn? u.id = none ∧ (t.tile x.key).outst = (s.tile x.key).outst - 1 ∧ SameBytes s t))

/-- The patrol reads on and repairs. PATROL_READ moves the stack's patrol position on by one word, modulo 2^27, and
changes no byte of memory. In a sub-array that is on, it clears a single-bit error of the word; an uncorrectable word
is poisoned in place and ECC_UE, code 0x14, waits last among the events once the event ring has been enabled.
(03_memory_and_regions.md) -/
def Obligations.PatrolReadsOn : Prop :=
  ∀ (d : Fin 8) (st : Fin 4) (s : State),
    let i := d.val * 4 + st.val
    let w := tget 0 s.mem.patrol i
    let off := st.val * 2 ^ 30 + 8 * w
    let key := cvKey d.val off / 8
    Completes (.patrolRead d st) s (fun t =>
      tget 0 t.mem.patrol i = (w + 1) % 2 ^ 27 ∧ (∀ j, j ≠ i → tget 0 t.mem.patrol j = tget 0 s.mem.patrol j) ∧
      SameBytes s t ∧ t.tiles = s.tiles ∧ t.dies = s.dies ∧
      (s.subOn d.val off = true → s.cavErrAt key = some .single → t.cavErrAt key = none) ∧
      (s.subOn d.val off = true → (s.cavErrAt key = some .double ∨ s.cavErrAt key = some .poisoned) →
        t.cavErrAt key = some .poisoned ∧
        (s.ce.ev.opened = true → ∃ r, t.ce.ev.wait.getLast? = some r ∧ r.code = 0x14)))

/-- MLOAD fills the shadow plane or the zero points. Where no check refuses it, its source region steps, the load port is
held one cyc a line, and its job takes one cyc more. Run by itself with the banks of its source on: KIND 0 has tagged
the shadow plane as weights and expanded every byte of 1,024 through the codebook, one weight a byte for W8 and two a
byte, low nibble first, for W4; KIND 1 has tagged it as an activation set of VLAST and stored its bytes; KIND 2 has
stored 32 bytes as ZP0, ZP1 or both. The active plane, the accumulators, the codebooks, every memory byte and
everything outside the tile's matrix state are unchanged. (05_matrix_engine.md) -/
def Obligations.MloadFillsShadow : Prop :=
  ∀ (x : Site) (kind : BitVec 2) (fmt : BitVec 1) (cb : BitVec 2) (cseg : BitVec 4) (ren : BitVec 1)
    (src : BitVec 14) (vlast : BitVec 5) (zb : BitVec 2) (s : State), s.canIssue x .mx = true →
    kind ≠ 3 → (kind = 2 → fmt = 0 ∧ zb ≠ 0) → (kind ≠ 0 → cb = 0) → (kind ≠ 0 ∨ fmt = 0 → cseg = 0) →
    (kind ≠ 1 → vlast = 0) → (kind ≠ 2 → zb = 0) → s.busyRes x.key .mxLoad = false →
    let k := x.key
    let n := mloadLines kind.toNat fmt.toNat
    let rn := ren == 1
    SrcReady s k rn src.toNat (n * 64) →
    Completes (.mload x kind fmt cb cseg ren src vlast zb) s fun t =>
      Leaves k .mx (((srcPop s k rn src.toNat (n * 64)).tile k).held (s.cycAt k) .mxLoad n (n + 1)) (n + 1) s t fun v v' =>
        let m := (v.tile k).mx
        let m' := (v'.tile k).mx
        let byte (i : Nat) : Byte := v.spByte k (srcAt s k rn src.toNat i)
        (∀ i, i < n * 64 → v.bankOn k (srcAt s k rn src.toNat i) = true) →
        (kind = 0 → m'.shadow.kind = false ∧ m'.shadow.fmt = (fmt == 1) ∧ m'.shadow.vlast = 0 ∧
          m'.shadow.set = m.shadow.set ∧ ∀ i j, i < 32 → j < 32 →
            (fmt = 0 → tget 0 m'.shadow.w (32 * i + j) = m.cbval cb.toNat (byte (32 * i + j)).toNat) ∧
            (fmt = 1 →
              tget 0 m'.shadow.w (32 * (2 * i) + j) =
                m.cbval cb.toNat (16 * cseg.toNat + (byte (32 * i + j)).toNat % 16) ∧
              tget 0 m'.shadow.w (32 * (2 * i + 1) + j) =
                m.cbval cb.toNat (16 * cseg.toNat + (byte (32 * i + j)).toNat / 16))) ∧
        (kind = 1 → m'.shadow.kind = true ∧ m'.shadow.fmt = (fmt == 1) ∧ m'.shadow.vlast = vlast.toNat ∧
          m'.shadow.w = m.shadow.w ∧ ∀ i, i < n * 64 → tget 0 m'.shadow.set i = byte i) ∧
        (kind = 2 → m'.shadow = m.shadow ∧ ∀ i, i < 32 →
          tget 0 m'.zp i = (if bit zb.toNat 0 then byte i else tget 0 m.zp i) ∧
          tget 0 m'.zp (32 + i) = (if bit zb.toNat 1 then byte i else tget 0 m.zp (32 + i))) ∧
        (kind ≠ 2 → m'.zp = m.zp) ∧
        m' = { m with shadow := m'.shadow, zp := m'.zp } ∧ RanInMx k v v'

/-- MSWAP exchanges the planes, MCLR clears banks, MCBLOAD loads codebook segments. Where no check refuses them each
issues and leaves a job. Run by itself, that of MSWAP has exchanged active and shadow plane with their tags at the end
of its cyc; that of MCLR has made every sum of the banks of its mask 0 and left the other bank; that of MCBLOAD, with
its banks on, has written entry j of the segments it loads, from the halfword of its place, into the codebook, segments
modulo 16, the last one to reach an entry standing. MCLR with mask 0 and MCBLOAD with NSEG 0 only have their turn past. No memory
byte and nothing outside the tile's matrix state changes. (05_matrix_engine.md) -/
def Obligations.MatrixStateIsLoadedAndSwapped : Prop :=
  ∀ (x : Site) (s : State), s.canIssue x .mx = true →
    let k := x.key
    let mx (u : State) : Mx := (u.tile k).mx
    let c := s.cycAt k
    Completes (.mswap x) s (fun t => Leaves k .mx ((s.tile k).held c .mxSwap 1 1) 1 s t fun v v' =>
      mx v' = { mx v with active := (mx v).shadow, shadow := (mx v).active } ∧ RanInMx k v v') ∧
    (s.busyRes k .mxRead = false → ∀ banks : BitVec 2, banks ≠ 0 → Completes (.mclr x banks) s fun t =>
      Leaves k .mx ((s.tile k).held c .mxRead 1 1) 1 s t fun v v' =>
        (∀ i, tget 0 (mx v').acc i = if bit banks.toNat (i / 1024) then 0 else tget 0 (mx v).acc i) ∧
        mx v' = { mx v with acc := (mx v').acc } ∧ RanInMx k v v') ∧
    (s.busyRes k .mxRead = false → exec (.mclr x 0) s = .next (s.pass x .mx)) ∧
    (s.busyRes k .mxLoad = false → ∀ cb seg0 src, exec (.mcbload x cb seg0 0 src) s = .next (s.pass x .mx)) ∧
    (∀ (cb : BitVec 2) (seg0 : BitVec 4) (nseg : BitVec 5) (src : BitVec 14), nseg ≠ 0 →
      s.busyRes k .mxLoad = false →
      let n := (nseg.toNat + 1) / 2
      Completes (.mcbload x cb seg0 nseg src) s fun t =>
        Leaves k .mx ((s.tile k).held c .mxLoad n (n + 1)) (n + 1) s t fun v v' =>
          (∀ i, i < n → v.bankOn k ((src.toNat + i) % 16384 * 64) = true) →
          (∀ j, j < 16 * nseg.toNat → 16 * nseg.toNat ≤ j + 256 →
            tget 0 (mx v').cb (cb.toNat * 256 + 16 * ((seg0.toNat + j / 16) % 16) + j % 16) =
              BitVec.ofNat 10 (v.spNat k ((src.toNat * 64 + 32 * (j / 16) + 2 * (j % 16)) % 2 ^ 20) 2)) ∧
          (∀ i, (i < cb.toNat * 256 ∨ cb.toNat * 256 + 256 ≤ i) → tget 0 (mx v').cb i = tget 0 (mx v).cb i) ∧
          mx v' = { mx v with cb := (mx v').cb } ∧ RanInMx k v v')

/-- MSTREAM and MGEMV accumulate. Where no check refuses them they issue: the ramp has taken their entries, the entry
port is held up to the last of them, and the job takes 63 cyc more. Run by itself with its banks on and the active
plane of its issue, each sum that the pass reaches last has become the 40-bit sum of the product and, with ACC, of what
it held (for a pass that reaches it once): MSTREAM for row i and column c the dot product of activation row i with
column c of the active weights, MGEMV for vector i and output n the dot product with weight record n. Sums of no row or
output of the pass, all memory bytes and everything outside the sums are unchanged. ROWS 0 and NOUT 0 only have their turn past.
(05_matrix_engine.md) -/
def Obligations.MatrixPassesAccumulate : Prop :=
  ∀ (x : Site) (abank acc : BitVec 1) (s : State), s.canIssue x .mx = true → s.busyRes x.key .mxEntry = false →
    let k := x.key
    let m := (s.tile k).mx
    let c0 := s.cycAt k
    let mx (u : State) : Mx := (u.tile k).mx
    let bank (i : Nat) : Nat := (abank.toNat + i / 32) % 2
    let old (v : State) (key : Nat) : Int := if acc = 1 then tget 0 (mx v).acc key else 0
    let Passes (i : Instr) (u : Tile) (n : Nat) (E : State → State → Prop) : Prop := Completes i s fun t =>
      let r := m.runEntries c0 n
      Leaves k .mx ({ u with mx := r.1 }.held c0 .mxEntry (r.2 + 1) (r.2 + 64)) (r.2 + 64) s t fun v v' =>
        (mx v).active = m.active →
        E v v' ∧ mx v' = { mx v with acc := (mx v').acc } ∧ RanInMx k v v'
    (∀ (ren : BitVec 1) (rows : BitVec 20) (src : BitVec 14), rows ≠ 0 → m.active.kind = false →
      let e := if m.active.fmt then 64 else 32
      let place (i : Nat) : Nat := srcAt s k (ren == 1) src.toNat i
      SrcReady s k (ren == 1) src.toNat (rows.toNat * e) →
      Passes (.mstream x abank acc ren rows src) ((srcPop s k (ren == 1) src.toNat (rows.toNat * e)).tile k) rows.toNat
        fun v v' => (∀ i, i < rows.toNat * e → v.bankOn k (place i) = true) →
          (∀ i c, i < rows.toNat → rows.toNat ≤ i + 64 → c < 32 → (acc = 0 ∨ rows.toNat ≤ 64) →
            tget 0 (mx v').acc (1024 * bank i + 32 * (i % 32) + c) =
              add40 (rowDot m.active.w ((List.range e).map fun y => v.spByte k (place (i * e + y))) c)
                (old v (1024 * bank i + 32 * (i % 32) + c))) ∧
          (∀ key, (∀ i c, i < rows.toNat → c < 32 → key ≠ 1024 * bank i + 32 * (i % 32) + c) →
            tget 0 (mx v').acc key = tget 0 (mx v).acc key)) ∧
    (∀ (nout : BitVec 7) (cb : BitVec 2) (cseg bank0 : BitVec 4) (loff : BitVec 10), nout ≠ 0 → m.active.kind = true →
      (m.active.fmt = false → cseg = 0) →
      let l := m.active.vlast + 1
      let ranges (n : Nat) : List (Nat × Nat) := recordRanges (groupsOf l) bank0.toNat loff.toNat n
      Passes (.mgemv x abank acc nout cb cseg bank0 loff) (s.tile k) nout.toNat
        fun v v' => (∀ n, n < nout.toNat → ∀ r ∈ ranges n, v.bankOn k r.1 = true) →
          (l ≤ 32 → ∀ n i, n < nout.toNat → nout.toNat ≤ n + 64 → i < l → (acc = 0 ∨ nout.toNat ≤ 64) →
            tget 0 (mx v').acc (1024 * bank n + 32 * i + n % 32) =
              add40 (recordDot m.active i (recordWeights (mx v) m.active.fmt cb.toNat cseg.toNat
                ((ranges n).flatMap (fun r => v.spBytes k r.1 r.2))))
                (old v (1024 * bank n + 32 * i + n % 32))) ∧
          (∀ key, (∀ n i, n < nout.toNat → i < l → key ≠ 1024 * bank n + 32 * i + n % 32) →
            tget 0 (mx v').acc key = tget 0 (mx v).acc key)) ∧
    (∀ ren src, srcReserved (ren == 1) src.toNat = false → exec (.mstream x abank acc ren 0 src) s = .next (s.pass x .mx)) ∧
    (∀ cb cseg bank0 loff, exec (.mgemv x abank acc 0 cb cseg bank0 loff) s = .next (s.pass x .mx))

/-- MDRAIN saturates a bank and delivers it. Where no check refuses it, it latches the sums and the zero points, holds
the read port 2 or 64 cyc, and for DEST 1, in a gang whose reducer's FTQ has room, the gang link, and reserves an entry
of that FTQ under the tile's member index. The values are the latched sums of rows up to RLAST, with ZC less zero point
times column sum, saturated to 32 bits. Run by itself with its banks on, the job of DEST 0 has written them into the
bank and left every other sum; that of DEST 1 has given them to the entry; that of DEST 2 has stored 64 lines from DLINE
on, outside the code region, and no other byte. Every value has counted in the quantisation point.
(05_matrix_engine.md, 02_tiles_and_virtual_grid.md, 06_numerics_and_quantisation.md) -/
def Obligations.MdrainDelivers : Prop :=
  ∀ (x : Site) (bank : BitVec 1) (dest : BitVec 2) (zc : BitVec 1) (rlast : BitVec 5) (qpt : BitVec 6)
    (csline dline : BitVec 14) (s : State), s.canIssue x .mx = true → dest ≠ 3 → (zc = 0 → csline = 0) →
    (dest ≠ 2 → dline = 0) → s.busyRes x.key .mxRead = false →
    let k := x.key
    let m := (s.tile k).mx
    let red := s.reducer k
    let c0 := s.cycAt k
    let occ := if dest = 2 then 64 else 2
    let lat := if dest = 2 then 66 else if dest = 1 then pushLatency s else 3
    let csLine (i : Nat) : Nat := (csline.toNat + i) % 16384 * 64
    let dLine (i : Nat) : Nat := (dline.toNat + i) % 16384 * 64
    (dest = 1 → s.busyRes k .gangLink = false ∧ (s.gang k).1 ≠ 1 ∧ (s.tile red).ftqOver = false ∧
      (s.tile red).ftqReserved < 4) →
    let s1 := if dest = 1 then
        s.modTile red fun q => { q with ftq := ftqInsert q.ftq ⟨[], s.member k, c0 + pushLatency s, k, c0⟩ }
      else s
    let u := (s1.tile k).held c0 .mxRead occ lat
    Completes (.mdrain x bank dest zc rlast qpt csline dline) s fun t =>
      Leaves k .mx (if dest = 1 then u.held c0 .gangLink 2 2 else u) lat s1 t fun v v' =>
        let csBytes := v.spBytes k (csLine 0) 64 ++ v.spBytes k (csLine 1) 64
        let value (r c : Nat) : Int :=
          if rlast.toNat < r then 0
          else (sat32 (tget 0 m.acc (1024 * bank.toNat + 32 * r + c) -
            (if zc = 1 then sext8 (tget 0 m.zp (32 * bank.toNat + r)) * signedOf 32 (fieldAt csBytes (4 * c) 4) else 0))).1
        (∀ i, i < 2 → zc = 1 → v.bankOn k (csLine i) = true) →
        (dest = 2 → ∀ i, i < 64 → v.bankOn k (dLine i) = true ∧ ∀ y, y < 64 → v.inCode k (dLine i + y) = false) →
        (dest = 0 → v'.mem = v.mem ∧ RanIn k v v' ∧ (v'.tile k).ftq = (v.tile k).ftq ∧
          (∀ r c, r ≤ rlast.toNat → c < 32 →
            tget 0 (v'.tile k).mx.acc (1024 * bank.toNat + 32 * r + c) = value r c) ∧
          (∀ i, (i < 1024 * bank.toNat ∨ 1024 * bank.toNat + 32 * (rlast.toNat + 1) ≤ i) →
            tget 0 (v'.tile k).mx.acc i = tget 0 (v.tile k).mx.acc i)) ∧
        (dest = 1 → v.img = s.img → v'.mem = v.mem ∧ (v'.tile k).mx = (v.tile k).mx ∧
          (∀ j, j ≠ k → j ≠ red → v'.tile j = v.tile j) ∧
          ∃ vals, (∀ r c, r < 32 → c < 32 → tget 0 vals (32 * r + c) = value r c) ∧
            (v'.tile red).ftq = (v.tile red).ftq.map fun e =>
              if e.src = k ∧ e.pushAt = c0 then { e with vals := vals } else e) ∧
        (dest = 2 → RanIn k v v' ∧ (v'.tile k).mx = (v.tile k).mx ∧ (v'.tile k).ftq = (v.tile k).ftq ∧
          (∀ r c, r < 32 → c < 32 →
            v'.spNat k (dLine ((32 * r + c) / 16) + 4 * ((32 * r + c) % 16)) 4 = unsignedOf 32 (value r c)) ∧
          (∀ a, (∀ j, j < 64 → a < spKey k (dLine j) ∨ spKey k (dLine j) + 64 ≤ a) →
            mget v'.mem.spad a = mget v.mem.spad a)) ∧
        (∀ p, (tget {} (v'.tile k).qp p).total = if p = qpt.toNat
          then min ((tget {} (v.tile k).qp p).total + 32 * (rlast.toNat + 1)) (2 ^ 48 - 1)
          else (tget {} (v.tile k).qp p).total) ∧
        v'.tile k = { v.tile k with mx := (v'.tile k).mx, qp := (v'.tile k).qp, ftq := (v'.tile k).ftq }

/-- VCFG and VLUT load the vector tables. Where no check refuses them each issues and leaves a job. Run by itself with
its banks on, that of VCFG has made chain configuration CFG the 128 bytes from line SRC on, and left the others, by the
end of cyc 2; that of VLUT has written lookup entry j of the segments it loads from the word of its place, segments
modulo 16, the last one to reach an entry standing. VLUT with NSEG 0 only has its turn past. No memory byte and nothing but the
table of the tile has changed. (07_vector_engine.md) -/
def Obligations.VectorTablesLoad : Prop :=
  ∀ (x : Site) (s : State), s.canIssue x .vx = true →
    let k := x.key
    let c := s.cycAt k
    (∀ (cfg : BitVec 4) (src : BitVec 14), s.busyRes k .vxCfg = false → Completes (.vcfg x cfg src) s fun t =>
      Leaves k .vx ((s.tile k).held c .vxCfg 2 3) 3 s t fun v v' =>
        (∀ i, i < 2 → v.bankOn k ((src.toNat + i) % 16384 * 64) = true) →
        (∀ b, b < 128 → tget 0 (v'.tile k).vxcfg (128 * cfg.toNat + b) = v.spByte k ((src.toNat * 64 + b) % 2 ^ 20)) ∧
        (∀ i, (i < 128 * cfg.toNat ∨ 128 * cfg.toNat + 128 ≤ i) →
          tget 0 (v'.tile k).vxcfg i = tget 0 (v.tile k).vxcfg i) ∧
        v'.tile k = { v.tile k with vxcfg := (v'.tile k).vxcfg } ∧ RanIn k v v' ∧ v'.mem = v.mem) ∧
    (∀ (seg0 : BitVec 4) (nseg : BitVec 5) (src : BitVec 14), nseg ≠ 0 → s.busyRes k .vxTab = false →
      let n := nseg.toNat
      Completes (.vlut x seg0 nseg src) s fun t =>
        Leaves k .vx ((s.tile k).held c .vxTab n (n + 1)) (n + 1) s t fun v v' =>
          (∀ i, i < n → v.bankOn k ((src.toNat + i) % 16384 * 64) = true) →
          (∀ j, j < 16 * n → 16 * n ≤ j + 256 →
            tget 0 (v'.tile k).lut (16 * ((seg0.toNat + j / 16) % 16) + j % 16) =
              BitVec.ofNat 32 (v.spNat k ((src.toNat * 64 + 4 * j) % 2 ^ 20) 4)) ∧
          v'.tile k = { v.tile k with lut := (v'.tile k).lut } ∧ RanIn k v v' ∧ v'.mem = v.mem) ∧
    (s.busyRes k .vxTab = false → ∀ seg0 src, exec (.vlut x seg0 0 src) s = .next (s.pass x .vx))

/-- VRUN steps its bases and runs its rows. A VRUN of at least one row whose configuration is legal and whose operands
are ready issues: BASE of each of its six descriptors is then BASE + INC modulo 16,384, their other bits and the other
configurations stay; the chain is held for the occupancy of the rows, and the job holds the configuration as it stood.
Memory, the tile's matrix state, counters, descriptors, channels and lookup table, and the other tiles stay. Run by
itself, the job of a plain row-by-row configuration, with its banks on and its vectors apart, has written each element,
past FN and QNT, at its lane of D, and no other byte; nothing else has changed. With ROWS 0 only its turn is past.
(07_vector_engine.md) -/
def Obligations.VrunRunsRows : Prop :=
  ∀ (x : Site) (cfg : BitVec 4) (rows : BitVec 11) (mkeep : BitVec 1) (aoff boff doff : BitVec 14) (s : State),
    s.canIssue x .vx = true →
    let k := x.key
    let c := VCfg.ofBytes ((s.tile k).cfgBytes cfg.toNat 0 128)
    let desc (u : State) (i : Nat) : Nat := fieldAt ((u.tile k).cfgBytes cfg.toNat (32 + 16 * i) 16) 0 4
    (s.busyRes k .vxChain = false → exec (.vrun x cfg 0 mkeep aoff boff doff) s = .next (s.pass x .vx)) ∧
    (rows ≠ 0 → VrunFree s k c rows.toNat → Completes (.vrun x cfg rows mkeep aoff boff doff) s fun t =>
      let (occ, lat) := c.timing s.tp2 rows.toNat
      (∀ i, i < 6 → bits (desc t i) 13 0 = (bits (desc s i) 13 0 + bits (desc s i) 27 14) % 16384 ∧
        bits (desc t i) 31 14 = bits (desc s i) 31 14) ∧
      (∀ i, i / 128 ≠ cfg.toNat → tget 0 (t.tile k).vxcfg i = tget 0 (s.tile k).vxcfg i) ∧
      t.mem = s.mem ∧ (t.tile k).mx = (s.tile k).mx ∧ (t.tile k).ctr = (s.tile k).ctr ∧ (t.tile k).md = (s.tile k).md ∧
      (t.tile k).ch = (s.tile k).ch ∧ (t.tile k).lut = (s.tile k).lut ∧ (∀ j, j ≠ k → t.tile j = s.tile j) ∧
      (t.tile k).busy = ((s.tile k).held (s.cycAt k) .vxChain occ lat).busy ∧
      (t.tile k).quietAt = ((s.tile k).held (s.cycAt k) .vxChain occ lat).quietAt ∧
      ∃ w : RunJob,
        let j := s.jobOf k .vx lat (.run w)
        (t.tile k).jobs = (s.tile k).jobs ++ [j] ∧ w.c = c ∧ w.mkeep = (mkeep == 1) ∧ w.aoff = aoff.toNat ∧
        w.boff = boff.toNat ∧ w.doff = doff.toNat ∧ w.rows = rows.toNat ∧
        (c.Simple → ∀ v, Calm k v → v.tp2 = s.tp2 → w.Apart v k →
          (∀ i l y, i < w.rows * c.cols → l < 32 → y < (if c.qnt = 0 then 4 else 2) →
            (j.run k v).spByte k (laneOff c.d.fmt (w.piecesD i) l + y) =
              ((quantElem c.qnt (Fp.one, 0) (w.elem v k i l) false).1[y]?).getD 0) ∧
          (∀ key, (∀ i o, i < w.rows * c.cols → c.d.covers (w.piecesD i) o → key ≠ spKey k o) →
            mget (j.run k v).mem.spad key = mget v.mem.spad key) ∧
          RanIn k v (j.run k v) ∧ (j.run k v).tile k = v.tile k))

/-- Sends read their lines, cross the mesh and leave the die. With NL 0 only the turn of the slot is past. An NSEND with
KIND 1, or KIND 2 and the own SLOT, to a bound tile of its own die that no check refuses issues; run by itself with its
banks on, its job has put its lines, one a cyc from the cyc of issue on, on the die mesh, and counted SCNT. A line that
lands at a tile whose channel is posted with its NL and takes its delivery, where every byte has a bank that is on and
lies outside the code region, puts its bytes there, region lines wrapping word by word, and no others, and leaves one line
less. With room in the send queue: NSEND to a bound tile of another die, to a board peer or, with KIND 3, to another
module, NMCAST with a multicast group and no tile of its own die, and NRED put one send in the tile's queue, with no line
read before the next cyc, the destinations of the route, and the acknowledgements due: NL for a tile, one for a
reduction; no memory byte and no other tile changes. (11_package_network.md) -/
def Obligations.SendsLeaveTheTile : Prop :=
  (∀ (x : Site) (rd : BitVec 4) (ch : BitVec 3) (ren : BitVec 1) (src : BitVec 14) (nl : BitVec 11) (scnt : BitVec 5)
    (s : State), s.canIssue x .nx = true →
    let k := x.key
    let r := routeOf (tget 0 (s.tile k).rd rd.toNat)
    let rn := ren == 1
    (s.busyRes k .nxSend = false → (ren = 1 → src.toNat < 16) →
      ∀ i ∈ [Instr.nsend x rd ch ren src 0 scnt, .nmcast x rd ch ren src 0 scnt, .nred x rd ch ren src 0 scnt],
        exec i s = .next (s.pass x .nx)) ∧
    (nl ≠ 0 → SendFree s k r rn src.toNat nl.toNat →
      let here := r.kind = 1 ∨ r.kind = 2 ∧ r.slot = s.id.slot
      (here → r.die = x.die.val → s.bound r.die r.tile = true →
        let n := nl.toNat
        let lat := n + 4 * hops (k % 256) r.tile + 1
        let line (i : Nat) : List (Nat × Nat) := ((sendLines s k src.toNat n rn)[i]?).getD []
        let u := if ren = 1 then (s.tile k).pop src.toNat (64 * n) else s.tile k
        let s1 := { s with net := { s.net with nextId := s.net.nextId + 1 } }
        Completes (.nsend x rd ch ren src nl scnt) s fun t =>
          Leaves k .nx (u.held (s.cycAt k) .nxSend n lat) lat s1 t fun v v' =>
            (∀ i, i < n → ∀ p ∈ line i, v.bankOn k p.1 = true) →
            (v'.die (k / 256)).mesh = (v.die (k / 256)).mesh ++ (List.range n).map (fun i => {
              src := k % 256, t0 := s.cycAt k, bundle := (s.tile k).pc, ch := ch.toNat, k := i, nl := n
              data := (line i).flatMap (fun p => v.spBytes k p.1 p.2), poison := false, dlv := s.net.nextId, at_ := s.cycAt k + i
              dests := [r.tile] }) ∧
            v'.mem = v.mem ∧
            (scnt ≠ 0 → tget 0 (v.tile k).ac scnt.toNat ≠ 0xFFFF →
              tget 0 (v'.tile k).ac scnt.toNat = tget 0 (v.tile k).ac scnt.toNat + 1)) ∧
      (ren = 0 → (s.tile k).sendq.length < 8 →
        let Queues (i : Instr) (due : Nat) (ds : List SendTo) : Prop := Completes i s fun t => ∃ e, Queued k s t e ∧
          e.nl = nl.toNat ∧ e.nread = 0 ∧ e.readAt = s.cycAt k + 1 ∧ e.src = src.toNat ∧ e.scnt = scnt.toNat ∧
          e.ch = ch.toNat ∧ e.due = due ∧ e.npart = r.npart ∧ e.dests = ds
        (here → r.die ≠ x.die.val → s.bound r.die r.tile = true →
          Queues (.nsend x rd ch ren src nl scnt) nl.toNat [.tile (siteOf (r.die * 256 + r.tile))]) ∧
        (r.kind = 2 → r.slot ≠ s.id.slot → s.noPeer r.slot = false → Queues (.nsend x rd ch ren src nl scnt) nl.toNat
          [.fabric (s.boardMid r.slot) 1 r.die r.tile (s.boardPath r.slot) 0]) ∧
        (r.kind = 3 → r.dst ≠ s.id.mid →
          Queues (.nsend x rd ch ren src nl scnt) nl.toNat [.fabric r.dst 0 r.die r.tile r.path r.vch]) ∧
        (r.kind = 4 → r.mgrp ≠ 0 → bit r.dies x.die.val = false →
          let ds := ((List.range 8).filter (fun e => bit r.dies e)).flatMap (fun e =>
              (s.rectTiles e r).map (fun y => SendTo.tile (siteOf (e * 256 + y)))) ++
            [.mcast r.mgrp r.dies (r.rowA * 4096 + r.rowB * 256 + r.colA * 16 + r.colB) r.vch]
          Queues (.nmcast x rd ch ren src nl scnt) (nl.toNat * ds.length) ds) ∧
        (r.kind = 5 → s.ce.strict = false → Queues (.nred x rd ch ren src nl scnt) 1 [.reduce r.mgrp r.npart r.vch])))) ∧
  (∀ (k : Nat) (m : MeshLine) (s : State),
    let c := (s.tile k).chan m.ch
    let at_ := rangeAddrs (chanRanges s k c m.k)
    let t := meshLand s k false m
    c.en = true → c.nl = m.nl → (c.dlv = none ∨ c.dlv = some m.dlv) → TakesAt s k at_ →
      ((t.tile k).chan m.ch).left = c.left - 1 ∧ (c.left ≤ 1 → ((t.tile k).chan m.ch).en = false) ∧
      (2 ≤ c.left → ((t.tile k).chan m.ch).dlv = some m.dlv) ∧ StoredAt s t k at_ m.data ∧ ∀ j, j ≠ k → t.tile j = s.tile j)

/-- NRECV posts a channel. With the channel not posted and no refusing check: NRECV takes the bytes at the tail of an
enabled region of the tile at issue, and at the end of its cyc has posted the channel with NL lines left at line DST, or
at that tail. With NL 0 only the turn of the slot is past. No memory byte, no other tile and no other channel changes. (11_package_network.md)
-/
def Obligations.NrecvPostsChannel : Prop :=
  ∀ (x : Site) (ch : BitVec 3) (ren : BitVec 1) (dst : BitVec 14) (nl : BitVec 11) (gcnt : BitVec 5) (s : State),
    s.canIssue x .nx = true → s.busyRes x.key .nxChan = false → (ren = 1 → dst.toNat < 16) →
    let k := x.key
    let g := tget {} (s.tile k).regions dst.toNat
    let u := if ren = 1 then (s.tile k).push dst.toNat (64 * nl.toNat) else s.tile k
    exec (.nrecv x ch ren dst 0 gcnt) s = .next (s.pass x .nx) ∧
    (nl ≠ 0 → ((s.tile k).chan ch.toNat).en = false →
      (ren = 1 → g.en = true ∧ (s.tile k).pushFails dst.toNat (64 * nl.toNat) = false) →
      Completes (.nrecv x ch ren dst nl gcnt) s fun t =>
        (ren = 1 → tget {} (t.tile k).regions dst.toNat =
          { g with tail := (g.tail + 64 * nl.toNat) % g.size, fill := g.fill + 64 * nl.toNat }) ∧
        Leaves k .nx (u.held (s.cycAt k) .nxChan 1 1) 1 s t fun v v' =>
          (v'.tile k).chan ch.toNat = {
            en := true, ren := ren == 1, region := if ren = 1 then dst.toNat else 0
            base := if ren = 1 then g.tail else dst.toNat, left := nl.toNat, nl := nl.toNat, gcnt := gcnt.toNat } ∧
          (∀ j, j ≠ ch.toNat → (v'.tile k).chan j = (v.tile k).chan j) ∧
          v'.tile k = { v.tile k with ch := (v'.tile k).ch } ∧ RanIn k v v' ∧ v'.mem = v.mem)

/-- Gates take their value, hold the die, open and time out. NGATE with VAL 0 only has its turn past and with counter 0
faults with ENCODING. With no gate waiting and the arrival counter at VAL or above it subtracts VAL at once; below VAL
it joins the die's waiting gates. GATE_OPEN with every waiting gate satisfied, on a die that the debug port does not hold,
empties the gates and releases the die, and a single gate takes its value; on a halted die nothing changes. GATE_TIMEOUT of a single gate that has counted to its timeout unsatisfied makes its
tile faulted, stops the die by fault, and raises GATE_TIMEOUT, code 0x11. (11_package_network.md,
04_program_model_and_timing.md) -/
def Obligations.GatesHoldAndOpen : Prop :=
  ∀ (x : Site) (cnt : BitVec 5) (val : BitVec 14) (timeout : BitVec 24) (s : State),
    let k := x.key
    let d := x.die.val
    let ac (u : State) : BitVec 16 := tget 0 (u.tile k).ac cnt.toNat
    (s.canIssue x .nx = true →
      (cnt ≠ 0 → exec (.ngate x cnt 0 timeout) s = .next (s.pass x .nx)) ∧
      Completes (.ngate x 0 val timeout) s (fun t => Faulted k .encoding t ∧ t.mem = s.mem) ∧
      (cnt ≠ 0 → val ≠ 0 → (s.die d).gates = [] → val.toNat ≤ (ac s).toNat →
        Completes (.ngate x cnt val timeout) s (fun t => ac t = ac s - BitVec.ofNat 16 val.toNat ∧
          (t.die d).gates = [] ∧ SameBytes s t ∧ ∀ j, j ≠ k → t.tile j = s.tile j)) ∧
      (cnt ≠ 0 → val ≠ 0 → (ac s).toNat < val.toNat → Completes (.ngate x cnt val timeout) s (fun t =>
        (∃ g ∈ (t.die d).gates, g.vt = x.vt.val ∧ g.cnt = cnt.toNat ∧ g.val = val.toNat ∧ g.count = 0) ∧
        (t.die d).runs = (s.die d).runs))) ∧
    ((s.die d).stop.live = false → exec (.gateOpen x.die) s = .next s) ∧
    ((s.die d).gates ≠ [] → (∀ g ∈ (s.die d).gates, s.gateOk d g = true) → (s.die d).stop.live = true → Completes (.gateOpen x.die) s (fun t =>
      (t.die d).gates = [] ∧ (t.die d).held = false ∧ SameBytes s t ∧
      ∀ g, (s.die d).gates = [g] → tget 0 (t.tile (d * 256 + g.vt)).ac g.cnt =
        tget 0 (s.tile (d * 256 + g.vt)).ac g.cnt - BitVec.ofNat 16 g.val)) ∧
    (∀ g, (s.die d).gates = [g] → g.timeout ≠ 0 → g.timeout ≤ g.count → s.gateOk d g = false → g.vt < 256 →
      Completes (.gateTimeout x.die) s (fun t =>
        (t.tile (d * 256 + g.vt)).seq = .faulted ∧ (t.die d).stop.fault = true ∧ (t.die d).held = false ∧
        (t.die d).gates = [] ∧ (s.ce.ev.opened = true → ∃ r ∈ t.ce.ev.wait, r.code = 0x11)))

/-- Queued sends are read, arrive and are acknowledged. OFFDIE_SEND_READ of a send with lines left, no earlier than its
next cyc, in a bank that is on and that no other access has in this cyc, reads one more line, and to a single tile sends it
with the bytes of its source line. Over a route whose bridges all carry traffic, LINE_ARRIVAL, with the banks free, of a
line whose channel is posted with its NL and takes its delivery lands its bytes and takes the line out of those on the way;
one whose channel is not posted joins the holding buffer while it has room. SEND_ACK takes 1 from the acknowledgements due;
the last one frees the entry, takes 1 from the tile's outstanding count and counts SCNT. Over a bridge that is down or
retrains, the line and the acknowledgement wait. (11_package_network.md, 03_memory_and_regions.md) -/
def Obligations.QueuedSendsTravel : Prop :=
  (∀ (x : Site) (n : Fin 8) (e : Send) (y : Site) (s : State), (s.tile x.key).sendq[n.val]? = some e →
    e.nread < e.nl → e.dests = [.tile y] →
    let c := s.cycAt x.key
    let off := (e.src + e.nread) % 16384 * 64
    ((s.die (x.key / 256)).runs = true → (c < e.readAt ∨ s.bankTaken x.key off = true) →
      exec (.offdieSendRead x n) s = .next s) ∧
    ((s.die (x.key / 256)).runs = false ∨ e.readAt ≤ c → s.bankTaken x.key off = false → s.bankOn x.key off = true →
      Completes (.offdieSendRead x n) s fun t =>
        (t.tile x.key).sendq[n.val]? = some { e with nread := e.nread + 1, readAt := c + 1 } ∧
        (∃ l, t.net.lines = s.net.lines ++ [l] ∧ l.dst = y ∧ l.ch = e.ch ∧ l.k = e.nread ∧ l.nl = e.nl ∧
          l.data = s.spBytes x.key off 64 ∧ l.send = some (x.key, e.id) ∧ l.node = x.key / 256) ∧ SameBytes s t)) ∧
  (∀ (i : Nat) (l : NxLine) (s : State), s.net.lines[i]? = some l → (l.dlv, l.dst.key) ∉ s.net.dead →
    let k := l.dst.key
    let c := (s.tile k).chan l.ch
    let at_ := rangeAddrs (s.lineRanges l)
    (s.pathUp l.node l.dst.die.val = false → exec (.lineArrival i) s = .next s) ∧
    (s.pathUp l.node l.dst.die.val = true → c.en = false → (s.tile k).holding.length < 64 →
      Completes (.lineArrival i) s fun t => t.net.lines = dropNth s.net.lines i ∧
        (t.tile k).holding = (s.tile k).holding ++ [l] ∧ t.mem = s.mem) ∧
    (s.pathUp l.node l.dst.die.val = true → c.en = true → c.nl = l.nl →
      (c.dlv = some l.dlv ∨ c.dlv = none ∧ ∀ m ∈ (s.tile k).holding, m.ch ≠ l.ch) →
      (s.rangesTaken k (s.lineRanges l) = true → exec (.lineArrival i) s = .next s) ∧
      (s.rangesTaken k (s.lineRanges l) = false → TakesAt s k at_ → Completes (.lineArrival i) s fun t =>
        t.net.lines = dropNth s.net.lines i ∧ ((t.tile k).chan l.ch).left = c.left - 1 ∧
        (c.left ≤ 1 → ((t.tile k).chan l.ch).en = false) ∧ StoredAt s t k at_ l.data))) ∧
  (∀ (i k id node : Nat) (e : Send) (s : State), s.net.acks[i]? = some (k, id, node) →
    (s.pathUp node (k / 256) = false → exec (.sendAck i) s = .next s) ∧
    (s.pathUp node (k / 256) = true → (s.tile k).sendq.find? (fun e => e.id == id) = some e → Completes (.sendAck i) s (fun t =>
      t.net.acks = dropNth s.net.acks i ∧ SameBytes s t ∧
      (if e.due ≤ 1 then (∀ f ∈ (t.tile k).sendq, f.id ≠ id) ∧ (t.tile k).outst = (s.tile k).outst - 1 ∧
          (e.scnt ≠ 0 → tget 0 (s.tile k).ac e.scnt ≠ 0xFFFF →
            tget 0 (t.tile k).ac e.scnt = tget 0 (s.tile k).ac e.scnt + 1)
        else (t.tile k).sendq.find? (fun e => e.id == id) = some { e with due := e.due - 1 } ∧
          (t.tile k).outst = (s.tile k).outst))))

/-- Bridges carry frames, replay and retrain. On a direction that is neither retraining nor down: BRIDGE_FRAME with nothing
to replay sends the next frame, and one that arrives whole in sequence is accepted and acknowledges itself and every earlier
frame; one that does not follow the frames accepted leaves the receiver as it was; one that fails its CRC stays
unacknowledged, and it and every later frame are to be sent again. BRIDGE_REPLAY_TIMER with an unacknowledged frame
sends it and every later one again, and counts a failed replay of it; the 16th in succession calls for a retrain.
BRIDGE_RETRAIN ends a retrain with the retired lanes out of use and every unacknowledged frame to be sent again, or fails:
the direction is down and the event with code 0x30 is raised. On a direction that is down or retrains no frame travels.
(11_package_network.md) -/
def Obligations.BridgesReplayAndRetrain : Prop :=
  ∀ (b : Fin 16) (dir : Fin 2) (res : Fin 3) (syms : List Nat) (s : State),
    let v := s.bridge b.val dir.val
    (v.carries = false → exec (.bridgeFrame b dir res syms) s = .next s ∧
      exec (.bridgeReplayTimer b dir syms) s = .next s) ∧
    (v.carries = true → v.resend = [] → v.failing = none →
      (v.rxSeq = v.txSeq → (∀ f ∈ v.unacked, f ≤ v.txSeq) → Completes (.bridgeFrame b dir 0 syms) s (fun t =>
        t.bridge b.val dir.val = { v with unacked := [], txSeq := v.txSeq + 1, rxSeq := v.txSeq + 1 } ∧ SameBytes s t)) ∧
      (v.rxSeq < v.txSeq → Completes (.bridgeFrame b dir 0 syms) s (fun t =>
        (t.bridge b.val dir.val).rxSeq = v.rxSeq ∧ (t.bridge b.val dir.val).txSeq = v.txSeq + 1)) ∧
      Completes (.bridgeFrame b dir 1 syms) s (fun t =>
        let u := t.bridge b.val dir.val
        u.unacked = v.unacked ++ [v.txSeq] ∧ u.resend = u.unacked.dropWhile (fun f => f != v.txSeq) ∧
        u.txSeq = v.txSeq + 1 ∧ u.rxSeq = v.rxSeq ∧ u.retrain = false ∧ SameBytes s t)) ∧
    (∀ q l, v.carries = true → v.unacked = q :: l → Completes (.bridgeReplayTimer b dir syms) s (fun t =>
      let u := t.bridge b.val dir.val
      let n := if v.failing = some q then v.replays + 1 else 0
      u.replays = n ∧ (u.retrain = true ↔ 16 ≤ n) ∧ (n < 16 → u.resend = v.unacked ∧ u.failing = some q) ∧
      u.unacked = v.unacked ∧ SameBytes s t)) ∧
    (v.retrain = true →
      Completes (.bridgeRetrain b dir true) s (fun t => t.bridge b.val dir.val = { v with
        off := s.lanesOff b.val dir.val, replays := 0, failing := none, resend := v.unacked, retrain := false
        down := false }) ∧
      Completes (.bridgeRetrain b dir false) s (fun t =>
        (t.bridge b.val dir.val).down = true ∧ (t.bridge b.val dir.val).retrain = false ∧
        (s.ce.ev.opened = true → ∃ r ∈ t.ce.ev.wait, r.code = 0x30)))

/-- DGATH asks the page manager, which answers. A DGATH of at least one token that no check refuses issues, holds the MV
port and leaves a job; no memory byte has changed. Run by itself with its banks on, outside the code region, the job has
given the die's page manager one more request, of this tile, with the head of its record and, of a PUT without RINC, the
bytes of its rows, under a transaction with the next number, and the tile counts one more outstanding; no memory byte
has changed unless RINC has stored the next position. PM_REQUEST takes a tile's first waiting request from the queue. For a
GATHER of one present token whose code and scale frames are live and of this module, its transaction reads the row and
then the scale, byte by byte, from their places in the frames to those in the tile; for a PUT of one into frames of one
reference, it writes the row and the scale there. A PUT for no sequence is acknowledged without a fault. PM_REQUEST of a
peer's message about a live frame begins the reads or writes of its bytes, for that peer, and of a request for a guest frame
lends the first one that is free. PM_GUEST_RELEASE of a live guest frame frees it with the next generation, and takes the
message. The payload of these messages is the model's (log 11). (08_attention_and_kv_pages.md) -/
def Obligations.PageManagersServe : Prop :=
  (∀ (x : Site) (dop : BitVec 2) (kind : BitVec 1) (md hd : BitVec 5) (layer : BitVec 6) (ntok : BitVec 9)
    (pace : BitVec 6) (gcnt : BitVec 5) (pin rinc stripe : BitVec 1) (s : State), s.canIssue x .mv = true →
    pace.toNat ≤ 32 → ntok ≠ 0 →
    let k := x.key
    let t := s.tile k
    let h := tget {} t.md hd.toNat
    DgathFree s k dop.toNat kind.toNat stripe.toNat (tget {} t.md md.toNat) (tget {} t.md ((md.toNat + 1) % 32)) h
      layer.toNat ntok.toNat →
    Completes (.dgath x dop kind md hd layer ntok pace gcnt pin rinc stripe) s fun u =>
      u = { s with tiles := u.tiles } ∧ (∀ j, j ≠ k → u.tile j = s.tile j) ∧ (u.tile k).md = t.md ∧
      ∃ (lat : Nat) (w : Work),
        let j := s.jobOf k .mv lat w
        (u.tile k).jobs = t.jobs ++ [j] ∧ 44 ≤ lat ∧
        ∀ v, Calm k v → (∀ o, v.bankOn k o = true ∧ v.inCode k o = false) →
          let v' := j.run k v
          (∃ q, (v'.pm (k / 256)).reqs = (v.pm (k / 256)).reqs ++ [.gath q] ∧ q.tile = k ∧ q.dop = dop.toNat ∧
            q.kind = kind.toNat ∧ q.layer = layer.toNat ∧ q.ntok = ntok.toNat ∧ q.gcnt = gcnt.toNat ∧
            q.pin = (pin == 1) ∧ q.txn = v.net.nextId ∧ q.head = bits (s.gathHead k h) 127 96 ∧
            (dop = 1 → rinc = 0 → q.rows.length = ntok.toNat ∧
              q.rowData.map (·.1) = q.rows.map fun ps => ps.flatMap fun p => v.spBytes k p.1 p.2)) ∧
          (∃ y, v'.net.txns = v.net.txns ++ [y] ∧ y.id = v.net.nextId ∧ y.from_ = .tile (siteOf k) ∧ y.beats = []) ∧
          (v'.tile k).outst = (v.tile k).outst + 1 ∧
          (rinc = 0 → v'.mem = v.mem) ∧ v'.mem.cav = v.mem.cav ∧
          (rinc = 1 → leNat (v'.spBytes k (gaOff h.addr.toNat % 2 ^ 20 + 9) 3) =
              (bits (s.gathHead k h) 95 72 + ntok.toNat) % 2 ^ 24 ∧
            ∀ a, (∀ b, b < 3 → a ≠ spKey k (gaOff h.addr.toNat % 2 ^ 20 + 9 + b)) →
              mget v'.mem.spad a = mget v.mem.spad a)) ∧
  (∀ (d : Fin 8) (i : Nat) (q : Gath) (u : Txn) (s : State), (s.pm d.val).reqs[i]? = some (.gath q) →
    (∀ e ∈ (s.pm d.val).reqs.take i, ∀ p, e = .gath p → p.tile ≠ q.tile) → s.txn? q.txn = some u →
    let Accepts (P : List Beat → Prop) : Prop := Completes (.pmRequest d i) s fun t =>
      (t.pm d.val).reqs = dropNth (s.pm d.val).reqs i ∧ SameBytes s t ∧ ∃ v, t.txn? q.txn = some v ∧ P v.beats
    let at_ := q.at_ (tget {} s.sv.models q.midx).kvgeo 0
    let row := (q.rowData[0]?).getD ([], false)
    let scl := (q.sclData[0]?).getD ([], false)
    (q.dop = 1 → refV q.head = false → Accepts fun l => l.length = 1 ∧ ∀ b ∈ l, b.st = .back 0) ∧
    (∀ cf sf, q.dop = 0 → TokenReady s q cf sf → at_.co + (rangeAddrs ((q.rows[0]?).getD [])).length ≤ 8192 →
      at_.so + 4 ≤ 8192 → Accepts fun l => SentAs .read l ∧
        beatLocs l = rangeAddrs ((q.rows[0]?).getD [] ++ [((q.scls[0]?).getD 0, 4)]) ∧
        beatGas l = s.frameGas cf at_.co (rangeAddrs ((q.rows[0]?).getD [])).length ++ s.frameGas sf at_.so 4) ∧
    (∀ cf sf, q.dop = 1 → TokenReady s q cf sf → (s.counts cf).ref ≤ 1 → (s.counts sf).ref ≤ 1 →
      at_.co + row.1.length ≤ 8192 → at_.so + scl.1.length ≤ 8192 →
      Accepts fun l => ∃ m, l = m ++ [doneBeat 0] ∧ SentAs .write m ∧ m.flatMap (·.data) = row.1 ++ scl.1 ∧
        beatGas m = s.frameGas cf at_.co row.1.length ++ s.frameGas sf at_.so scl.1.length)) ∧
  (∀ (d : Fin 8) (i : Nat) (k : Packet) (s : State), (s.pm d.val).reqs[i]? = some (.msg k) →
    let op := fieldAt k.data 0 4
    let r := fieldAt k.data 4 4
    let off := fieldAt k.data 8 4
    let n := fieldAt k.data 12 4
    let body := k.data.drop 20
    let f := s.frame (refDie r) (refFrame r)
    let Begins (P : List Beat → Prop) : Prop := Completes (.pmRequest d i) s fun t =>
      (t.pm d.val).reqs = dropNth (s.pm d.val).reqs i ∧ SameBytes s t ∧
      ∃ y, t.net.txns = s.net.txns ++ [y] ∧ y.from_ = .peer k.src k.tag k.tgen ∧ P y.beats
    (op = 1 → LiveFrame s r false → off + n ≤ 8192 → Begins fun l => SentAs .read l ∧ beatGas l = s.frameGas r off n) ∧
    (op = 2 → LiveFrame s r true → body ≠ [] → off + body.length ≤ 8192 → Begins fun l => SentAs .write l ∧
      l.flatMap (·.data) = body ∧ beatGas l = s.frameGas r off body.length) ∧
    (∀ g, op = 4 → s.frameBusy r true = false → g < (s.pm d.val).frames → (s.pm d.val).guest0 ≤ g →
      (s.frame d.val g).state = 0 → (∀ e, (s.pm d.val).guest0 ≤ e → e < g → (s.frame d.val e).state ≠ 0) →
      Completes (.pmRequest d i) s (fun t => (t.pm d.val).reqs = dropNth (s.pm d.val).reqs i ∧ SameBytes s t ∧
        t.frame d.val g = { s.frame d.val g with state := 2, ref := 1, oslot := k.src % 8 })) ∧
    (op = 3 → s.refLocal r = true → refDie r = d.val → s.refStale r = false → f.state = 2 →
      Completes (.pmGuestRelease d i) s (fun t =>
        (t.pm d.val).reqs = dropNth (s.pm d.val).reqs i ∧
        (t.frame d.val (refFrame r)).state = 0 ∧ (t.frame d.val (refFrame r)).gen = (f.gen + 1) % 128 ∧ SameBytes s t)))

/-- PACKET_ROUTE handles one packet. Packet i of the router, first of its port, channel and phase, over bridges that carry
traffic, leaves the router. A malformed one is counted and goes nowhere; one whose hop names a port in service counts as
sent in its epoch; one that ends here and is this module's, of a type and kind that waits for its unit, joins the inbox
last; one that ends here and is not is counted as misrouted; a response whose port is not in service is counted as
dropped. One that a bridge does not carry waits. (12_oliene_fabric.md, 11_package_network.md) -/
def Obligations.PacketRouteHandlesOne : Prop :=
  ∀ (i : Nat) (a : AtRouter) (s : State), s.fab.router[i]? = some a →
    (∀ b ∈ s.fab.router.take i, ¬ (b.port = a.port ∧ b.pkt.vc = a.pkt.vc ∧ b.pkt.ph = a.pkt.ph)) →
    let p := a.pkt
    let c := p.code p.hop
    let Routes (P : State → Prop) : Prop := Completes (.packetRoute i) s fun t => P t ∧ t.mem = s.mem ∧ t.tiles = s.tiles
    (s.mayRoute a = false → exec (.packetRoute i) s = .next s) ∧
    (s.mayRoute a = true →
    (p.malformed = true → Routes fun t => t.fab.router = dropNth s.fab.router i ∧
      t.fab.malformed = count64 s.fab.malformed ∧ t.fab.inbox = s.fab.inbox) ∧
    (p.malformed = false → c ≤ 15 → s.portOk c = true → Routes fun t => t.fab.router = dropNth s.fab.router i ∧
      tget 0 t.fab.ep.sent p.epoch = tget 0 s.fab.ep.sent p.epoch + 1 ∧ t.fab.inbox = s.fab.inbox) ∧
    (p.malformed = false → c ≤ 15 → s.portOk c = false → p.isRequest = false → Routes fun t =>
      t.fab.router = dropNth s.fab.router i ∧ t.fab.dropped = count64 s.fab.dropped) ∧
    (p.malformed = false → c = 0x1E → s.isMine p = true → p.type ∈ [0x03, 0x04, 0x09, 0x0B, 0x0D, 0x0E] →
      p.known = true → Routes fun t => t.fab.router = dropNth s.fab.router i ∧ t.fab.inbox = s.fab.inbox ++ [a]) ∧
    (p.malformed = false → c = 0x1E → s.isMine p = false → (p.type = 0x0E → p.aux % 256 ≠ ctlNeighbour) →
      Routes fun t => t.fab.router = dropNth s.fab.router i ∧ t.fab.misroute = count64 s.fab.misroute))

/-- Requests are injected, answered, refused or time out. FABRIC_INJECT of waiting request i, which none before it holds
back, with a path, a free tag and room in the resend store, makes it outstanding under that tag, with the tag's generation
and the current epoch, and puts its packet at the router; so does that of a multicast request with a valid entry, with the
acknowledgements due of its members. RESPONSE, first in its order and over bridges that carry it, to no outstanding request
is counted as stale; to one that awaits more acknowledgements, takes 1 from those due once for each sender; to any other,
frees the tag, whose generation increments modulo 256. NACK of a multicast copy is counted and raises the event with code
0x41; of another request of the current epoch that is no board access, holds it for the next epoch; of a board access,
frees its tag. TRANSACTION_TIMEOUT frees the tag, counts, and raises the event with code 0x42. (12_oliene_fabric.md) -/
def Obligations.RequestsAreInjectedAndAnswered : Prop :=
  ∀ (s : State),
    (∀ (i tag : Nat) (r : Req), s.fab.waiting[i]? = some r → r.last = false →
      (∀ o ∈ s.fab.waiting.take i ++ s.fab.out, r.pkt.pmFollows o.pkt = false) →
      freeTag (s.fab.out.map (·.pkt.tag)) 65536 0 = some tag →
      let k := { r.pkt with tag := tag, tgen := tget 0 s.fab.tgen tag, epoch := s.fab.ep.cur, ph := 0, hop := 0 }
      let Injects (q : Req) : Prop := Completes (.fabricInject i) s fun t =>
        t.fab.waiting = dropNth s.fab.waiting i ∧ t.fab.out = s.fab.out ++ [q] ∧
        t.fab.router = s.fab.router ++ [{ pkt := q.pkt, port := none, at_ := s.tm.tick, node := s.reqDie r }] ∧
        (∀ o ∈ s.fab.out, o.pkt.tag ≠ tag) ∧ t.mem = s.mem
      (∀ path, r.pinned ≠ 0x1F → s.reqPath r = some path →
        s.storeUsed (iodOf path) + 32 + r.pkt.len ≤ 8 * 2 ^ 20 → Injects { r with pkt := { k with path := path } }) ∧
      (let e := s.mcEntry s.fab.ep.cur r.pkt.mgrp
       let due := if mcLocal e then mcMembers e - 1 else mcMembers e
       r.pinned = 0x1F → mcValid e = true → due ≠ 0 → s.storeUsed 3 + 32 + r.pkt.len ≤ 8 * 2 ^ 20 →
        Injects { r with pkt := { k with path := 0x1F }, due := due })) ∧
    (∀ (i : Nat) (a : AtRouter), s.inboxAt i = some a →
      (a.pkt.type ∈ [0x03, 0x04, 0x09] → s.reaches a a.pkt.tag = true →
        (s.reqOf a.pkt.tag a.pkt.tgen = none → Completes (.response i) s (fun t =>
          t.fab.inbox = dropNth s.fab.inbox i ∧ t.fab.stale = count64 s.fab.stale ∧ t.fab.out = s.fab.out)) ∧
        (∀ r, s.reqOf a.pkt.tag a.pkt.tgen = some r →
          (2 ≤ r.due → Completes (.response i) s fun t => t.fab.inbox = dropNth s.fab.inbox i ∧
            t.fab.out = s.fab.out.map fun q => if q.pkt.tag = r.pkt.tag ∧ !q.acked.contains a.pkt.src
              then { q with due := q.due - 1, acked := q.acked ++ [a.pkt.src] } else q) ∧
          (r.due < 2 → a.pkt.src ∉ r.acked → Completes (.response i) s fun t =>
            (∀ q ∈ t.fab.out, q.pkt.tag ≠ r.pkt.tag) ∧
            tget 0 t.fab.tgen r.pkt.tag = (tget 0 s.fab.tgen r.pkt.tag + 1) % 256))) ∧
      (a.pkt.type = 0x0B → s.reaches a (bits a.pkt.aux 31 16) = true →
        ∀ r, s.reqOf (bits a.pkt.aux 31 16) a.pkt.tgen = some r →
        (r.copies = true → Completes (.nack i) s (fun t => t.fab.inbox = dropNth s.fab.inbox i ∧
          t.fab.mcLost = count64 s.fab.mcLost ∧ (s.ce.ev.opened = true → ∃ e ∈ t.ce.ev.wait, e.code = 0x41))) ∧
        (r.copies = false → r.board = true → Completes (.nack i) s (fun t => ∀ q ∈ t.fab.out, q.pkt.tag ≠ r.pkt.tag)) ∧
        (r.copies = false → r.board = false → s.fab.ep.cur = a.pkt.epoch → Completes (.nack i) s (fun t =>
          t.fab.inbox = dropNth s.fab.inbox i ∧ t.fab.out = s.fab.out.map (fun q =>
            if q.pkt.tag = r.pkt.tag then { q with heldFor := some s.fab.ep.cur } else q))))) ∧
    (∀ (tag : Nat) (r : Req), s.fab.out.find? (fun r => r.pkt.tag == tag) = some r →
      Completes (.transactionTimeout tag) s (fun t => (∀ q ∈ t.fab.out, q.pkt.tag ≠ tag) ∧
        tget 0 t.fab.tgen tag = (tget 0 s.fab.tgen tag + 1) % 256 ∧ t.fab.timeouts = count64 s.fab.timeouts ∧
        (s.ce.ev.opened = true → ∃ e ∈ t.ce.ev.wait, e.code = 0x42)))

/-- REDUCTION_COMBINE adds a contribution. Contribution i, over bridges that carry it, leaves those that wait, and a tile's own
is acknowledged. With no valid entry for its group it is counted as a miss. With one, it is taken into the first reduction
of the group that lacks one of its tile or port, else into a new one: lines of the same NL are added element by element in
FP32, and the counts add. While contributions to that reduction are still missing its partial is kept; once all are in it
is gone from the combiner: below the root its lines wait as partial sums for the parent, and at the root, with every
contribution counted and of one NL, each line of the sum is on its way to each tile that contributed. Partials of other
groups stay. Over a bridge that carries nothing it waits. (12_oliene_fabric.md, 11_package_network.md) -/
def Obligations.ReductionCombineAdds : Prop :=
  ∀ (i : Nat) (c : Contrib) (s : State), s.fab.contribs[i]? = some c →
    let e := s.mcEntry s.fab.ep.cur c.mgrp
    let old := tget [] s.fab.combs c.mgrp
    let new := (combTake c (mcLcnt e) old).1
    let n := (combTake c (mcLcnt e) old).2
    let x := new.getD n {}
    (s.pathUp c.node twinDie = false → exec (.reductionCombine i) s = .next s) ∧
    (∀ y l, old = y :: l → y.lacks c (mcLcnt e) = true → y.lines ≠ [] → c.nl = y.nl →
      x.lines = (y.lines.zip c.lines).map (fun p => addLines p.1 p.2) ∧ x.count = y.count + c.count) ∧
    (s.pathUp c.node twinDie = true → Completes (.reductionCombine i) s fun t =>
      t.fab.contribs = dropNth s.fab.contribs i ∧ t.mem = s.mem ∧
      (∀ a, c.local_ = some a → t.net.acks = s.net.acks ++ [(a.1, a.2, twinDie)]) ∧
      (mcValid e = false → t.fab.mcMiss = count64 s.fab.mcMiss ∧ t.fab.combs = s.fab.combs) ∧
      (mcValid e = true → x.whole e = false → tget [] t.fab.combs c.mgrp = new) ∧
      (mcValid e = true → x.whole e = true → tget [] t.fab.combs c.mgrp = new.eraseIdx n ∧
        (mcRoot e = false → ∀ (j : Nat) (v : List Byte), x.lines[j]? = some v → ∃ r ∈ t.fab.waiting, r.pkt.type = 0x07 ∧
          r.pkt.mgrp = c.mgrp ∧ r.pkt.data = v ∧ bits r.pkt.aux 2 0 = x.ch % 8) ∧
        (mcRoot e = true → x.bad = false → (x.npart = 0 ∨ x.count = x.npart) → ∀ y ∈ x.tiles, ∀ (j : Nat) (v : List Byte), x.lines[j]? = some v →
          ∃ m ∈ t.net.lines, m.dst = siteOf y.1 ∧ m.ch = y.2 ∧ m.k = j ∧ m.nl = x.nl ∧ m.data = v)) ∧
      ∀ g, g ≠ c.mgrp → tget [] t.fab.combs g = tget [] s.fab.combs g)

/-- Links accept frames in sequence and replay. On a port with lanes that is not retraining: LINK_FRAME whose FEC, length or
CRC fails asks for a replay and does nothing else; one that carries cells and comes in sequence advances the expected
sequence number modulo 4,096 and is the one to acknowledge; one out of sequence advances nothing and brings nothing to the
router; one without cells sets the credit of its pool, and with an acknowledgement the frames it covers leave the replay
buffer. LINK_NAK and LINK_REPLAY_TIMER on a held frame count one more try of it and of every later one, keep every held
frame, and call for a retrain once a frame has had 16. No memory byte changes. (12_oliene_fabric.md) -/
def Obligations.LinksAcceptAndReplay : Prop :=
  ∀ (p : Fin 16) (s : State), (s.port p.val).lanes ≠ 0 → (s.port p.val).retrain = false →
    let x := s.port p.val
    (∀ (frame : List Byte) (fec poison : Bool),
      let h := fieldAt frame 0 8
      let n := bits h 19 16
      let good := fec = true ∧ n ≤ 8 ∧ frame.length = 12 + 64 * n ∧
        fieldAt frame (8 + 64 * n) 4 = (crc32 (frame.take (8 + 64 * n))).toNat
      let Takes (P : State → Prop) : Prop := Completes (.linkFrame p frame fec poison) s fun t => P t ∧ t.mem = s.mem
      (¬ good → Takes fun t => t.port p.val = { x with nakSent := true, line := (t.port p.val).line } ∧
        t.fab.router = s.fab.router) ∧
      (good → n ≠ 0 → bits h 63 52 = x.rxSeq → Takes fun t =>
        (t.port p.val).rxSeq = (x.rxSeq + 1) % 4096 ∧ (t.port p.val).ackSent = some x.rxSeq) ∧
      (good → n ≠ 0 → bits h 63 52 ≠ x.rxSeq → Takes fun t =>
        (t.port p.val).rxSeq = x.rxSeq ∧ t.fab.router = s.fab.router) ∧
      (good → n = 0 → Takes fun t => (t.port p.val).rxSeq = x.rxSeq ∧ t.fab.router = s.fab.router ∧
        tget 0 (t.port p.val).freed (bits h 37 35) = bits h 34 23 ∧
        (bit h 39 = true → bit h 38 = false → (linkAck x (bits h 51 40)).unacked <+: (t.port p.val).unacked))) ∧
    (∀ (f : Frame) (rest : List Frame) (seq : Fin 4096), x.unacked = f :: rest →
      let Replays (i : Instr) (q : Nat) : Prop := Completes i s fun t =>
        (t.port p.val).unacked.map (fun g => (g.seq, g.tries)) =
          x.unacked.map (fun g => (g.seq, if seqLe q g.seq then g.tries + 1 else g.tries)) ∧
        ((t.port p.val).retrain = true ↔ ∃ g ∈ (t.port p.val).unacked, 16 ≤ g.tries) ∧ t.mem = s.mem
      Replays (.linkReplayTimer p) f.seq ∧ ((∃ g ∈ f :: rest, g.seq = seq.val) → Replays (.linkNak p seq) seq.val))

/-- Ports train, retrain and lose their signal. With start-up in phase 2 or later, PORT_TRAINED of a port without a
link, and from phase 3 PORT_TRAIN_RETRY, gives it 4, 2 or 1 lanes, awaits its neighbour's identification and starts
its receive sequence at 0; a retry that fails on a port with a planned peer raises PORT_DOWN with cause 1, once.
PORT_RETRAIN ends a retrain: with 4, 2 or 1 lanes the port has them, awaits its neighbour's identification and keeps every
frame of its replay buffer; without, it has no link, is DOWN and raises PORT_DOWN with cause 3. PORT_SIGNAL_LOST takes the
link and the service away and raises PORT_DOWN with cause 2. OSFP_INSERT marks the cage's port configured, and trains it as
PORT_TRAINED does. (12_oliene_fabric.md, 18_startup_and_discovery.md, 21_connectors_and_ratings.md) -/
def Obligations.PortsTrainAndGoDown : Prop :=
  ∀ (p : Fin 16) (lanes : Fin 5) (s : State),
    let Up (i : Instr) (q : Nat) : Prop := Completes i s fun t =>
      (t.port q).lanes = lanes.val ∧ (t.port q).rxSeq = 0 ∧ (t.port q).idWait = true ∧ (t.port q).seenMid = 0xFFFF ∧
      (t.port q).retrain = false ∧ t.mem = s.mem
    let Down (i : Instr) (cause : Nat) : Prop := Completes i s fun t =>
      (t.port p.val).lanes = 0 ∧ (t.port p.val).svc = .down ∧ (t.port p.val).unacked = [] ∧ SameBytes s t ∧
      (s.ce.ev.opened = true → ∃ e ∈ t.ce.ev.wait, e.code = 0x40 ∧ e.cause = cause)
    (lanesOk lanes.val = true → s.boot.started = true → (s.port p.val).lanes = 0 →
      (2 ≤ s.boot.phase → Up (.portTrained p lanes) p.val) ∧ (3 ≤ s.boot.phase → Up (.portTrainRetry p lanes) p.val)) ∧
    (lanesOk lanes.val = false → s.boot.started = true → (s.port p.val).lanes = 0 → 3 ≤ s.boot.phase →
      (s.peer p.val).isSome = true → (s.port p.val).failed = false → Completes (.portTrainRetry p lanes) s fun t =>
        t.port p.val = { s.port p.val with failed := true } ∧
        (s.ce.ev.opened = true → ∃ e ∈ t.ce.ev.wait, e.code = 0x40 ∧ e.cause = 1)) ∧
    ((s.port p.val).retrain = true →
      (lanesOk lanes.val = true → Completes (.portRetrain p lanes) s fun t =>
        (t.port p.val).lanes = lanes.val ∧ (t.port p.val).idWait = true ∧ (t.port p.val).retrain = false ∧
        (s.port p.val).unacked.map (·.seq) <+: (t.port p.val).unacked.map (·.seq) ∧ t.mem = s.mem) ∧
      (lanesOk lanes.val = false → Down (.portRetrain p lanes) 3)) ∧
    ((s.port p.val).lanes ≠ 0 → Down (.portSignalLost p) 2) ∧
    Completes (.osfpInsert true lanes) s (fun t => (t.port 15).osfp = true) ∧
    Completes (.osfpInsert false lanes) s (fun t => (t.port 14).osfp = true) ∧
    (lanesOk lanes.val = true → s.boot.started = true → 2 ≤ s.boot.phase →
      ((s.port 15).lanes = 0 → Up (.osfpInsert true lanes) 15) ∧ ((s.port 14).lanes = 0 → Up (.osfpInsert false lanes) 14))

/-- The epoch handshake goes step by step. At the fabric leader JOIN of the last present module that had not joined
starts the rounds, DRAIN_POLL with no requests sent asks every module, LOADED of the last module ends the leader's
part, and HANDSHAKE_TIMEOUT of a silent present module ends it too. At any module DRAIN_COUNT_REQUEST takes the
request, LOAD copies every staged path entry into the other slot, HANDSHAKE_DONE with a group running marks the
handshake complete, and ABORT keeps the switch begun with the silent module named, which only a plan that marks it absent
lifts, and raises the event with code 0x44. (12_oliene_fabric.md) -/
def Obligations.EpochHandshakeAdvances : Prop :=
  ∀ (s : State),
    (∀ (i : Nat) (a : AtRouter),
      (s.inAt i 0x0E ctlJoin = some a → s.isFLeader = true → s.fab.ep.polling = false →
        Completes (.join i) s fun t => t.fab.inbox = dropNth s.fab.inbox i ∧
          t.fab.ep.joiners = addOnce s.fab.ep.joiners a.pkt.src ∧
          (t.fab.ep.polling = true ↔ ∀ m ∈ s.fab.plan.present, m = a.pkt.src ∨ m ∈ s.fab.ep.joiners)) ∧
      (s.inAt i 0x0E ctlCount = some a → Completes (.drainCountRequest i) s fun t =>
        t.fab.inbox = dropNth s.fab.inbox i ∧ t.fab.ep = s.fab.ep) ∧
      (s.inAt i 0x0E ctlLoad = some a → s.fab.ep.cur ≤ 1 → twf 0 s.fab.stPaths = true →
        (∀ e ∈ s.fab.stPaths, e.1 < 1024) → Completes (.load i) s fun t =>
        t.fab.inbox = dropNth s.fab.inbox i ∧
        (∀ m, m < 1024 → tget 0 t.fab.paths (1024 * (1 - s.fab.ep.cur) + m) = tget 0 s.fab.stPaths m % 2 ^ 81) ∧
        (∀ m, m < 1024 → tget 0 t.fab.paths (1024 * s.fab.ep.cur + m) = tget 0 s.fab.paths (1024 * s.fab.ep.cur + m)))
        ∧
      (s.inAt i 0x0E ctlLoaded = some a → s.isFLeader = true → s.fab.ep.loading = true →
        Completes (.loaded i) s fun t =>
          if ∀ m ∈ s.fab.plan.present, m = a.pkt.src ∨ m ∈ s.fab.ep.loadedBy
          then t.fab.ep.polling = false ∧ t.fab.ep.loading = false ∧ t.fab.ep.joiners = []
          else t.fab.ep.loadedBy = addOnce s.fab.ep.loadedBy a.pkt.src ∧ t.fab.ep.loading = true) ∧
      (s.inAt i 0x0E ctlDone = some a → s.runsGroup = true → Completes (.handshakeDone i) s fun t =>
        t.fab.ep.complete = true ∧ t.fab.ep.cur = s.fab.ep.cur) ∧
      (s.inAt i 0x0E ctlAbort = some a → Completes (.abort i) s fun t =>
        t.fab.inbox = dropNth s.fab.inbox i ∧ t.fab.ep = { s.fab.ep with silent := some (fieldAt a.pkt.data 0 2) } ∧
        t.fab.stPaths = s.fab.stPaths ∧ (s.ce.ev.opened = true → ∃ e ∈ t.ce.ev.wait, e.code = 0x44))) ∧
    (s.isFLeader = true → s.fab.ep.polling = true → s.fab.ep.loading = false → s.fab.ep.asked = false →
      Completes .drainPoll s fun t => t.fab.ep.asked = true ∧ t.fab.ep.polling = true) ∧
    (∀ mid, s.isFLeader = true → s.fab.ep.polling = true → s.fab.ep.asked = true → mid ∈ s.fab.plan.present →
      (if s.fab.ep.loading = true then mid ∉ s.fab.ep.loadedBy else ∀ r ∈ s.fab.ep.round, r.1 ≠ mid) →
      Completes (.handshakeTimeout mid) s fun t => t.fab.ep.polling = false ∧ t.fab.ep.joiners = [])

/-- TICK advances, TIME is sent, and a lost parent is left. While the module is on, TICK_ADVANCE adds 655,360 (10^8 +
f + s) units of 10^-8 x 2^-16 ns to TICK with its remainder, f and s counting as 0 in FREE, and changes nothing else. In a state that sends,
TIME_SEND numbers one message for each port in service and counts one packet sent for each. PARENT_TIMEOUT with no
valid message for 5 ms acquires the backup port if that is usable, else enters HOLDOVER with s = 0 and raises the
event with code 0x50. TSYNC at a master with PPS takes the edge's TICK, and moves f, within 100 ppm, by at most 0.01
ppm (a free value, log 12). (13_barriers_and_time.md) -/
def Obligations.TickIsKeptAndSent : Prop :=
  ∀ (s : State),
    (s.pw.off = false → Completes .tickAdvance s fun t =>
      t = { s with tm := { s.tm with tick := t.tm.tick, frac := t.tm.frac } } ∧ t.tm.frac < 100000000 ∧
      t.tm.tick * 100000000 + t.tm.frac =
        s.tm.tick * 100000000 + s.tm.frac +
          655360 * (100000000 + if s.tm.state = .free then 0 else s.tm.f + s.tm.s).toNat) ∧
    (s.tm.state.sends = true → Completes .timeSend s fun t =>
      let n := (List.range 16).countP s.portOk
      t.tm.nseq % 65536 = (s.tm.nseq + n) % 65536 ∧ t.tm = { s.tm with nseq := t.tm.nseq } ∧
      tget 0 t.fab.ep.sent s.fab.ep.cur = tget 0 s.fab.ep.sent s.fab.ep.cur + n ∧ t.mem = s.mem) ∧
    (s.tm.state.follows = true → s.tm.heard + 5000000 * 65536 ≤ s.tm.tick → Completes .parentTimeout s fun t =>
      let b := s.fab.plan.backup
      t.fab = s.fab ∧ t.mem = s.mem ∧ t.tm.tick = s.tm.tick ∧
      if b < 16 ∧ b ≠ s.tm.active ∧ (s.port b).svc = .up then t.tm.state = .acquiring ∧ t.tm.active = b
      else t.tm.state = .holdover ∧ t.tm.s = 0 ∧ (s.ce.ev.opened = true → ∃ e ∈ t.ce.ev.wait, e.code = 0x50)) ∧
    (s.tm.state = .master → s.tm.pps = true → s.tm.f.natAbs ≤ 10000 → Completes .tsync s fun t =>
      t.tm.edge = some s.tm.tick ∧ t.tm.tick = s.tm.tick ∧ (t.tm.f - s.tm.f).natAbs ≤ 1 ∧ t.tm.f.natAbs ≤ 10000 ∧
      (s.tm.edge = none → t.tm.f = s.tm.f))

/-- Messages of the time tree are followed and answered. TIME i on the active port of a module that is LOCKED or
TRACKING and has a delay sample takes the time of hearing, the parent's depth plus 1, its master and SYNCED; f moves
by at most 0.01 ppm within 100 ppm, TICK is not stepped, and the state is ACQUIRING after the fourth message in a row
more than 10 ns off, else LOCKED or TRACKING by SYNCED. TIME on a planned port ends HOLDOVER. DELAY_EXCHANGE_TIMER on
a port in service begins the next exchange. DELAY_REQ leaves the inbox and one packet is sent for it. DELAY_RESP of
the exchange in progress adds the sample (T4 - T1) - (T3 - T2), the last 16 of which are kept.
(13_barriers_and_time.md) -/
def Obligations.TimeMessagesAreFollowed : Prop :=
  ∀ (i p : Nat) (a : AtRouter) (s : State), a.port = some p →
    let d := a.pkt.data
    let Taken (t : State) : Prop := t.fab.inbox = dropNth s.fab.inbox i ∧ t.mem = s.mem
    let Sent (t : State) : Prop := tget 0 t.fab.ep.sent s.fab.ep.cur = tget 0 s.fab.ep.sent s.fab.ep.cur + 1
    (s.inAt i 0x0E 0x10 = some a →
      (s.tm.state = .holdover → p = s.fab.plan.parent ∨ p = s.fab.plan.backup → Completes (.time i) s fun t =>
        Taken t ∧ t.tm.state = .acquiring ∧ t.tm.active = p) ∧
      (s.tm.state = .locked ∨ s.tm.state = .tracking → p = s.tm.active → s.tm.f.natAbs ≤ 10000 →
        ∀ l, (s.port p).delay = some l → Completes (.time i) s fun t =>
          let theta : Int := 4 * ((a.at_ : Int) - ((fieldAt d 0 8 * 65536 + fieldAt d 8 2 : Nat) : Int)) - l
          let wild := if 2621440 < theta.natAbs then s.tm.wild + 1 else 0
          Taken t ∧ t.tm.heard = s.tm.tick ∧ t.tm.tick = s.tm.tick ∧ t.tm.synced = bit (fieldAt d 10 1) 0 ∧
          t.tm.depth = min 15 (fieldAt d 11 1 + 1) ∧ t.tm.master = fieldAt d 12 2 ∧
          (t.tm.f - s.tm.f).natAbs ≤ 1 ∧ t.tm.f.natAbs ≤ 10000 ∧
          t.tm.state = if 4 ≤ wild then .acquiring else if bit (fieldAt d 10 1) 0 = true then .locked else .tracking)) ∧
    (∀ q : Fin 16, s.portOk q.val = true → Completes (.delayExchangeTimer q) s fun t =>
      (t.port q.val).exch = ((s.port q.val).exch + 1) % 65536 ∧ Sent t ∧ t.mem = s.mem ∧ t.tm = s.tm) ∧
    (s.inAt i 0x0E 0x11 = some a → Completes (.delayReq i) s fun t => Taken t ∧ Sent t ∧ t.tm = s.tm) ∧
    (s.inAt i 0x0E 0x12 = some a → ∀ t1, (s.port p).exchT1 = some t1 → fieldAt d 10 2 = (s.port p).exch →
      Completes (.delayResp i) s fun t =>
        let t2 : Int := ((fieldAt d 0 8 * 65536 + fieldAt d 8 2 : Nat) : Int)
        let t3 : Int := ((fieldAt d 16 8 * 65536 + fieldAt d 24 2 : Nat) : Int)
        Taken t ∧ (t.port p).exchT1 = none ∧
        (t.port p).samples = ((((a.at_ : Int) - (t1 : Int)) - (t3 - t2)) :: (s.port p).samples).take 16)

/-- A group goes through its boundary. LOCAL_ARRIVAL of a group whose tiles have arrived, some of them not ended,
numbers the coming step; a group of one module goes to phase 8 with its step number 1 higher, a member of several
modules awaits the cut and a request ARRIVE to the leader waits. A group of one module whose tiles have all ended goes
through no further boundary. FREQUENCY_CHANGE in phase 8 gives the tile clock the state taken at the cut, unless one
taken at a later cut has been applied, and arms a group of one module for 100 ns later, or START if that is later and
the step is 0. ECHO_RELEASE of a die at or after TREL + 40 ns starts each bound tile of that die that waits after its
stagger, and no other tile. ECHO_SLOW_TIMER of a group that waits raises the event with code 0x52 once, a member's
phase 8 being no wait. (13_barriers_and_time.md, 14_clocking.md, 04_program_model_and_timing.md) -/
def Obligations.GroupsPassTheirBoundary : Prop :=
  ∀ (g : Fin 8) (s : State),
    let x := s.group g.val
    let next := (s.stepNo g.val + 1) % 2 ^ 32
    (x.bnd = .step → (s.groupDies g.val).isEmpty = false → s.localArrived g.val = true →
      (s.gmods g.val ≤ 1 → s.allEndedIn g.val = true → Completes (.localArrival g) s fun t =>
        (t.group g.val).bnd = .idle ∧ t.stepNo g.val = s.stepNo g.val ∧ t.mem = s.mem) ∧
      (s.gmods g.val ≤ 1 → s.allEndedIn g.val = false → Completes (.localArrival g) s fun t =>
        (t.group g.val).bnd = .phase8 ∧ (t.group g.val).next = next ∧ t.stepNo g.val = next) ∧
      (1 < s.gmods g.val → s.allEndedIn g.val = false → s.leads g.val = false → Completes (.localArrival g) s fun t =>
        t.group g.val = { x with bnd := .arrived, next := next, since := s.now, slowed := false } ∧ t.mem = s.mem ∧
        ∃ r, t.fab.waiting = s.fab.waiting ++ [r] ∧ r.pkt.dst = x.leader ∧ r.pkt.aux = 0x18 ∧
          r.pkt.data = echoBytes (tget 0 s.img.jgid g.val) next 0)) ∧
    (x.bnd = .phase8 → Completes (.frequencyChange g) s fun t =>
      (s.outdated x = false → t.ck.cur = stateMhz x.target ∧ t.pw.state = x.target) ∧
      (s.outdated x = true → t.ck.cur = s.ck.cur ∧ t.pw.state = s.pw.state) ∧ t.mem = s.mem ∧
      (s.gmods g.val ≤ 1 → (t.group g.val).bnd = .armed ∧
        (t.group g.val).trel = if x.next = 0 then max (s.now + 100) x.start else s.now + 100) ∧
      (1 < s.gmods g.val → s.leads g.val = false → (t.group g.val).bnd = .done ∧
        ∃ r, t.fab.waiting = s.fab.waiting ++ [r] ∧ r.pkt.dst = x.leader ∧ r.pkt.aux = 0x1A)) ∧
    (∀ d : Fin 8, x.bnd = .armed → s.groupOf d.val = some g.val → d.val ∉ x.released → x.trel + 40 ≤ s.now →
      Completes (.echoRelease g d) s fun t => t.mem = s.mem ∧
        (∀ k, t.tile k = if k / 256 = d.val ∧ k % 256 ∈ s.boundTiles d.val
          then releaseTile (tget 0 s.img.stagger k) (s.die d.val).cyc (s.tile k) else s.tile k) ∧
        if ∀ e ∈ s.groupDies g.val, e ∈ x.released ∨ e = d.val
        then (t.group g.val).bnd = .step ∧ (t.group g.val).released = []
        else (t.group g.val).released = x.released ++ [d.val] ∧ (t.group g.val).bnd = .armed) ∧
    (1 < s.gmods g.val → x.bnd = .arrived ∨ x.bnd = .done ∨ s.leads g.val = true ∧ x.bnd = .phase8 → x.slowed = false →
      x.since + s.tm.slow * 1000000 ≤ s.now → Completes (.echoSlowTimer g) s fun t =>
        (t.group g.val).slowed = true ∧ t.mem = s.mem ∧ (s.ce.ev.opened = true → ∃ e ∈ t.ce.ev.wait, e.code = 0x52))

/-- Echo messages are counted, answered, or stale. At the leader ARRIVE of a module that had not arrived, for the
awaited step, is counted, and the last one takes the cut; DONE of a module that was not done is counted, and the last
one arms the release for LEAD later. At a member CUT takes the arrived group to phase 8, and ARM at least 100 ns ahead
arms it for TREL, else arms it for 100 ns later and raises the event with code 0x53. A message for no group of this
module, role or awaited step is counted as stale and changes no group. (13_barriers_and_time.md) -/
def Obligations.EchoMessagesAreTaken : Prop :=
  ∀ (i : Nat) (a : AtRouter) (s : State),
    let src := a.pkt.src
    let Stale (c : Instr) : Prop := Completes c s fun t => t.fab.inbox = dropNth s.fab.inbox i ∧
      t.tm.stale = count64 s.tm.stale ∧ t.groups = s.groups ∧ t.mem = s.mem
    (s.inAt i 0x0E 0x18 = some a → (s.echoFor a.pkt true = none → Stale (.arrive i)) ∧
      ∀ g, s.echoFor a.pkt true = some g → src ∉ (s.group g).arrives → (s.group g).bnd ≠ .idle →
        ((s.group g).arrives.length + 1 < s.gmods g → Completes (.arrive i) s fun t =>
          t.group g = { s.group g with arrives := (s.group g).arrives ++ [src] } ∧ t.mem = s.mem ∧
          t.fab.inbox = dropNth s.fab.inbox i) ∧
        ((s.group g).arrives.length + 1 = s.gmods g → (s.group g).bnd = .arrived → (s.group g).cut = false →
          Completes (.arrive i) s fun t => (t.group g).bnd = .phase8 ∧ (t.group g).cut = true)) ∧
    (s.inAt i 0x0E 0x19 = some a → (s.echoFor a.pkt false = none → Stale (.cut i)) ∧
      ∀ g, s.echoFor a.pkt false = some g → (s.group g).bnd = .arrived → Completes (.cut i) s fun t =>
        (t.group g).bnd = .phase8 ∧ t.stepNo g = (s.stepNo g + 1) % 2 ^ 32) ∧
    (s.inAt i 0x0E 0x1A = some a → (s.echoFor a.pkt true = none → Stale (.done i)) ∧
      ∀ g, s.echoFor a.pkt true = some g → src ∉ (s.group g).dones → (s.group g).bnd ≠ .idle → (s.group g).bnd ≠ .step →
        ((s.group g).dones.length + 1 < s.gmods g → Completes (.done i) s fun t =>
          t.group g = { s.group g with dones := (s.group g).dones ++ [src] } ∧ t.mem = s.mem) ∧
        ((s.group g).dones.length + 1 = s.gmods g → (s.group g).bnd = .done → Completes (.done i) s fun t =>
          (t.group g).bnd = .armed ∧ t.mem = s.mem ∧
          (t.group g).trel = if (s.group g).next = 0 then max (s.now + s.tm.lead) (s.group g).start
            else s.now + s.tm.lead)) ∧
    (s.inAt i 0x0E 0x1B = some a → (s.echoFor a.pkt false = none → Stale (.arm i)) ∧
      ∀ g, s.echoFor a.pkt false = some g → (s.group g).bnd = .done → Completes (.arm i) s fun t =>
        let trel := fieldAt a.pkt.data 8 8
        t.group g = { s.group g with bnd := .armed, trel := if s.now + 100 ≤ trel then trel else s.now + 100 } ∧
        (trel < s.now + 100 → t.tm.late = count64 s.tm.late ∧
          (s.ce.ev.opened = true → ∃ e ∈ t.ce.ev.wait, e.code = 0x53)) ∧ t.mem = s.mem)

/-- Rings are written, signalled and disabled. COMPLETION_ENTRY_WRITE of a ring with an entry waiting and room puts
the entry's bytes at the tail, the new tail in the writeback word, and no other host byte changes; the submission ring
of a reply may be taken again. EVENT_RECORD_WRITE writes EVENT_LOST first when it is due, else the first waiting
event, which a full ring loses and counts. MSIX_SIGNAL_TIMER with unsignalled entries and MTIME not 0 raises the
vector, or marks it pending where it or the function is masked. HOST_MEMORY_ACCESS_ERROR of an enabled submission, completion or event
ring disables it and raises the event with code 0x0005 and cause 2; of the export record written last, drops that
record and counts it. (17_command_interface.md) -/
def Obligations.RingsAreWritten : Prop :=
  ∀ (s : State),
    let Kept (t : State) (p n wb : Nat) : Prop := ∀ a, (a < p ∨ p + n ≤ a) → (a < wb ∨ wb + 4 ≤ a) →
      mget t.mem.host a = mget s.mem.host a
    let Raises (t : State) (code cause : Nat) : Prop := s.ce.ev.opened = true →
      ∃ e ∈ t.ce.ev.wait, e.code = code ∧ e.cause = cause
    (∀ (q : Fin 64) (e : CqEntry) (rest : List CqEntry), (s.cqr q.val).wait = e :: rest → (s.cqr q.val).room = true →
      s.tw.fenced = false → e.bytes.length = 32 → Completes (.completionEntryWrite q) s fun t =>
        let r := s.cqr q.val
        let p := r.base + 32 * r.tail
        (t.cqr q.val).tail = (r.tail + 1) % r.size ∧ (t.cqr q.val).wait = rest ∧
        t.hostBytes r.wb 4 = leBytes 4 ((r.tail + 1) % r.size) ∧
        (p + 32 ≤ r.wb ∨ r.wb + 4 ≤ p → t.hostBytes p 32 = e.bytes) ∧ Kept t p 32 r.wb ∧
        t.mem = { s.mem with host := t.mem.host } ∧ ∀ sq, e.sq = some sq → (t.sqr sq).busy = false) ∧
    (s.ce.ev.en = true → let r := s.ce.ev
      (r.room = true → r.lostNew ≠ 0 → Completes .eventRecordWrite s fun t =>
        t.ce.ev.tail = (r.tail + 1) % r.size ∧ t.ce.ev.lostNew = 0 ∧ t.ce.ev.wait = r.wait ∧
        t.ce.ev.seq = (r.seq + 1) % 2 ^ 32 ∧ Kept t (r.base + 32 * r.tail) 32 r.wb) ∧
      (r.room = true → r.lostNew = 0 → ∀ e rest, r.wait = e :: rest → Completes .eventRecordWrite s fun t =>
        t.ce.ev.tail = (r.tail + 1) % r.size ∧ t.ce.ev.wait = rest ∧ Kept t (r.base + 32 * r.tail) 32 r.wb ∧
        (r.base + 32 * r.tail + 32 ≤ r.wb ∨ r.wb + 4 ≤ r.base + 32 * r.tail →
          t.hostBytes (r.base + 32 * r.tail) 32 = e.bytes)) ∧
      (r.room = false → ∀ e rest, r.wait = e :: rest → Completes .eventRecordWrite s fun t =>
        t.ce.ev.wait = rest ∧ t.ce.ev.lost = count64 r.lost ∧ t.ce.ev.lostNew = r.lostNew + 1 ∧ t.mem = s.mem)) ∧
    (∀ n : Fin 65,
      let vec := if n.val < 64 then (s.cqr n.val).vec else s.ce.ev.vec
      (if n.val < 64 then (s.cqr n.val).unsig ≠ 0 ∧ (s.cqr n.val).mtime ≠ 0
        else s.ce.ev.unsig ≠ 0 ∧ s.ce.ev.mtime ≠ 0) → Completes (.msixSignalTimer n) s fun t =>
          (if n.val < 64 then (t.cqr n.val).unsig = 0 else t.ce.ev.unsig = 0) ∧ t.mem = s.mem ∧
          if s.ce.msixEn = false then t.ce.irqs = s.ce.irqs ∧ t.ce.msixPend = s.ce.msixPend
          else if s.ce.fnMask = true ∨ bit (s.msixWord (4 * vec + 3)) 0 = true then
            bit t.ce.msixPend vec = true ∧ t.ce.irqs = s.ce.irqs
          else tget 0 t.ce.irqs vec = tget 0 s.ce.irqs vec + 1) ∧
    (∀ i : Fin 65536,
      ((s.sqr i.val).en = true → Completes (.hostMemoryAccessError 0 i) s fun t =>
        (t.sqr i.val).en = false ∧ Raises t 0x0005 2) ∧
      ((s.cqr i.val).en = true → Completes (.hostMemoryAccessError 1 i) s fun t =>
        (t.cqr i.val).en = false ∧ Raises t 0x0005 2) ∧
      (s.ce.ev.en = true → Completes (.hostMemoryAccessError 2 i) s fun t =>
        t.ce.ev.en = false ∧ Raises t 0x0005 2) ∧
      (s.sv.expLast ≠ 0 → Completes (.hostMemoryAccessError 6 i) s fun t =>
        t.sv.expTail = (s.sv.expTail + s.sv.expSize - s.sv.expLast) % s.sv.expSize ∧
        t.sv.expDrop = count64 s.sv.expDrop ∧ t.mem = s.mem))

/-- Clocks are watched. REF_MONITOR that finds the oscillator wrong stops every compute die, leaves the time state
HOLDOVER and raises CLOCK_FAULT with cause 1; that finds it right clears the fault. CROSSING_DETECT of a move of 16 or
more marks the die for realignment; of 28 or more it also stops the die and raises cause 2. MARGIN_SAMPLE of a clocked
region keeps the least slack seen; a monitor below LOW for the eighth sample asks for one slower state with cause 1 of
MARGIN_LOW, and one below CRIT for the second sample makes the module fall back to 400 MHz with cause 2.
PLL_LOCK_TIMEOUT while a change of the tile clock is due, idle or in phase 8, leaves 400 MHz, sets the lock limiter and
raises CLOCK_FAULT with cause 3; in phase 8 the boundary goes on. FREQ_APPLY_IDLE gives the tile clock the target.
(14_clocking.md) -/
def Obligations.ClocksAreWatched : Prop :=
  ∀ (s : State),
    let Raises (t : State) (code cause : Nat) : Prop := s.ce.ev.opened = true →
      ∃ e ∈ t.ce.ev.wait, e.code = code ∧ e.cause = cause
    (s.pw.off = false →
      Completes (.refMonitor true) s (fun t => t = { s with ck := { s.ck with refFault := false } }) ∧
      (s.ck.refFault = false → Completes (.refMonitor false) s fun t => t.ck.refFault = true ∧ t.tm.state = .holdover ∧
        (∀ d, d < 8 → (t.die d).stop.ref = true) ∧ t.mem = s.mem ∧ Raises t 0x60 1)) ∧
    (∀ (d : Fin 8) (x : BitVec 16) (move : Nat), s.clockOff d.val = false →
      (28 ≤ move → (s.die d.val).stop.xing = false → Completes (.crossingDetect d x move) s fun t =>
        t.die d.val = { s.die d.val with stop := { (s.die d.val).stop with xing := true } } ∧ t.mem = s.mem ∧
        bit t.ck.pending d.val = true ∧ Raises t 0x60 2) ∧
      (16 ≤ move → move < 28 → Completes (.crossingDetect d x move) s fun t =>
        bit t.ck.pending d.val = true ∧ t = { s with ck := { s.ck with pending := t.ck.pending } })) ∧
    (∀ (r : Fin 24) (v : BitVec 8) (rest : List (BitVec 8)), s.clockOff (r.val / 3) = false →
      Completes (.marginSample r (v :: rest)) s fun t =>
        let l := ((v :: rest).take (monitorsOf r.val)).map BitVec.toNat
        (∀ x ∈ l, 255 - x ≤ tget 0 t.ck.marginMin r.val) ∧
        tget 0 s.ck.marginMin r.val ≤ tget 0 t.ck.marginMin r.val ∧ t.mem = s.mem ∧ t.tiles = s.tiles ∧
        ((∃ m x, l[m]? = some x ∧ x < s.ck.low ∧ 7 ≤ tget 0 s.ck.lowRun (r.val * 16 + m)) →
          tget 0 s.ck.lowAt r.val = 0 →
          t.pw.margin = max s.pw.margin (min 14 (s.pw.state + 1)) ∧ Raises t 0x62 1) ∧
        ((∃ m x, l[m]? = some x ∧ x < s.ck.crit ∧ 1 ≤ tget 0 s.ck.critRun (r.val * 16 + m)) →
          t.ck.cur = 400 ∧ t.pw.state = 14 ∧ Raises t 0x62 2)) ∧
    (∀ d : Fin 8, (∀ g, g < 8 → (s.group g).bnd ≠ .phase8) →
      s.idleClock = true → stateMhz s.target ≠ s.ck.cur → Completes (.pllLockTimeout d) s fun t =>
        t.ck.cur = 400 ∧ t.pw.state = 14 ∧ t.pw.lock = 14 ∧ t.mem = s.mem ∧ Raises t 0x60 3) ∧
    (∀ (d g : Fin 8), (s.group g.val).bnd = .phase8 → s.outdated (s.group g.val) = false →
      stateMhz (s.group g.val).target ≠ s.ck.cur → (∀ h, h < g.val → (s.group h).bnd ≠ .phase8) →
      Completes (.pllLockTimeout d) s fun t => t.ck.cur = 400 ∧ t.pw.state = 14 ∧ t.pw.lock = 14 ∧ t.mem = s.mem ∧
        (t.group g.val).bnd ≠ .phase8 ∧ Raises t 0x60 3) ∧
    (s.pw.off = false → s.idleClock = true → stateMhz s.target ≠ s.ck.cur → Completes .freqApplyIdle s fun t =>
      t.ck.cur = stateMhz s.target ∧ t.pw.state = s.target ∧ t.mem = s.mem)

/-- Power and temperature move the limiters. While the module is on: POWER_MEASURE adds both inputs to ENERGY.
CAP_WINDOW opens the next window; with no cap the cap limiter is P0, above the cap it is one state slower (at most
P14), and after three windows below it by HYST and a fourth it is one faster. THERMAL_SAMPLE takes the hottest sensor;
two sensors of a die at 110 C twice turn the module off with THERMTRIP; else from 100 C it runs at 400 MHz with the
thermal limiter at P14. COOLANT_CHECK keeps the averages and raises COOLANT for each condition first met. REG_ALERT
sets the alert limiter and the state to P14 and raises its event. The easing rows take 1 from their limiter,
LOCK_CLEAR all of it. STORAGE_GATE_DELAY drops the storage that PW_GATE selects, the tiles with their scratchpads, and
no other.
(15_power_and_thermal.md) -/
def Obligations.LimitersMove : Prop :=
  ∀ (s : State), s.pw.off = false →
    let p := s.pw
    let Raises (t : State) (code cause : Nat) : Prop := s.ce.ev.opened = true →
      ∃ e ∈ t.ce.ev.wait, e.code = code ∧ e.cause = cause
    (∀ a b va vb : BitVec 16, Completes (.powerMeasure a b va vb) s fun t =>
      t.pw.energy = p.energy + a.toNat + b.toNat ∧ t.pw.vA = va.toNat ∧ t.pw.vB = vb.toNat ∧ t = { s with pw := t.pw }) ∧
    (Completes .capWindow s fun t => t.pw.capSum = 0 ∧ t.pw.capN = 0 ∧ t.mem = s.mem ∧
      (p.watts = 0 → t.pw.cap = 0) ∧
      (p.watts ≠ 0 → 10 * p.watts * p.capN < p.capSum → t.pw.cap = min 14 (p.cap + 1)) ∧
      (p.watts ≠ 0 → p.capSum + 10 * p.hyst * p.capN < 10 * p.watts * p.capN → 3 ≤ p.calm → t.pw.cap = p.cap - 1)) ∧
    (∀ l : List (Nat × Nat × BitVec 16),
      let q := l.foldl readSensor p
      let new := (q.temps.filter (fun e => decide (1100 ≤ signedOf 16 (e.2 - 1)))).map (·.1)
      let listed := (l.filter (fun r => decide (r.2.1 < sensorsOf r.1))).map (fun r => r.1 * 16 + r.2.1)
      q.temps ≠ [] →
        (tripsAt p.hot new listed = true → Completes (.thermalSample l) s fun t =>
          t.pw.off = true ∧ t.pw.thermtrip = true ∧ t.boot.lastOff = 3 ∧ t.mem = { host := s.mem.host }) ∧
        (tripsAt p.hot new listed = false → Completes (.thermalSample l) s fun t =>
          t.pw.tj = unsignedOf 16 q.hottest.1 ∧ t.pw.tjSrc = q.hottest.2 ∧ t.mem = s.mem ∧
          (1000 ≤ q.hottest.1 → t.ck.cur = 400 ∧ t.pw.therm = 14 ∧ t.pw.state = 14))) ∧
    (0 < p.therm → p.coolAt ≠ 0 → p.coolAt - 1 + 10000000 ≤ s.now → Completes .thermalEase s fun t =>
      t = { s with pw := { p with therm := p.therm - 1, coolAt := p.coolAt + 10000000 } }) ∧
    (∀ i o f : BitVec 16, Completes (.coolantCheck i o f) s fun t =>
      t.pw.inlet = i.toNat ∧ t.pw.outlet = o.toNat ∧ t.pw.flow = f.toNat ∧ t.mem = s.mem ∧
      (tget 0 p.coolantAt 1 = 0 → (i.toInt < 150 ∨ 400 < i.toInt) → Raises t 0x77 1) ∧
      (tget 0 p.coolantAt 2 = 0 → f.toNat < 200 → Raises t 0x77 2) ∧
      (tget 0 p.coolantAt 3 = 0 → 250 < o.toInt - i.toInt → Raises t 0x77 3)) ∧
    (∀ n : Fin 12, n.val ≠ 0 → Completes (.regAlert n) s fun t =>
      t.pw.alert = 14 ∧ t.pw.state = 14 ∧ t.pw.alertAt = s.now + p.hold * 1000000 ∧
      (p.state ≠ 14 → t.ck.cur = 400) ∧ t.mem = s.mem ∧ Raises t 0x75 n.val) ∧
    (0 < p.alert → p.alertAt ≤ s.now → Completes .alertEase s fun t =>
      t = { s with pw := { p with alert := p.alert - 1, alertAt := s.now + 1000000 } }) ∧
    (0 < p.margin → p.marginAt ≤ s.now → Completes .marginEase s fun t =>
      t = { s with pw := { p with margin := p.margin - 1, marginAt := s.now + 1000000000 } }) ∧
    (0 < p.lock → p.lockAt ≤ s.now → Completes .lockClear s fun t => t = { s with pw := { p with lock := 0 } }) ∧
    (s.ce.state = .ended → p.endAt ≠ 0 → p.gateSpad = true ∧ p.spadOff = false ∨ p.gateCav = true ∧ p.cavOff = false →
      p.endAt - 1 + p.gateDelay * 1000000 ≤ s.now → Completes .storageGateDelay s fun t =>
        t.mem.spad = (if p.gateSpad = true then [] else s.mem.spad) ∧
        t.mem.cav = (if p.gateCav = true then [] else s.mem.cav) ∧ t.mem.host = s.mem.host ∧
        (∀ k, t.tile k = if p.gateSpad = true then { seq := (s.tile k).seq } else s.tile k) ∧
        (p.gateSpad = true → t.pw.spadOff = true) ∧ (p.gateCav = true → t.pw.cavOff = true))

/-- One frequency for a job is announced and taken. THROTTLE_ANNOUNCE of a member whose local limit changed, at most
every 100 µs per leader, numbers the announcement and sends THROTTLE to the leader. THROTTLE i of a known job that is not older
than the last is kept for its member; JOBFREQ i is the job state of its group, at most P14. Each leaves the inbox, and
memory stays. (15_power_and_thermal.md) -/
def Obligations.JobFrequencyIsShared : Prop :=
  ∀ (s : State),
    (∀ g : Fin 8, s.img.loaded = true → 1 < s.gmods g.val → s.leads g.val = false →
      tget 0 s.pw.annLim g.val ≠ s.pw.localLimit + 1 →
      tget 0 s.pw.annAt (s.group g.val).leader = 0 ∨ tget 0 s.pw.annAt (s.group g.val).leader - 1 + 100000 ≤ s.now →
      Completes (.throttleAnnounce g) s fun t =>
        tget 0 t.pw.annSeq g.val = (tget 0 s.pw.annSeq g.val + 1) % 2 ^ 32 ∧
        tget 0 t.pw.annLim g.val = s.pw.localLimit + 1 ∧ t.mem = s.mem ∧
        ∃ r, t.fab.waiting = s.fab.waiting ++ [r] ∧ r.pkt.dst = (s.group g.val).leader ∧ r.pkt.aux = 0x20) ∧
    (∀ (i g : Nat) (a : AtRouter), s.groupOfJg (fieldAt a.pkt.data 0 2) = some g →
      (s.inAt i 0x0E 0x20 = some a →
        (tget 0 s.pw.limits (jobKey g a.pkt.src) ≠ 0 →
          seqPrecedes (fieldAt a.pkt.data 4 4) ((tget 0 s.pw.limits (jobKey g a.pkt.src) - 1) / 16) = false) →
        Completes (.throttle i) s fun t =>
          tget 0 t.pw.limits (jobKey g a.pkt.src) =
            1 + min 14 (fieldAt a.pkt.data 2 1) + 16 * fieldAt a.pkt.data 4 4 ∧
          t.fab.inbox = dropNth s.fab.inbox i ∧ t.mem = s.mem) ∧
      (s.inAt i 0x0E 0x21 = some a → Completes (.jobfreq i) s fun t =>
        tget 0 t.pw.job g = min 14 (fieldAt a.pkt.data 2 1) ∧ t.fab.inbox = dropNth s.fab.inbox i ∧ t.mem = s.mem))

/-- Serving instructions copy lane records, hand over slices and report stops. Where they raise no fault: SLANES fixes
the lane records, or the tokens of a lane, at issue, and run by itself its job has put them at the lines from DLINE on
of its own scratchpad and written nothing else; SEMIT opens a transaction, and run by itself its job has handed the
header line and the NL lines as they stand to the serving engine and written no memory; SSTOP keeps the smallest code
reported for a filled lane. SEMIT_SLICE waits while no path leads from the tile's die to the serving engine; else it
takes its slice, acknowledges it, counts a malformed header, and gives a filled main row the logits that lie below
VOCAB. (09_serving_engine.md) -/
def Obligations.ServingInstructionsAct : Prop :=
  ∀ (s : State),
    (∀ x : Site, s.canIssue x .nx = true → s.busyRes x.key .nxServe = false →
      let k := x.key
      let c := s.cycAt k
      (∀ (sel : BitVec 1) (m : BitVec 10) (lane : BitVec 5) (dline : BitVec 14),
        let bs := s.laneBytes sel.toNat m.toNat lane.toNat
        let n := bs.length / 64
        let off (i : Nat) : Nat := (dline.toNat + i) % 16384 * 64
        (sel = 1 ∨ lane = 0) → s.modelOfTile k m.toNat = true → bs.length ≤ 2 ^ 20 →
        Completes (.slanes x sel m lane dline) s fun t =>
          Leaves k .nx ((s.tile k).held c .nxServe n (n + 6)) (n + 6) s t fun v v' =>
            (∀ i, i < n → v.bankOn k (off i) = true ∧ ∀ b, b < 64 → v.inCode k (off i + b) = false) →
            (∀ j y, bs[j]? = some y → v'.spByte k (off (j / 64) + j % 64) = y) ∧ RanIn k v v' ∧ v'.tile k = v.tile k ∧
            ∀ a, (∀ i, i < n → a < spKey k (off i) ∨ spKey k (off i) + 64 ≤ a) →
              mget v'.mem.spad a = mget v.mem.spad a) ∧
      (∀ (src : BitVec 14) (nl : BitVec 11) (pace : BitVec 6), nl ≠ 0 → pace.toNat ≤ 16 →
        let offs := (List.range (nl.toNat + 1)).map fun i => (src.toNat + i) % 16384 * 64
        let p := moveOccupancy (nl.toNat + 1) (if pace = 0 then 16 else pace.toNat)
        Completes (.semit x src nl pace) s fun t => ∃ u : Txn, u.id = s.net.nextId ∧ u.from_ = .tile x ∧
          u.more = true ∧ u.beats.map (·.st) = [.out] ∧
          let s1 := { s with net := { s.net with txns := s.net.txns ++ [u], nextId := s.net.nextId + 1 } }
          Leaves k .nx ({ s.tile k with outst := (s.tile k).outst + 1 }.held c .nxServe p 1) p s1 t fun v v' =>
            (∀ o ∈ offs, v.bankOn k o = true) → v.txn? u.id = some u →
            v'.sv = { v.sv with slices := v.sv.slices ++ [{ tile := k, line := src.toNat
                                                            data := offs.flatMap fun o => v.spBytes k o 64
                                                            txn := u.id }] } ∧
            v'.txn? u.id = some { u with more := false } ∧ v'.mem = v.mem ∧ v'.tiles = v.tiles) ∧
      (∀ (m : BitVec 10) (lane : BitVec 5) (code : BitVec 8), s.modelOfTile k m.toNat = true →
        Completes (.sstop x m lane code) s fun t =>
          let old := tget 0 s.sv.sstops (m.toNat * 32 + lane.toNat)
          tget 0 t.sv.sstops (m.toNat * 32 + lane.toNat) =
            (if (s.grantAt m.toNat lane.toNat).isSome = true then
              (if old = 0 then code.toNat + 1 else min old (code.toNat + 1)) else old) ∧
          t.mem = s.mem ∧ ∀ j, j ≠ k → t.tile j = s.tile j)) ∧
    (∀ (i : Nat) (sl : Slice), s.sv.slices[i]? = some sl →
      let h := emitHeader sl.data
      (s.pathUp (sl.tile / 256) servingDie = false → exec (.semitSlice i) s = .next s) ∧
      (s.pathUp (sl.tile / 256) servingDie = true → Completes (.semitSlice i) s fun t =>
        t.sv.slices = dropNth s.sv.slices i ∧ t.mem = s.mem ∧
        (∀ u, s.txn? sl.txn = some u →
          t.txn? sl.txn = some { u with beats := u.beats.map fun b => { b with st := .back 0 } }) ∧
        (h.bad = true → t.sv.emitBad = count64 s.sv.emitBad ∧ t.sv.grants = s.sv.grants) ∧
        (h.bad = false → ∀ g, s.grantAt h.midx h.lane = some g → g.sample = true → h.pidx ≤ g.d → g.isDraft = false →
          ∃ g', t.grantAt h.midx h.lane = some g' ∧
            (g'.row h.pidx).tiles = (g.row h.pidx).tiles ++ [(sl.tile, sl.line)] ∧
            (g'.row h.pidx).count = (g.row h.pidx).count + (List.range (sliceLogits sl.data).length).countP
              (fun j => decide (h.vbase + j < (s.model h.midx).vocab)))))

/-- Feeds, prompts, parks and expiry. GAUNTLET_FEED of a base request whose main decision is made and whose tiles a path
reaches answers it: with one tile, the 16 B of the feed stand at the header line from byte 8 on. PROMPT_FETCH of the entry whose turn it is, and
PROMPT_FETCH_RETRY of one that failed, stage the tokens of the next prefill grant as host memory holds them, or mark
the input bad. PARK_WRITEOUT_DONE puts the image at PARKADDR and no other host byte changes. RESTORE_READIN_DONE takes
an image whose CRC is right, and gives up one whose CRC is wrong with the event of code 0x22 and cause 2.
PARK_EXPIRY_CHECK frees the entries whose time is over, with the next generation, and changes no other entry.
(09_serving_engine.md, 10_speculative_verification.md) -/
def Obligations.PromptsParksAndFeeds : Prop :=
  ∀ (s : State),
    (∀ (m : BitVec 10) (l : BitVec 5) (main : Nat) (g : Grant) (d : Decision),
      s.mainOf m.toNat = some main → s.grantAt m.toNat l.toNat = some g → g.isDraft = true → g.kind = 2 →
      (g.row 0).fed = false → (g.row 0).tiles ≠ [] → s.feedPath (g.row 0) = true → s.decided main l.toNat = some d →
      let e := s.entry g.slot
      let live := d.ends.isSome = false ∧ s.turnEnds e d.tokens = false ∧ d.tokens ≠ []
      Completes (.gauntletFeed m l 0) s fun t =>
        (∃ g', t.grantAt m.toNat l.toNat = some g' ∧ (g'.row 0).fed = true ∧
          (live → (g'.row 0).drawn = d.tokens.getLast?) ∧ (¬ live → (g'.row 0).drawn = none)) ∧
        ∀ k line, (g.row 0).tiles = [(k, line)] → s.bankOn k (line * 64 + 8) = true →
          (∀ b, b < 16 → s.inCode k (line * 64 + 8 + b) = false) → ∀ b, b < 16 →
          let x := d.tokens.getLast?.getD 0
          let feed := if live then
              (if e.lv = true then feedBytes x 0 (e.npos + d.tokens.length - 1) 1 0 else feedBytes e.last x (e.npos - 1) 2 0)
            else feedBytes 0 0 0 0 0
          t.spByte k (line * 64 + 8 + b) = (feed[b]?).getD 0) ∧
    (∀ i : Fin 65536,
      let e := s.entry i.val
      let n := s.nextChunk e
      let toks := (if e.ownFirst = true then [e.last] else []) ++
        (List.range (if e.ownFirst = true then n - 1 else n)).map fun j => leNat (s.hostBytes (e.prompt + 4 * j) 4)
      let Fetches (c : Instr) : Prop := Completes c s fun t => t.mem = s.mem ∧ (t.entry i.val).retry = false ∧
        if ∀ v ∈ toks, v < (s.model e.midx).vocab ∧ v < 2 ^ 18
        then (t.entry i.val).staged = toks ∧ (t.entry i.val).badInput = e.badInput
        else (t.entry i.val).badInput = true ∧ (t.entry i.val).staged = e.staged
      (s.wantsPrompt e = true → 4 * (s.stagedTokens + n) ≤ 16 * 2 ^ 20 →
        (e.retry = false → (∀ o ∈ s.sv.entries, s.wantsPrompt o.2 = true → o.2.retry = false →
          seqBefore o.2.aseq e.aseq = false) → Fetches (.promptFetch i)) ∧
        (e.retry = true → Fetches (.promptFetchRetry i))) ∧
      (∀ image pins, e.transfer = .writing image pins → Completes (.parkWriteoutDone i) s fun t =>
        t.entry i.val = { e with transfer := .written [] } ∧ t.hostBytes e.parkAddr image.length = image ∧
        t.mem = { s.mem with host := t.mem.host } ∧
        ∀ a, (a < e.parkAddr ∨ e.parkAddr + image.length ≤ a) → mget t.mem.host a = mget s.mem.host a) ∧
      (∀ root, e.transfer = .reading root →
        let image := s.hostBytes e.parkAddr (parkSize (s.model e.midx) e.cls e.w)
        Completes (.restoreReadinDone i) s fun t =>
          if fieldAt image 0x10 4 = (crc32 (image.drop 0x40)).toNat then t.entry i.val = { e with transfer := .read root }
          else t.entry i.val = { e with transfer := .none, xfer := false } ∧ SameBytes s t ∧
            (s.ce.ev.opened = true → ∃ v ∈ t.ce.ev.wait, v.code = 0x22 ∧ v.cause = 2))) ∧
    Completes .parkExpiryCheck s fun t => t.mem = s.mem ∧ ∀ i,
      let e := s.entry i
      t.entry i = if e.state = .parked ∧ e.xfer = false ∧ e.shadow = false ∧ e.restoreRec = false ∧ e.expiry ≠ 0 ∧
        e.expiry ≤ s.now then { gen := (e.gen + 1) % 65536 } else e

/-- Twins pair, take mirror points, notices and forwards. PAIR keeps what it says of the far end, answers when asked
while an image is loaded, and ends an exchange of TWIN_CFG: paired, with the interval and the alternate path that it
asked for, where the IMAGE_IDs agree, else as before. PAIR_EXCHANGE_TIMEOUT
ends it unpaired with its reply. From the twin, for the point that its group awaits while the group runs a step: ENTRY
and FRAME are kept, once each, and POINT_END gives the counts and the step. POINT_INSTALL of a placed point records it and makes
the shadows of its entries. NOTICE gives its shadow's EMITPOS and EV and marks it freed, FORWARD is kept with its shadow in
order, and FORWARD_REPLY_TIMEOUT releases the replies that wait for that forward. (16_faults_and_failover.md) -/
def Obligations.TwinsPairAndMirror : Prop :=
  ∀ (i : Nat) (a : AtRouter) (s : State),
    let p := a.pkt
    let d := p.data
    let seq := p.aux / 256
    let Taken (t : State) : Prop := t.fab.inbox = dropNth s.fab.inbox i
    (s.inAt i 0x0E 0x34 = some a → Completes (.pair i) s fun t => Taken t ∧ SameBytes s t ∧
      t.tw.seen = some (fieldAt d 0 2, fieldAt d 8 8) ∧
      (fieldAt d 2 1 = 0 → s.img.loaded = true → ∃ r, t.fab.router = s.fab.router ++ [r] ∧ r.pkt.path = twinPath ∧
        r.pkt.aux = 0x34 ∧ r.pkt.data = pairBytes s 1) ∧
      (s.tw.asking = true → (∃ q, s.peer 15 = some (fieldAt d 0 2, q)) → t.tw.asking = false ∧
        (∀ h ∈ t.ce.held, h.why ≠ .pair) ∧
        (fieldAt d 8 8 = s.img.id → t.tw.paired = true ∧ t.tw.mid = fieldAt d 0 2 ∧ t.tw.heard = s.now ∧
          (t.tw.interval, t.tw.alt) = s.tw.asked) ∧
        (fieldAt d 8 8 ≠ s.img.id → t.tw.paired = s.tw.paired ∧ (t.tw.interval, t.tw.alt) = (s.tw.interval, s.tw.alt)))) ∧
    (s.tw.asking = true → Completes .pairExchangeTimeout s fun t => t.tw = { s.tw with asking := false } ∧
      t.ce.held = s.ce.held.filter (fun h => decide (h.why ≠ .pair)) ∧ t.mem = s.mem) ∧
    (s.fromTwin p = true → s.ce.state = .running →
      (∀ g, g < 8 → (s.group g).bnd ≠ .idle → s.pointAtOf g seq = .live →
        let l := s.landing g
        (s.inAt i 0x0D 0x01 = some a → fieldAt d 8 1 = g → Completes (.entry i) s fun t => Taken t ∧ t.mem = s.mem ∧
          t.landing g = { l with entries := l.entries.filter (fun e => e.1 != fieldAt d 0 4) ++
            [(fieldAt d 0 4, fieldAt d 4 4, (d.drop 16).take 128)] }) ∧
        (s.inAt i 0x0D 0x02 = some a → s.groupOfHandle (fieldAt d 0 4) = some g → Completes (.frame i) s fun t =>
          Taken t ∧ t.mem = s.mem ∧
          (l.frames.any (fun f => f.1 == fieldAt d 0 4 && f.2.1 == fieldAt d 4 4 && f.2.2.1 == fieldAt d 8 1 % 8) = false →
            t.landing g = { l with frames := l.frames ++
              [(fieldAt d 0 4, fieldAt d 4 4, fieldAt d 8 1 % 8, (d.drop 16).take 1024, p.badFrom 16 1024)] })) ∧
        (s.inAt i 0x0D 0x03 = some a → fieldAt d 0 1 = g → Completes (.pointEnd i) s fun t => Taken t ∧ t.mem = s.mem ∧
          t.landing g = { l with
            ended := some (p.src, p.tag, p.tgen), entryN := fieldAt d 4 4, frameN := fieldAt d 8 4, step := fieldAt d 12 4 } ∧
          tget 0 t.tw.stepAt g = fieldAt d 12 4))) ∧
    (∀ g : Fin 8, (s.landing g.val).placed = true → (s.landing g.val).ended.isSome = true →
      Completes (.pointInstall g) s fun t =>
        let l := s.landing g.val
        tget 0 t.tw.pointAt g.val = l.seq ∧ t.landing g.val = { seq := l.seq } ∧
        ∀ h w bs, l.entries = [(h, w, bs)] → h ∉ l.drop →
          (t.entry (h % 65536)).shadow = true ∧ (t.entry (h % 65536)).mpos = w ∧
          (t.entry (h % 65536)).pointSeq = l.seq ∧ (t.entry (h % 65536)).pointStep = l.step ∧
          (t.entry (h % 65536)).plen = (entryOfBytes bs).plen ∧
          (t.entry (h % 65536)).gen = (entryOfBytes bs).gen) ∧
    (s.fromTwin p = true → s.inAt i 0x0D 0x04 = some a → p.len = 8 →
      let r := fieldAt d 0 8
      ∀ e, s.shadowOf (bits r 31 0) = some e → Completes (.notice i) s fun t => Taken t ∧ t.mem = s.mem ∧
        t.entry (bits r 31 0 % 65536) = { e with
          emitpos := bits r 55 32, ev := bit r 56, freed := e.freed || bit r 58 }) ∧
    (s.fromTwin p = true → s.inAt i 0x0D 0x05 = some a → ∀ e, s.shadowOf (fieldAt d 16 4) = some e →
      Completes (.forward i) s fun t => Taken t ∧ t.mem = s.mem ∧
        t.entry (fieldAt d 16 4 % 65536) = { e with forwards := e.forwards ++ [(seq, fieldAt d 0 2, d.drop 16)] }) ∧
    (∀ n, Completes (.forwardReplyTimeout n) s fun t => t.mem = s.mem ∧
      t.ce.held = s.ce.held.filter (fun h => decide (h.why ≠ .forward n)))

/-- Twins watch each other, fence, and share an image. HEARTBEAT_SEND of a paired module numbers one heartbeat and
sends it on P15 and the alternate path. A HEARTBEAT from the twin is heard; one that says it does not serve, a silence
of 35 ms, and a DEPART each lose the twin once, with causes 3, 1 and 2 of the event 0x81; one that serves after a loss
raises 0x83. FENCE from the twin stops every compute die. GUEST_RELEASE of another module of the board marks its guest
frames for reclaim. IMAGE_REQ is answered by the bytes in chunks of 240 and one end, or by one end with E_STATE
without an image. IMAGE_CHUNK in sequence adds its bytes. IMAGE_END with an error, or with all bytes there, and
TWIN_IMAGE_TIMEOUT, end the load; else the next range is asked for. (16_faults_and_failover.md,
18_startup_and_discovery.md) -/
def Obligations.TwinsWatchEachOther : Prop :=
  ∀ (i : Nat) (a : AtRouter) (s : State),
    let p := a.pkt
    let d := p.data
    let Raises (t : State) (code cause : Nat) : Prop := s.ce.ev.opened = true →
      ∃ e ∈ t.ce.ev.wait, e.code = code ∧ e.cause = cause
    let Taken (t : State) : Prop := t.fab.inbox = dropNth s.fab.inbox i ∧ SameBytes s t
    (s.tw.paired = true →
      Completes .heartbeatSend s (fun t => t.tw = { s.tw with hbSeq := (s.tw.hbSeq + 1) % 2 ^ 32 } ∧
        ∃ x y, t.fab.router = s.fab.router ++ [x, y] ∧ x.pkt.path = twinPath ∧ y.pkt.path = s.tw.alt ∧
          x.pkt.aux = 0x30 ∧ x.pkt.data = s.heartbeat ∧ y.pkt.data = s.heartbeat) ∧
      (s.tw.lost = false → s.tw.heard + 35000000 ≤ s.now → Completes .heartbeatMissed s fun t =>
        t.tw.lost = true ∧ SameBytes s t ∧ Raises t 0x81 1)) ∧
    (s.fromTwin p = true →
      (s.inAt i 0x0E 0x30 = some a → Completes (.heartbeat i) s fun t => Taken t ∧ t.tw.heard = s.now ∧
        (fieldAt d 2 1 % 2 = 0 → s.tw.lost = false → t.tw.lost = true ∧ Raises t 0x81 3) ∧
        (fieldAt d 2 1 % 2 = 1 → s.tw.lost = true → s.tw.adopt = false → s.tw.back = false →
          t.tw.back = true ∧ Raises t 0x83 0)) ∧
      (s.inAt i 0x0E 0x31 = some a → s.tw.lost = false → Completes (.depart i) s fun t => Taken t ∧
        t.tw.lost = true ∧ Raises t 0x81 2)) ∧
    (s.inAt i 0x0E 0x32 = some a → p.src = s.tw.mid → s.tw.fenced = false → Completes (.fence i) s fun t => Taken t ∧
      t.tw.fenced = true ∧ (∀ n, n < 8 → (t.die n).stop.fenced = true) ∧ Raises t 0x85 0) ∧
    (s.inAt i 0x0E 0x33 = some a → fieldAt d 0 2 / 8 = s.id.mid / 8 → fieldAt d 0 2 ≠ s.id.mid →
      Completes (.guestRelease i) s fun t => Taken t ∧ t.tw.guests = addOnce s.tw.guests (fieldAt d 0 2 % 8)) ∧
    (s.inAt i 0x0E 0x40 = some a →
      (s.img.loaded = false ∨ s.img.hostSize = 0 → ∀ io, Completes (.imageReq i io) s fun t => Taken t ∧
        ∃ r, t.fab.router = s.fab.router ++ [r] ∧ r.pkt.aux = 0x42 ∧ fieldAt r.pkt.data 0 1 = stState) ∧
      (s.img.loaded = true → s.img.hostSize ≠ 0 → Completes (.imageReq i true) s fun t => Taken t ∧
        let n := min (min (fieldAt d 8 4) (2 ^ 24)) (s.img.hostSize - fieldAt d 0 8)
        ∃ cs r, t.fab.router = s.fab.router ++ cs ++ [r] ∧ cs.length = (n + 239) / 240 ∧
          (∀ j x, cs[j]? = some x → x.pkt.aux = 0x41 ∧ fieldAt x.pkt.data 8 2 = min 240 (n - 240 * j)) ∧
          r.pkt.aux = 0x42 ∧ fieldAt r.pkt.data 0 1 = stOk)) ∧
    (∀ l, s.ce.load = some l →
      (s.inAt i 0x0E 0x41 = some a →
        let n := min (fieldAt d 8 2) 240
        fieldAt d 0 8 = l.got → l.got + n ≤ l.ask → Completes (.imageChunk i) s fun t => Taken t ∧
          ∃ m, t.ce.load = some m ∧ m.got = l.got + n ∧ m.heard = true ∧ m.ask = l.ask ∧
            ∀ j v, j < n → d[16 + j]? = some v → mget m.buf (l.got + j) = v) ∧
      (s.inAt i 0x0E 0x42 = some a →
        (fieldAt d 0 1 ≠ stOk ∨ fieldAt d 8 8 ≤ l.got → Completes (.imageEnd i) s fun t =>
          t.ce.load = none ∧ t.ce.excl = none ∧ t.fab.inbox = dropNth s.fab.inbox i) ∧
        (fieldAt d 0 1 = stOk → l.got < fieldAt d 8 8 → Completes (.imageEnd i) s fun t => Taken t ∧
          ∃ m, t.ce.load = some m ∧ m.ask = l.got + min (2 ^ 24) (fieldAt d 8 8 - l.got) ∧ m.got = l.got ∧
            m.heard = false ∧ ∃ r, t.fab.router = s.fab.router ++ [r] ∧ r.pkt.aux = 0x40)) ∧
      (l.heard = false → Completes .twinImageTimeout s fun t => t.ce.load = none ∧ t.ce.excl = none))

/-- Every command meets the checks in their order. The packet at the head of the ring served next is taken by its
command. An undefined opcode is answered E_OPCODE; else a LENGTH over 4,080 or not the command's E_LENGTH; else
reserved flags or header bits E_PARAM; else, while an exclusive command or a load excludes it, E_BUSY; else outside
its states E_STATE. The reply joins the completion ring of the ring; memory, tiles and the image stay.
(17_command_interface.md) -/
def Obligations.CommandsMeetTheirChecks : Prop :=
  ∀ (q : Fin 64) (io : Bool) (s : State) (c : Cmd) (n : Nat),
    s.headPacket q.val = some (c, n) → s.nextRing = some q.val → ∀ e ∈ hostCommands s q io,
      let k := e.2
      let Answers (status : Nat) : Prop := Completes e.1 s fun t =>
        Replies s t q c { status := status } ∧ t.mem = s.mem ∧ t.tiles = s.tiles ∧ t.img = s.img ∧ t.sv = s.sv ∧
        (t.sqr q.val).head = ((s.sqr q.val).head + n) % (s.sqr q.val).size
      let lengthOk := c.length ≤ 4080 ∧ k.lenOk c.payload = true
      let headerOk := c.flags / 2 = 0 ∧ c.resv = 0
      (c.opcode ∉ opcodes → Answers stOpcode) ∧
      (c.opcode = k.opcode →
        (¬ lengthOk → Answers stLength) ∧
        (lengthOk → ¬ headerOk → Answers stParam) ∧
        (lengthOk → headerOk → s.cmdBusy k = true → Answers stBusy) ∧
        (lengthOk → headerOk → s.cmdBusy k = false → k.states s.ce.state = false → Answers stState))

/-- Commands that set the module up act. With a well-formed packet at the head, in their states: IDENTIFY answers
serial number, version and stepping. GET_CONFIG puts the configuration report at the host address. LOAD_IMAGE of an
image that passes its checks leaves LOADED with the image's data, one that fails leaves EMPTY with its status.
UNLOAD_IMAGE leaves EMPTY with no tile. MAP_GRID takes its records. RUN leaves RUNNING with each group of one module
armed for step 0. STOP of a running task leaves ENDED, each bound tile ended, faulted or stopped with no work under way and
every group idle, and raises TASK_END with cause 2. ARM_ECHO sets leader and START. SET_POWER sets what its flags select (without an image a
die it turns off loses its storage at once), SET_JOB_FREQ the host state of a group led here, PAGE_POOL_CFG the pool of a die. (17_command_interface.md) -/
def Obligations.SetupCommandsAct : Prop :=
  ∀ (q : Fin 64) (s : State) (c : Cmd) (n : Nat), s.headPacket q.val = some (c, n) →
    let p := c.payload
    let Ok (t : State) (r : List Byte) : Prop := Replies s t q c { result := r }
    let Ready (op len : Nat) : Prop := CmdReady s q op c ∧ p.length = len
    (Ready 0x0010 0 → Completes (.identify q) s fun t => t.mem = s.mem ∧
      Ok t (leBytes 8 s.made.serial ++ leBytes 4 s.fw.version ++
        leBytes 1 (if s.made.b0 = true then 0xB0 else 0xA1) ++ leBytes 1 (if s.made.b0 = true then 3 else 1))) ∧
    (Ready 0x0011 16 → fieldAt p 0xC 4 = 0 → fieldAt p 0 8 % 8 = 0 → 1088 ≤ fieldAt p 8 4 →
      Completes (.getConfig q true) s fun t =>
        HostHolds s t (fieldAt p 0 8) s.configReport ∧ Ok t (leBytes 8 s.imageId)) ∧
    (Ready 0x0020 16 → loadStates s.ce.state = true → fieldAt p 0 8 % 8 = 0 → s.ck.refFault = false →
      fieldAt p 0 8 ≠ 0 ∨ fieldAt p 8 8 ≠ 0 →
      let t0 := takePacket s q.val n
      let u := if s.img.loaded = true then unloadImage t0 else clearServing t0
      let x : Src := { mem := s.mem.host, base := fieldAt p 0 8, size := fieldAt p 8 8 }
      Completes (.loadImage q true) s fun t =>
        if (x.status u).1 = 0 then t.ce.state = .loaded ∧ t.img.loaded = true ∧ t.img.id = (x.image u).id ∧
          t.img.hostAddr = fieldAt p 0 8 ∧ Ok t (leBytes 8 t.img.id ++ leBytes 1 t.img.defmap)
        else t.ce.state = .empty ∧ Replies s t q c { status := (x.status u).1, detail := (x.status u).2 }) ∧
    (Ready 0x0021 0 → s.ce.state = .loaded ∨ s.ce.state = .ended → Completes (.unloadImage q) s fun t =>
      t.ce.state = .empty ∧ t.img.loaded = false ∧ t.tiles = [] ∧ t.sv.models = [] ∧ t.mem.host = s.mem.host ∧ Ok t []) ∧
    (CmdReady s q 0x0022 c → mapLen p = true → fieldAt p 3 1 = 0 → fieldAt p 0 1 ≤ 7 → fieldAt p 1 1 ∈ [1, 2] →
      fieldAt p 2 1 ≤ 16 →
      let recs := (List.range (fieldAt p 2 1)).map (fun i => (p.drop (4 + 4 * i)).take 4)
      (∀ r ∈ recs, s.mapRecOk (fieldAt p 0 1) (fieldAt p 1 1) r = true) → Completes (.mapGrid q) s fun t =>
        t.ce.maps = recs.foldl (fun m r => applyMap m (fieldAt p 0 1) (fieldAt p 1 1) r) s.ce.maps ∧ t.mem = s.mem ∧
        Ok t []) ∧
    (Ready 0x0030 0 → s.ce.state = .loaded → (∀ g ∈ s.usedGroups, 1 < s.gmods g → (s.group g).armSet = true) →
      Completes (.run q) s fun t => t.ce.state = .running ∧ Ok t [] ∧
        ∀ g ∈ s.usedGroups, s.gmods g ≤ 1 → (t.group g).bnd = .armed ∧ (t.group g).next = 0) ∧
    (Ready 0x0031 0 → s.ce.state = .running → Completes (.stop q) s fun t => t.ce.state = .ended ∧
      (s.Still → SameBytes s t) ∧
      (∀ g, g < 8 → (t.group g).bnd = .idle) ∧
      (∀ d v, d < 8 → v ∈ s.boundTiles d → (t.tile (d * 256 + v)).seq ∈ [Seq.ended, .faulted, .stopped] ∧
        (t.tile (d * 256 + v)).jobs = []) ∧
      (s.ce.ev.opened = true → ∃ e ∈ t.ce.ev.wait, e.code = 0x0002 ∧ e.cause = 2) ∧
      (Ok t [] ∨ ∃ h ∈ t.ce.held, h.why = .stopQuiet ∧ h.tag = c.tag ∧ h.status = 0)) ∧
    (Ready 0x0032 16 → s.ce.state = .loaded → fieldAt p 1 1 = 0 → fieldAt p 4 4 = 0 → s.groupUsed (fieldAt p 0 1) = true →
      let m := fieldAt p 2 2
      m ≠ 0xFFFF → (s.gmods (fieldAt p 0 1) = 1 → m = s.id.mid) → (m ≠ s.id.mid → m < 1024 ∧ (s.pathOf m).isSome = true) →
      Completes (.armEcho q) s fun t => t.mem = s.mem ∧ Ok t [] ∧ t.group (fieldAt p 0 1) =
        { s.group (fieldAt p 0 1) with leader := m, start := fieldAt p 8 8, armSet := true }) ∧
    (Ready 0x0050 8 → fieldAt p 3 1 = 0 → fieldAt p 6 2 = 0 →
      let v := fieldAt p 0 1
      v < 8 → (bit v 0 = true → fieldAt p 1 1 ≤ 14) → (bit v 2 = true → wattsOk (fieldAt p 4 2) = true) →
      Completes (.setPower q) s fun t => Ok t [] ∧
        t.mem = (if bit v 1 = true ∧ s.img.loaded = false then s.mem.dropDies (fieldAt p 2 1) else s.mem) ∧
        t.pw.ceil = (if bit v 0 = true then fieldAt p 1 1 else s.pw.ceil) ∧
        t.pw.dieOff = (if bit v 1 = true then fieldAt p 2 1 else s.pw.dieOff) ∧
        t.pw.watts = (if bit v 2 = true then fieldAt p 4 2 else s.pw.watts)) ∧
    (Ready 0x0051 8 → s.ce.state.image = true → fieldAt p 2 6 = 0 → s.groupUsed (fieldAt p 0 1) = true →
      s.leads (fieldAt p 0 1) = true → fieldAt p 1 1 ≤ 14 → Completes (.setJobFreq q) s fun t => t.mem = s.mem ∧ Ok t [] ∧
        tget 0 t.pw.host (fieldAt p 0 1) = fieldAt p 1 1) ∧
    (CmdReady s q 0x0060 c → poolLen p = true → s.ce.state = .loaded → fieldAt p 1 1 = 0 → fieldAt p 6 2 = 0 →
      fieldAt p 0xC 4 = 0 → fieldAt p 0 1 ≤ 7 →
      let d := fieldAt p 0 1
      let frames := ((poolRanges p).map (·.2)).sum + (poolFrames p).length
      frames ≤ 262144 → s.poolTotal - (s.pm d).frames + frames ≤ 2097152 → fieldAt p 8 4 ≤ frames →
      (∀ i r, (poolRanges p)[i]? = some r → s.rangeOk d ((poolRanges p).take i) r = true) →
      (∀ i f, (poolFrames p)[i]? = some f → s.spadFrameOk d ((poolFrames p).take i) f = true) →
      Completes (.pagePoolCfg q) s fun t => t.mem = s.mem ∧ Ok t (leBytes 4 frames) ∧ (t.pm d).frames = frames ∧
        (t.pm d).guest0 = frames - fieldAt p 8 4 ∧ (t.pm d).resv = [] ∧
        (t.pm d).table = poolTable (s.pm d).table (poolPlaces (poolRanges p) (poolFrames p)))

/-- Commands on requests act. With a well-formed packet at the head while an image is loaded: SUBMIT of a new request
that meets no condition of Table 9-4 queues it in the lowest free slot with the next ASEQ, and answers its handle; of
a continuation appends to its paused entry. On a current handle in the states they need, CANCEL, PARK and RESTORE mark
or record, and are answered, or on a mirrored entry forwarded first. QUERY_REQUEST puts the report of its slot, which
holds a request, at the host address. PREFIX_PIN pins the first blocks of a request in the lowest free prefix slot, or unpins a prefix that no
queued request names. (09_serving_engine.md, 17_command_interface.md) -/
def Obligations.RequestCommandsAct : Prop :=
  ∀ (q : Fin 64) (s : State) (c : Cmd),
    let p := c.payload
    let h := fieldAt p 0 4
    let i := h % 65536
    let e := s.entry i
    let Ok (t : State) (r : List Byte) : Prop := Replies s t q c { result := r }
    let Ready (op len : Nat) : Prop := CmdReady s q op c ∧ p.length = len ∧ s.ce.state.image = true
    let Answered (t : State) : Prop := t.mem = s.mem ∧
      if s.mirrored i = true then t.ce.held.map (fun h => (h.why, h.tag)) =
        s.ce.held.map (fun h => (h.why, h.tag)) ++ [(Await.forward s.tw.fwd, c.tag)] ∧
        ∃ r, t.fab.waiting = s.fab.waiting ++ [r] ∧ r.pkt.dst = s.tw.mid ∧ r.pkt.data = c.packet
      else Ok t []
    (Ready 0x0040 80 →
      let u := subOf p
      let m := (s.midxOf u.model).getD 0
      let aseq := (s.sv.aseq + 1) % 2 ^ 32
      s.img.loaded = true → s.img.serving = true → firstBad (s.subParams p u e) = (0, 0) → s.staleMask u.maskh = false →
      (u.cont = false → u.pre ≠ 0 → (s.prefixOf u.pre).isSome = true) →
      (u.cont = false → ∀ j, s.newSlot = some j → Completes (.submit q) s fun t =>
        t.entry j = u.fresh s m c.tag aseq (s.entry j) ∧ (t.entry j).state = .queued ∧ t.sv.aseq = aseq ∧ t.mem = s.mem ∧
        (∀ k, k ≠ j → t.entry k = s.entry k) ∧ Ok t (leBytes 4 (s.handle j) ++ leBytes 4 aseq)) ∧
      (u.cont = true → s.staleHandle u.handle = false → e.state = .paused → e.xfer = false → e.shadow = false →
        Completes (.submit q) s fun t => t.entry i = u.append aseq e ∧ t.sv.aseq = aseq ∧ t.mem = s.mem ∧
          (∀ k, k ≠ i → t.entry k = s.entry k) ∧ Ok t (leBytes 4 (s.handle i) ++ leBytes 4 aseq))) ∧
    (Ready 0x0041 8 → fieldAt p 4 4 = 0 → s.staleHandle h = false → cancelFrom e = true → Completes (.cancel q) s fun t =>
      t.entry i = { e with came := e.state, state := .cancelling } ∧ Answered t) ∧
    (Ready 0x0042 24 → fieldAt p 8 8 % 8 = 0 → s.staleHandle h = false → parkFrom e = true →
      parkSize (s.model e.midx) e.cls e.w ≤ fieldAt p 0x10 8 → Completes (.park q) s fun t =>
        t.entry i = { e with parkRec := some (fieldAt p 8 8, fieldAt p 0x10 8, fieldAt p 4 4) } ∧ Answered t) ∧
    (Ready 0x0043 8 → fieldAt p 4 4 = 0 → s.staleHandle h = false → e.state = .parked → e.shadow = false → e.xfer = false →
      Completes (.restore q) s fun t => t.entry i = { e with restoreRec := true } ∧ Answered t) ∧
    (Ready 0x0044 16 → fieldAt p 4 4 = 0 → fieldAt p 8 8 % 8 = 0 → s.staleHandle h = false → e.state ≠ .free →
      Completes (.queryRequest q true) s fun t => HostHolds s t (fieldAt p 8 8) (s.requestReport i) ∧
        Ok t (leBytes 1 e.state.code ++ leBytes 1 e.end_ ++ leBytes 2 0 ++ leBytes 4 e.ngen)) ∧
    (Ready 0x0061 16 → fieldAt p 1 3 = 0 → fieldAt p 0xC 4 = 0 →
      let n := fieldAt p 8 4
      let h := fieldAt p 4 4
      let e := s.entry (h % 65536)
      (fieldAt p 0 1 = 0 → s.staleHandle h = false → refV e.pthead = true → e.shadow = false →
        n * geoTpp (s.model e.midx).kvgeo ≤ e.w → n ≠ 0 → (∀ r ∈ s.prefixPins e n, (s.counts r).hpins < 65535) →
        ∀ k, s.freePrefix 4095 1 = some k → Completes (.prefixPin q) s fun t =>
          tget {} t.sv.prefixes k = { tget {} s.sv.prefixes k with
            live := true, midx := e.midx, blocks := n, refs := s.prefixRefs e n, pins := s.prefixPins e n } ∧
          t.mem = s.mem ∧ Ok t (leBytes 4 (s.prefixHandle k))) ∧
      (fieldAt p 0 1 = 1 → n = 0 → (s.prefixOf h).isSome = true →
        (∀ e ∈ s.sv.entries, e.2.state = .queued → refV e.2.pthead = false → e.2.prefH ≠ h) →
        Completes (.prefixPin q) s fun t => t.mem = s.mem ∧ Ok t (leBytes 4 0) ∧
          tget {} t.sv.prefixes (h % 65536) = { gen := (tget {} s.sv.prefixes (h % 65536)).gen + 1 }))

/-- Commands on the fabric and the pairing act. With a well-formed packet at the head: FABRIC_PLAN of an image that
passes its checks puts the plan in force, a full one with both table slots and E = 0; a full one taken before phase 4
of start-up is held. An UPDATE leaves identifier, tables and E as they are. FABRIC_STATUS puts the cabling report at the host address. EPOCH_SWITCH with a plan, no switch in
progress, staged tables that pass and a path to the leader sends one JOIN and answers the next epoch. TWIN_CFG asks
for the PAIR exchange and withholds its reply, or ends the pairing. ADOPT after a loss records the adoption of every
group in use. (12_oliene_fabric.md, 16_faults_and_failover.md, 17_command_interface.md, 18_startup_and_discovery.md)
-/
def Obligations.FabricCommandsAct : Prop :=
  ∀ (q : Fin 64) (s : State) (c : Cmd),
    let p := c.payload
    let Ok (t : State) (r : List Byte) : Prop := Replies s t q c { result := r }
    let Ready (op len : Nat) : Prop := CmdReady s q op c ∧ p.length = len
    let full := bit (fieldAt p 0x10 2) 0 = false
    (Ready 0x0070 24 → (full → s.ce.state ≠ .running) → s.switching = false → fieldAt p 0x12 6 = 0 →
      fieldAt p 0x10 2 < 2 → fieldAt p 8 4 = (if full then 0xC200 else 0x200) → fieldAt p 0 8 % 8 = 0 →
      let x : Src := { mem := s.mem.host, base := fieldAt p 0 8, size := fieldAt p 8 4 }
      (full → s.ce.state = .starting → s.boot.phase < 4 → Completes (.fabricPlan q true) s fun t =>
        t.boot.heldPlan = some (q.val, p) ∧ t.ce.excl = some 0x70 ∧ t.fab = s.fab ∧ t.mem = s.mem ∧
        ∃ h, t.ce.held = s.ce.held ++ [h] ∧ h.why = .plan ∧ h.tag = c.tag) ∧
      (¬ (full ∧ s.ce.state = .starting ∧ s.boot.phase < 4) →
        s.planBad x (fieldAt p 0xC 4) (!bit (fieldAt p 0x10 2) 0) = false → Completes (.fabricPlan q true) s fun t =>
          t.fab.plan.have_ = true ∧ t.fab.plan.master = x.num 2 2 ∧
          t.fab.plan.leader = x.num 4 2 ∧ t.fab.plan.parent = x.num 6 1 ∧ t.fab.plan.backup = x.num 7 1 ∧
          t.fab.plan.peers = x.peers ∧ t.fab.plan.present = numsWhere 1024 (bit (x.num 0x80 128)) ∧ SameBytes s t ∧
          (full → t.fab.plan.id = fieldAt p 0xC 4 ∧ t.fab.ep.cur = 0 ∧ ∀ m, m < 1024 → tget 0 t.fab.paths m = x.pathEntry m ∧
            tget 0 t.fab.paths (1024 + m) = x.pathEntry m) ∧
          (¬ full → t.fab.plan.id = s.fab.plan.id ∧ t.fab.paths = s.fab.paths ∧ t.fab.ep.cur = s.fab.ep.cur) ∧ Ok t t.cabling)) ∧
    (Ready 0x0071 16 → fieldAt p 0xC 4 = 0 → fieldAt p 0 8 % 8 = 0 → 272 ≤ fieldAt p 8 4 →
      Completes (.fabricStatus q true) s fun t => HostHolds s t (fieldAt p 0 8) s.cablingReport ∧
        Ok t (leBytes 2 s.badNow ++ leBytes 2 s.inService ++ leBytes 1 s.fab.ep.cur)) ∧
    (Ready 0x0072 0 → s.fab.plan.have_ = true → s.fab.ep.joined = false → s.fab.ep.complete = false → s.fab.ep.silent = none →
      (∀ e ∈ s.fab.stPaths, s.stagedPathBad e.2 = false) → (∀ e ∈ s.fab.stMcast, mcastBad e.2.toNat = false) →
      (s.pathOf s.fab.plan.leader).isSome = true → Completes (.epochSwitch q) s fun t =>
        t.fab.ep = { s.fab.ep with joined := true } ∧ t.mem = s.mem ∧ Ok t (leBytes 1 (1 - s.fab.ep.cur)) ∧
        ∃ r, t.fab.router = s.fab.router ++ [r] ∧ r.pkt.dst = s.fab.plan.leader ∧ r.pkt.aux = ctlJoin) ∧
    (Ready 0x0080 24 → s.ce.state.image = true → fieldAt p 2 6 = 0 → fieldAt p 8 16 < 2 ^ 80 →
      (fieldAt p 0 1 = 1 → s.img.twin = true → fieldAt p 1 1 ≠ 0 → fieldAt p 8 16 % 32 ≠ 15 →
        legalPath (fieldAt p 8 16) = true → s.otherHalfBusy = false → s.twinPortOk = true →
        Completes (.twinCfg q) s fun t =>
          t.tw = { s.tw with asking := true, asked := (fieldAt p 1 1, fieldAt p 8 16) } ∧ t.mem = s.mem ∧
          (∃ h, t.ce.held = s.ce.held ++ [h] ∧ h.why = .pair ∧ h.tag = c.tag) ∧
          ∃ r, t.fab.router = s.fab.router ++ [r] ∧ r.pkt.path = twinPath ∧ r.pkt.aux = 0x34) ∧
      (fieldAt p 0 1 = 0 → fieldAt p 1 1 = 0 → fieldAt p 8 16 = 0 → Completes (.twinCfg q) s fun t =>
        t.tw.paired = false ∧ SameBytes s t ∧ Ok t [])) ∧
    (Ready 0x0081 0 → s.ce.state.image = true → s.tw.lost = true → s.tw.back = false → Completes (.adopt q) s fun t =>
      t.tw = { s.tw with adopt := true, adopting := s.usedGroups, sentFence := false } ∧ t.mem = s.mem ∧ Ok t [])

/-- Commands on memory, counters and hardware act. With a well-formed packet at the head: READ_MEM of a powered, sound
scratchpad range of a bound tile puts its bytes at the host address, WRITE_MEM stores the host's bytes there and
nowhere else. GET_STATS puts the set at the host address; CLEAR_STATS clears the speculation counters of a model, or
the counters of a page manager. RETIRE adds a resource to the retired set, UNRETIRE takes it out. STAGE of
FW_UPDATE leaves no staged image while its own is written and withholds its reply, ACTIVATE marks the staged image for
the next start.
(16_faults_and_failover.md, 17_command_interface.md) -/
def Obligations.MemoryCommandsAct : Prop :=
  ∀ (q : Fin 64) (s : State) (c : Cmd),
    let p := c.payload
    let Ok (t : State) (r : List Byte) : Prop := Replies s t q c { result := r }
    let Ready (op len : Nat) : Prop := CmdReady s q op c ∧ p.length = len
    let r := fieldAt p 0 4
    (s.ce.state.image = true → p.length = 24 → fieldAt p 0xC 4 = 0 → fieldAt p 0x10 8 % 8 = 0 →
      let ga := fieldAt p 0 8
      let n := fieldAt p 8 4
      let k := gaDie ga * 256 + gaBlock ga
      let host := fieldAt p 0x10 8
      s.gaMine ga = true → gaSpace ga = 0 → s.bound (gaDie ga) (gaBlock ga) = true → n % 8 = 0 →
      gaOff ga + n ≤ 2 ^ 20 → (∀ i, i < n → s.bankOn k (gaOff ga + i) = true) →
      (CmdReady s q 0x0090 c → s.mem.spadErr = [] → Completes (.readMem q true) s fun t =>
        HostHolds s t host (s.spBytes k (gaOff ga) n) ∧ Ok t []) ∧
      (CmdReady s q 0x0091 c → Completes (.writeMem q true) s fun t => Ok t [] ∧ t.mem.host = s.mem.host ∧
        (∀ i, i < n → t.spByte k (gaOff ga + i) = mget s.mem.host (host + i)) ∧
        ∀ a, (a < spKey k (gaOff ga) ∨ spKey k (gaOff ga) + n ≤ a) → mget t.mem.spad a = mget s.mem.spad a)) ∧
    (Ready 0x00A0 24 → s.ce.state.image = true → fieldAt p 4 4 = 0 → fieldAt p 0x14 4 = 0 → fieldAt p 8 8 % 8 = 0 →
      1 ≤ fieldAt p 0 2 → fieldAt p 0 2 ≤ 4 → s.statArg (fieldAt p 0 2) (fieldAt p 2 2) = true →
      let bs := s.statSet (fieldAt p 0 2) (fieldAt p 2 2)
      bs.length ≤ fieldAt p 0x10 4 → Completes (.getStats q true) s fun t =>
        HostHolds s t (fieldAt p 8 8) bs ∧ Ok t (leBytes 4 bs.length)) ∧
    (Ready 0x00A1 8 → s.ce.state.image = true → fieldAt p 4 4 = 0 → fieldAt p 2 2 ≠ 0xFFFF →
      s.statArg (fieldAt p 0 2) (fieldAt p 2 2) = true →
      (fieldAt p 0 2 = 2 → Completes (.clearStats q) s fun t => Ok t [] ∧ t.mem = s.mem ∧
        ∀ m, tget {} t.sv.counts m = if m = fieldAt p 2 2 then {} else tget {} s.sv.counts m) ∧
      (fieldAt p 0 2 = 3 → Completes (.clearStats q) s fun t => Ok t [] ∧ t.mem = s.mem ∧
        t.pm (fieldAt p 2 2) = { s.pm (fieldAt p 2 2) with copies := 0, exhausted := 0, stale := 0, nopage := 0 })) ∧
    (Ready 0x00B0 8 → fieldAt p 4 4 = 0 → residOk r = true → r ∉ s.retiredAll → s.er.retired.length < 4096 →
      Completes (.retire q) s fun t => Ok t [] ∧ t.mem = s.mem ∧ t.er.retired = s.er.retired ++ [r] ∧
        (s.ce.ev.opened = true → ∃ e ∈ t.ce.ev.wait, e.code = 0x80 ∧ e.cause = 3)) ∧
    (Ready 0x00B1 8 → fieldAt p 4 4 = 0 → residOk r = true → r ∈ s.retiredAll → Completes (.unretire q) s fun t =>
      Ok t [] ∧ t.mem = s.mem ∧ r ∉ t.retiredAll ∧
      ∀ x ∈ s.retiredAll, unretires r x = false → x ∈ t.retiredAll) ∧
    (Ready 0x00F0 16 → fieldAt p 1 3 = 0 → fieldAt p 8 8 % 8 = 0 →
      (fieldAt p 0 1 = 0 → 256 ≤ fieldAt p 4 4 → fieldAt p 4 4 ≤ 2 ^ 24 →
        Completes (.fwUpdate q true) s fun t => t.mem = s.mem ∧ (t.sqr q.val).busy = true ∧
          t.fw = { s.fw with staging := some (fieldAt p 8 8, fieldAt p 4 4), staged := none, marked := false } ∧
          ∃ h, t.ce.held = s.ce.held ++ [h] ∧ h.why = .fwStage ∧ h.tag = c.tag) ∧
      (fieldAt p 0 1 = 1 → fieldAt p 4 4 = 0 → fieldAt p 8 8 = 0 → ∀ v, s.fw.staged = some v →
        Completes (.fwUpdate q true) s fun t => t.fw = { s.fw with marked := true } ∧ t.mem = s.mem ∧ Ok t (fwResult v)))

/-- Supplies and resets start and stop the module. An input that comes is present, and A supplies the load while it is
present. Losing the last input while the module is on ends it off, with LASTOFF 2 and the standby domain down; losing
A beside B moves the load to B and raises SUPPLY_SWITCH with cause 1. PWR_OK with an input begins a cold start, which
samples the straps and takes no image; its loss leaves the module off with LASTOFF 1 and its memories lost, after an
orderly stop where a task or start-up was in progress, and lets a selected EXTEST drive its pins. PERST# and
RESET# put a module that is on in reset, keeping TICK and the retired set, PERST# the PCIe link too; their deassertion
begins a start in phase 0. A function-level reset disables the rings and MSI-X, ends the task and leaves
a firmware image that was being staged out; a hot reset resets
MSI-X only. A bank that does not boot gives way to the other. STANDBY_POWER_UP samples SLOT_ID.
(15_power_and_thermal.md, 17_command_interface.md, 18_startup_and_discovery.md, 21_connectors_and_ratings.md) -/
def Obligations.SuppliesAndResetsAct : Prop :=
  ∀ (s : State) (slot board : Fin 8),
    let Raises (t : State) (code cause : Nat) : Prop := s.ce.ev.opened = true →
      ∃ e ∈ t.ce.ev.wait, e.code = code ∧ e.cause = cause
    let InReset (t : State) : Prop := t.boot.started = false ∧ t.pw.off = false ∧ t.ce.state = .starting ∧
      t.img.loaded = false ∧ t.tiles = [] ∧ t.mem = { host := s.mem.host, passes := s.mem.passes } ∧ t.tm.tick = s.tm.tick ∧
      t.er.retired = s.er.retired ∧ t.er.volatile_ = s.er.volatile_
    let Off (t : State) (cause : Nat) : Prop := t.pw.off = true ∧ t.boot.lastOff = cause ∧ t.boot.started = false ∧
      t.img.loaded = false ∧ t.tiles = [] ∧ t.mem.spad = [] ∧ t.mem.cav = [] ∧ t.er.retired = s.er.retired
    let Begun (t : State) : Prop := t.boot.started = true ∧ t.boot.phase = 0 ∧ t.id.slot = slot.val ∧
      t.id.board = board.val ∧ t.ce.state = .starting ∧ t.pw.off = false
    (∀ b : Bool, s.boot.pwrWait = false → Completes (.inputPresent b slot board) s fun t =>
      t.pw.pA = (s.pw.pA || !b) ∧ t.pw.pB = (s.pw.pB || b) ∧ t.pw.src = (if t.pw.pA = true then 0 else 1) ∧
      t.mem = s.mem ∧ t.tiles = s.tiles ∧ (b = false → s.pw.pA = false → s.pw.off = false → Raises t 0x70 2)) ∧
    (s.boot.pwrWait = true → ∀ b : Bool, s.boot.resetN = false → Completes (.inputPresent b slot board) s fun t =>
      Begun t ∧ t.boot.pwrOk = true) ∧
    (s.pw.off = false → s.pw.pA = true → Completes (.inputLost false) s fun t => t.pw.pA = false ∧
      (s.pw.pB = true → t.pw.src = 1 ∧ t.mem = s.mem ∧ t.tiles = s.tiles ∧ Raises t 0x70 1 ∧ Raises t 0x71 0) ∧
      (s.pw.pB = false → Off t 2 ∧ t.boot.standby = false ∧ t.dbg = {})) ∧
    (s.pw.off = false → s.pw.pB = true → Completes (.inputLost true) s fun t => t.pw.pB = false ∧
      (s.pw.pA = true → t.pw.src = 0 ∧ t.mem = s.mem ∧ t.tiles = s.tiles ∧ Raises t 0x71 0) ∧
      (s.pw.pA = false → Off t 2 ∧ t.boot.standby = false)) ∧
    (s.boot.pwrOk = false → s.pw.pA = true ∨ s.pw.pB = true → s.boot.resetN = false →
      Completes (.pwrOkAssert slot board) s fun t => Begun t ∧ t.boot.pwrOk = true ∧ t.boot.cold = s.boot.perst ∧
        t.boot.pcie = !s.boot.perst ∧ t.img.loaded = false ∧ t.tiles = [] ∧ t.pw.energy = 0 ∧
        t.er.retired = s.er.retired) ∧
    (s.boot.pwrOk = true → s.pw.off = false → Completes .pwrOkDeassert s fun t =>
      Off t 1 ∧ t.boot.pwrOk = false ∧ (s.atWork = false → t.mem.host = s.mem.host) ∧ (s.atWork = true → t.pw.stopping = true) ∧
      t.dbg.extest = (if s.dbg.ir = 0 then some s.dbg.bscan else none)) ∧
    (s.boot.perst = false → s.pw.off = false → Completes .perstAssert s fun t =>
      InReset t ∧ t.boot.perst = true ∧ t.boot.pcie = false) ∧
    (s.boot.perst = true → s.pw.off = false → s.boot.started = false → s.boot.resetN = false →
      s.ce.state = .starting → Completes (.perstDeassert slot board) s fun t =>
        Begun t ∧ t.boot.perst = false ∧ t.boot.pcie = true ∧ t.mem = s.mem) ∧
    (s.boot.resetN = false → s.pw.off = false → Completes .resetAssert s fun t =>
      InReset t ∧ t.boot.resetN = true ∧ t.boot.pcie = s.boot.pcie) ∧
    (s.boot.resetN = true → s.pw.off = false → s.boot.perst = false → s.ce.state = .starting →
      Completes (.resetDeassert slot board) s fun t =>
        Begun t ∧ t.boot.resetN = false ∧ t.boot.pcie = s.boot.pcie ∧ t.mem = s.mem) ∧
    (s.boot.pcie = true → Completes .functionLevelReset s fun t =>
      (∀ q, q < 64 → (t.sqr q).en = false ∧ (t.cqr q).en = false ∧ (t.cqr q).wait = []) ∧ t.ce.ev.en = false ∧
      t.ce.state ≠ .running ∧ t.ce.msix = [] ∧ t.ce.msixPend = 0 ∧ t.sv.expEn = false ∧ t.fw.staging = none ∧
      (s.ce.state ≠ .running → t.mem = s.mem) ∧ (s.Still → SameBytes s t)) ∧
    (s.boot.pcie = true → Completes .hotReset s fun t => t = { s with ce := { s.ce with msix := [], msixPend := 0 } }) ∧
    (s.fw.booting = true → s.boot.started = true → s.boot.phase = 0 → Completes .fwBootTimeout s fun t =>
      (t.fw.version, t.fw.svn) = s.fw.other ∧ t.fw.bank = 1 - s.fw.bank ∧ t.mem = s.mem ∧ Raises t 0x0003 2) ∧
    (s.boot.standby = false → s.pw.pA = true ∨ s.pw.pB = true → Completes (.standbyPowerUp slot) s fun t =>
      t = { s with boot := { s.boot with standby := true, smbSlot := slot.val } })

/-- Start-up goes through its phases. STAGGER_END ends phase 0: phase 1 begins at P8, 1.0 GHz, and an image that boots
for the first time raises FW_ACTIVATED with cause 1. SELF_TEST_DONE retires what failed, and ends phase 1 with the
delivered HALF and RACK, or waits for them. TRAINING_BOUND ends phase 2. IDENT_BOUND ends phase 3, when a held plan is
read. NEIGHBOUR_ID records the neighbour's MID, port and serial number; NO_ID_TIMER records that none came.
TICK_ALIGNMENT_TIMEOUT ends phase 6: once phase 5 has ended too the module is EMPTY, and READY is raised.
(12_oliene_fabric.md, 18_startup_and_discovery.md) -/
def Obligations.StartupGoesThroughPhases : Prop :=
  ∀ (s : State) (io : Bool),
    let Raises (t : State) (code cause : Nat) : Prop := s.ce.ev.opened = true →
      ∃ e ∈ t.ce.ev.wait, e.code = code ∧ e.cause = cause
    (s.inPhase 0 = true → Completes .staggerEnd s fun t => t.boot.phase = 1 ∧ t.pw.state = 8 ∧ t.ck.cur = 1000 ∧
      t.mem = s.mem ∧ t.fw.booting = false ∧ (s.fw.booting = true → Raises t 0x0003 1)) ∧
    (∀ (fails : List Nat) (dies : BitVec 8), s.inPhase 1 = true → s.boot.waitId = false →
      Completes (.selfTestDone fails dies) s fun t => t.mem = s.mem ∧ t.tiles = s.tiles ∧
        (∀ r ∈ fails, selfTested r = true → r ∈ t.retiredAll) ∧ (∀ r ∈ s.retiredAll, r ∈ t.retiredAll) ∧
        (∀ d, d < 8 → bit dies.toNat d = true → ∀ r ∈ dieTiles d, r ∈ t.retiredAll) ∧
        (∀ v, s.boot.ident = some v → t.boot.phase = 2 ∧ t.id.half = v / 8 % 2 ∧ t.id.rack = v % 8 ∧
          t.id.valid = true ∧ t.boot.waitId = false) ∧
        (s.boot.ident = none → t.boot.phase = 1 ∧ t.boot.waitId = true)) ∧
    (s.inPhase 2 = true → Completes .trainingBound s fun t => t = { s with boot := { s.boot with phase := 3 } }) ∧
    (s.inPhase 3 = true → s.boot.heldPlan = none → Completes (.identBound io) s fun t =>
      t = { s with boot := { s.boot with phase := 4 } }) ∧
    (∀ q p, s.inPhase 3 = true → s.boot.heldPlan = some (q, p) → Completes (.identBound io) s fun t =>
      t.boot.heldPlan = none ∧ t.tiles = s.tiles) ∧
    (∀ i a p, s.inAt i 0x0E ctlNeighbour = some a → a.port = some p → s.inPhase 3 = false →
      Completes (.neighbourId i io) s fun t =>
        (t.port p).seenMid = fieldAt a.pkt.data 0 2 ∧ (t.port p).seenPort = fieldAt a.pkt.data 2 1 ∧
        (t.port p).serial = fieldAt a.pkt.data 8 8 ∧ (t.port p).idWait = false ∧ (t.port p).noId = false ∧
        t.tiles = s.tiles ∧ t.fab.inbox = dropNth s.fab.inbox i) ∧
    (∀ p : Fin 16, (s.port p.val).idWait = true → s.inPhase 3 = false → Completes (.noIdTimer p io) s fun t =>
      (t.port p.val).noId = true ∧ (t.port p.val).idWait = false ∧ t.tiles = s.tiles ∧ SameBytes s t) ∧
    (s.inPhase 6 = true → s.boot.checked = true → s.boot.aligned = false → Completes .tickAlignmentTimeout s fun t =>
      t.boot.aligned = true ∧ t.boot.phase = 7 ∧ t.ce.state = .empty ∧ t.mem = s.mem ∧ Raises t 0x0001 0)

/-- SMBus commands read and write, and dies halt, resume and step. With the standby domain up, IDENTITY and DEBUG_EN
take a written byte whose packet check holds, and every SMBus command is acknowledged and returns its value; without
it, or with a wrong check, the transfer is not acknowledged and changes nothing but that. A written identity ends the
wait of phase 1; a cleared debug enable resumes halted dies. HALT, RESUME and STEP always set the fields of DBG_CTL,
and act only under the debug enable: a halt of a die takes place at the end of its cyc, a resume ends it, a step gives
a halted die its cyc of issue, and STEP_COMPLETE halts it again with cause 4. (19_debug_port.md,
21_connectors_and_ratings.md) -/
def Obligations.SmbusAndHaltsAct : Prop :=
  ∀ s : State,
    let Reads (i : Instr) (bs : List Byte) : Prop :=
      (s.boot.standby = true → Completes i s fun t => t = { s with bus := { s.bus with smb := bs, smbAck := true } }) ∧
      (s.boot.standby = false → Completes i s fun t => t = { s with bus := { s.bus with smb := [], smbAck := false } })
    let Acked (t : State) : Prop := t.bus.smbAck = true ∧ t.bus.smb = [] ∧ t.mem = s.mem ∧ t.tiles = s.tiles
    let Halted (t : State) (d : Nat) : Prop := (t.die d).stop.halted = true ∨ (t.die d).stop.haltEnd = true
    Reads .smbStatus (leBytes 2 s.smbStatus) ∧
    Reads .smbTemp (leBytes 2 (if s.pw.off = true then 0x8000 else s.pw.tj)) ∧
    Reads .smbPower (leBytes 2 (s.pw.pinA + s.pw.pinB)) ∧
    Reads .smbCoolant (leBytes 2 s.pw.inlet ++ leBytes 2 s.pw.outlet ++ leBytes 2 s.pw.flow) ∧
    Reads .lastoff (leBytes 1 s.boot.lastOff) ∧ Reads .serial (leBytes 8 s.made.serial) ∧
    (∀ pec, Reads (.debugEn none pec) (leBytes 1 (b2n s.dbg.enabled)) ∧
      Reads (.identity none pec) (leBytes 1 (match s.boot.ident with
        | some v => 0x80 + (if s.boot.identPend = true then 0x40 else 0) + v % 16
        | none => 0))) ∧
    (∀ (v : BitVec 8) (pec : Bool), s.boot.standby = false ∨ pec = false →
      (Completes (.identity (some v) pec) s fun t => t = { s with bus := { s.bus with smb := [], smbAck := false } }) ∧
      (Completes (.debugEn (some v) pec) s fun t => t = { s with bus := { s.bus with smb := [], smbAck := false } })) ∧
    (s.boot.standby = true → ∀ v : BitVec 8,
      (v.toNat < 16 → Completes (.identity (some v) true) s fun t => Acked t ∧ t.boot.ident = some v.toNat ∧
        (s.id.valid = true → s.boot.waitId = false → t.id = s.id ∧ t.boot.identPend = true) ∧
        (s.inPhase 1 = true → s.boot.waitId = true → t.boot.phase = 2 ∧ t.id.half = v.toNat / 8 ∧
          t.id.rack = v.toNat % 8 ∧ t.id.valid = true)) ∧
      (16 ≤ v.toNat → Completes (.identity (some v) true) s fun t => Acked t ∧ t.boot = s.boot ∧ t.id = s.id) ∧
      (v = 1 → Completes (.debugEn (some v) true) s fun t => Acked t ∧ t.dbg.enabled = true ∧ t.dies = s.dies) ∧
      (v = 0 → Completes (.debugEn (some v) true) s fun t => Acked t ∧ t.dbg.enabled = false ∧
        ∀ d, d < 8 → (t.die d).stop.halted = false) ∧
      (2 ≤ v.toNat → Completes (.debugEn (some v) true) s fun t => Acked t ∧ t.dbg = s.dbg)) ∧
    (s.pw.off = false → ∀ (scope : Fin 4) (die : Fin 8) (vtile : Fin 256),
      let Fields (t : State) : Prop := t.dbg.scope = scope.val ∧ t.dbg.die = die.val ∧ t.dbg.vtile = vtile.val ∧
        t.mem = s.mem ∧ t.tiles = s.tiles
      let Named (d : Nat) : Prop := d < 8 ∧ (scope.val < 2 ∧ d = die.val ∨ scope.val = 2)
      let Same (t : State) (d : Nat) : Prop := t.die d = s.die d
      (Completes (.halt scope die vtile) s fun t => Fields t ∧
        (s.dbg.enabled = true → ∀ d, Named d → (s.die d).haltable = true → s.clockOff d = false → Halted t d) ∧
        (∀ d, s.dbg.enabled = false ∨ ¬ Named d → Same t d)) ∧
      (Completes (.resume scope die vtile) s fun t => Fields t ∧
        (s.dbg.enabled = true → ∀ d, Named d → (t.die d).stop.halted = false) ∧
        (∀ d, s.dbg.enabled = false ∨ ¬ Named d → Same t d)) ∧
      (Completes (.step scope die vtile) s fun t => Fields t ∧
        (s.dbg.enabled = true → s.dbg.stepN ≠ 0 → ∀ d, Named d → (s.die d).stop.halted = true →
          (s.die d).stop.step = none → (t.die d).stop.step = some s.dbg.stepN ∧ (t.die d).stop.halted = true) ∧
        (∀ d, s.dbg.enabled = false ∨ s.dbg.stepN = 0 ∨ ¬ Named d → Same t d))) ∧
    (∀ d : Fin 8, (s.die d.val).stop.halted = true → (s.die d.val).stop.step = some 0 →
      Completes (.stepComplete d) s fun t => (t.die d.val).stop.step = none ∧ (t.die d.val).stop.halted = true ∧
        (t.die d.val).dbgCause.1 = 4 ∧ t.mem = s.mem ∧ t.tiles = s.tiles)

/-- The test access port scans its registers. TAP_RESET selects IDCODE. EXTEST and SAMPLE/PRELOAD set the
boundary-scan register; EXTEST drives the sideband outputs only while PWR_OK is deasserted. BYPASS captures 0. Under
the debug enable JREG captures its register and reads or writes a DBG_ register, JADDR sets the address, direction and
increment, and JDATA captures data and status and starts one access, unless one is pending; without it they act as
BYPASS. DEBUG_ACCESS waits while the access has no free slot; else it completes the access with its status and raises no
event. (19_debug_port.md) -/
def Obligations.TapScansRegisters : Prop :=
  ∀ s : State, s.boot.standby = true →
    (Completes .tapReset s fun t => t = { s with dbg := { s.dbg with ir := 1, extest := none } }) ∧
    (∀ v : Nat, Completes (.extest v) s fun t => t.dbg.ir = 0 ∧ t.dbg.bscan = v ∧
      t.dbg.extest = (if s.boot.pwrOk = true then none else some v) ∧ t = { s with dbg := t.dbg, free := t.free }) ∧
    (∀ v : Nat, Completes (.samplePreload v) s fun t => t.dbg.ir = 2 ∧ t.dbg.bscan = v ∧ t.dbg.extest = none ∧
      t = { s with dbg := t.dbg, free := t.free }) ∧
    (Completes .bypass s fun t => t = { s with dbg := { s.dbg with ir := 0xFF, dr := 0, extest := none } }) ∧
    (∀ (r : BitVec 50) (a : BitVec 64) (v : BitVec 72),
      (s.dbg.enabled = false →
        (Completes (.jreg r) s fun t => t = { s with dbg := { s.dbg with ir := 0x20, dr := 0, extest := none } }) ∧
        (Completes (.jaddr a) s fun t => t = { s with dbg := { s.dbg with ir := 0x21, dr := 0, extest := none } }) ∧
        (Completes (.jdata v) s fun t => t = { s with dbg := { s.dbg with ir := 0x22, dr := 0, extest := none } })) ∧
      (s.dbg.enabled = true →
        (Completes (.jreg r) s fun t => t.dbg.ir = 0x20 ∧ t.dbg.dr = s.dbg.jreg ∧ t.mem = s.mem ∧ t.tiles = s.tiles ∧
          (bits r.toNat 48 32 = 8 → s.pw.off = false → bit r.toNat 49 = true →
            t.dbg.stepN = r.toNat % 2 ^ 24 ∧ t.dbg.jreg = r.toNat) ∧
          (bits r.toNat 48 32 % 8 = 0 → s.pw.off = false → bit r.toNat 49 = false →
            t.dbg.jreg % 2 ^ 32 = s.dbgWord (0xE0000 + bits r.toNat 48 32) % 2 ^ 32 ∧ t.dies = s.dies)) ∧
        (Completes (.jaddr a) s fun t => t = { s with dbg := { s.dbg with
          ir := 0x21
          dr := s.dbg.jga + (if s.dbg.jwrite = true then 2 ^ 48 else 0) + (if s.dbg.jinc = true then 2 ^ 49 else 0)
          extest := none, jga := a.toNat % 2 ^ 48, jwrite := bit a.toNat 48, jinc := bit a.toNat 49 } }) ∧
        (Completes (.jdata v) s fun t => t.dbg.ir = 0x22 ∧ t.dbg.dr = s.dbg.jdata + s.dbg.jstatus * 2 ^ 64 ∧
          t = { s with dbg := t.dbg } ∧
          (s.dbg.pendAcc = none → t.dbg.pendAcc = some (s.dbg.jga, s.dbg.jwrite, v.toNat % 2 ^ 64) ∧
            t.dbg.jstatus = accPending ∧
            t.dbg.jga = (if s.dbg.jinc = true then (s.dbg.jga + 8) % 2 ^ 48 else s.dbg.jga)) ∧
          (s.dbg.pendAcc.isSome = true → t.dbg.pendAcc = s.dbg.pendAcc ∧ t.dbg.jstatus = s.dbg.jstatus ∧
            t.dbg.jga = s.dbg.jga)))) ∧
    (∀ (ga : Nat) (write : Bool) (v : Nat), s.dbg.pendAcc = some (ga, write, v) → s.pw.off = false →
      s.accessSlot ga write = none → exec .debugAccess s = .next s) ∧
    (∀ (ga : Nat) (write : Bool) (v : Nat), s.dbg.pendAcc = some (ga, write, v) →
      s.pw.off = true ∨ (s.accessSlot ga write).isSome = true → Completes .debugAccess s fun t =>
      t.dbg.pendAcc = none ∧ t.ce.ev = s.ce.ev ∧
      (s.pw.off = true → t.dbg.jstatus = accOff ∧ t.mem = s.mem) ∧
      (s.pw.off = false → s.gaMine ga = false → t.dbg.jstatus = accAddress ∧ t.mem = s.mem) ∧
      (s.pw.off = false → s.gaMine ga = true → gaSpace ga = 0 → s.bound (gaDie ga) (gaBlock ga) = true →
        gaOff ga + 8 ≤ 2 ^ 20 → s.bankOn (gaDie ga * 256 + gaBlock ga) (gaOff ga) = true →
        let k := gaDie ga * 256 + gaBlock ga
        (write = true → t.dbg.jstatus = accOk ∧ t.spBytes k (gaOff ga) 8 = leBytes 8 v) ∧
        (write = false → t.mem.spad = s.mem.spad ∧ (s.mem.spadErr = [] →
          t.dbg.jstatus = accOk ∧ t.dbg.jdata = s.spNat k (gaOff ga) 8))))

/-- IDCODE captures the identification code. IDCODE completes, and while the standby domain is powered its data
register holds the version in [31:28] (1 on A1, 2 on B0), the part number 0x834C in [27:12], the manufacturer code
0x2F3 in [11:1] and 1 in [0], which is 0x1834C5E7 on A1 and 0x2834C5E7 on B0. Only the TAP changes. (R524) -/
def Obligations.IdcodeIsCaptured : Prop :=
  ∀ s : State, s.boot.standby = true → Completes .idcode s fun t =>
    bits t.dbg.dr 31 28 = (if s.made.b0 = true then 2 else 1) ∧ bits t.dbg.dr 27 12 = 0x834C ∧
    bits t.dbg.dr 11 1 = 0x2F3 ∧ bits t.dbg.dr 0 0 = 1 ∧
    t.dbg.dr = (if s.made.b0 = true then 0x2834C5E7 else 0x1834C5E7) ∧ t.dbg.ir = 1 ∧
    t = { s with dbg := { s.dbg with ir := 1, dr := t.dbg.dr, extest := none } }

/-- CE_MODE.STRICT takes a value only without an image. A write of CE_MODE, by its row or by REGISTER_WRITE of word 0,
completes. While the endpoint is up and no image is loaded, a write of the whole register or of its lower half gives
STRICT bit 0 of the data. While an image is loaded it changes nothing. Nothing but STRICT changes in either case.
(R114) -/
def Obligations.StrictTakesValueWithoutImage : Prop :=
  ∀ (s : State) (p : Part) (v : BitVec 64) (i : Instr), i = .ceMode p v ∨ i = .registerWrite 0 p v →
    (s.boot.pcie = true → s.img.loaded = false → p = .whole ∨ p = .lower → Completes i s fun t =>
      t = { s with ce := { s.ce with strict := bit v.toNat 0 } }) ∧
    (s.img.loaded = true → Completes i s fun t => t = s) ∧
    (p ≠ .whole → p ≠ .lower → Completes i s fun t => t = s)

/-- Control registers take the values written. While the endpoint is up, with a write of 8 B. CE_SQ_CFG, CE_CQ_CFG and
CE_EV_CFG of a disabled ring take its setting and enable it when EN is 1 and base and size are valid; a clear EN
disables it. A CE_SQ_TAIL below SIZE becomes the tail, any other raises RING_ERROR with cause 1; CE_CQ_HEAD and
CE_EV_HEAD take a value between head and tail. CK_REGION_MODE, PW_CEIL, PW_CAP, PW_THERM and PW_DIE_OFF take their
fields, clamped to their ranges. ER_LOG_SEL captures a record. REGISTER_WRITE of a reserved word does nothing, and of
FB_TXN_TIMEOUT takes 1 to 1,000. A write of 1 or 2 B is ignored. Memory, tiles and dies stay, but that without an image
PW_DIE_OFF drops the storage of the dies it turns off at once. (14_clocking.md,
15_power_and_thermal.md, 16_faults_and_failover.md, 17_command_interface.md, 20_register_map.md) -/
def Obligations.RegistersTakeWrites : Prop :=
  ∀ (s : State) (v : BitVec 64), s.boot.pcie = true →
    let x := v.toNat
    let p := s.pw
    let on := bit x 63
    let Same (t : State) : Prop := t.mem = s.mem ∧ t.tiles = s.tiles ∧ t.dies = s.dies
    (∀ n : Fin 64, (s.sqr n.val).en = false → Completes (.ceSqCfg n .whole v) s fun t => Same t ∧
      let r := t.sqr n.val
      let good := sqSizeOk r.size = true ∧ (s.sqr n.val).base + 64 * r.size ≤ 2 ^ 64
      r.size = (if sqSizeOk (bits x 12 0) = true then bits x 12 0 else (s.sqr n.val).size) ∧
      r.cq = bits x 29 24 ∧ r.prio = bits x 31 30 ∧ r.base = (s.sqr n.val).base ∧
      (on = true → good → r.en = true ∧ r.head = 0 ∧ r.tail = 0) ∧ (on = false ∨ ¬ good → r.en = false)) ∧
    (∀ n : Fin 64, (s.sqr n.val).en = true → Completes (.ceSqCfg n .whole v) s fun t => Same t ∧
      t.sqr n.val = { s.sqr n.val with en := on }) ∧
    (∀ n : Fin 64, (s.cqr n.val).en = false → Completes (.ceCqCfg n .whole v) s fun t => Same t ∧
      let r := t.cqr n.val
      let good := cqSizeOk r.size = true ∧ (s.cqr n.val).base + 32 * r.size ≤ 2 ^ 64
      r.size = (if cqSizeOk (bits x 16 0) = true then bits x 16 0 else (s.cqr n.val).size) ∧
      r.vec = bits x 29 24 ∧ r.mcnt = max 1 (bits x 39 32) ∧ r.mtime = bits x 47 40 ∧
      (on = true → good → r.en = true ∧ r.head = 0 ∧ r.tail = 0) ∧ (on = false ∨ ¬ good → r.en = false)) ∧
    (s.ce.ev.en = false → Completes (.ceEvCfg .whole v) s fun t => Same t ∧
      let r := t.ce.ev
      let good := cqSizeOk r.size = true ∧ s.ce.ev.base + 32 * r.size ≤ 2 ^ 64
      r.size = (if cqSizeOk (bits x 16 0) = true then bits x 16 0 else s.ce.ev.size) ∧
      (on = true → good → r.en = true ∧ r.opened = true ∧ r.head = 0 ∧ r.tail = 0) ∧ (on = false ∨ ¬ good → r.en = false)) ∧
    (∀ n : Fin 64,
      (bits x 12 0 < (s.sqr n.val).size → Completes (.ceSqTail n .whole v) s fun t => Same t ∧
        t.sqr n.val = { s.sqr n.val with tail := bits x 12 0 }) ∧
      ((s.sqr n.val).size ≤ bits x 12 0 → Completes (.ceSqTail n .whole v) s fun t => Same t ∧
        t.sqr n.val = s.sqr n.val ∧ (s.ce.ev.opened = true → ∃ e ∈ t.ce.ev.wait, e.code = 0x0005 ∧ e.cause = 1)) ∧
      (Completes (.ceCqHead n .whole v) s fun t => Same t ∧ t.cqr n.val = { s.cqr n.val with
        head := if headOk (s.cqr n.val).size (s.cqr n.val).head (s.cqr n.val).tail (bits x 15 0) = true
          then bits x 15 0 else (s.cqr n.val).head })) ∧
    (Completes (.ceEvHead .whole v) s fun t => t = { s with ce := { s.ce with ev := { s.ce.ev with
      head := if headOk s.ce.ev.size s.ce.ev.head s.ce.ev.tail (bits x 15 0) = true
        then bits x 15 0 else s.ce.ev.head } } }) ∧
    (Completes (.ckRegionMode .whole v) s fun t => t = { s with ck := { s.ck with want := t.ck.want } } ∧
      ∀ i, i < 24 → bits t.ck.want (2 * i + 1) (2 * i) =
        if bits x (2 * i + 1) (2 * i) = 3 then 0 else bits x (2 * i + 1) (2 * i)) ∧
    (Completes (.pwCeil .whole v) s fun t => t = { s with pw := { p with ceil := min 14 (bits x 3 0) } }) ∧
    (Completes (.pwCap .whole v) s fun t => t = { s with pw := { p with
      watts := if bits x 15 0 = 0 then 0 else max 450 (min 2400 (bits x 15 0))
      win := max 1 (min 1000 (bits x 31 16)), hyst := min 500 (bits x 47 32) } }) ∧
    (Completes (.pwTherm .whole v) s fun t => t = { s with pw := { p with throttle := max 60 (min 95 (bits x 7 0)) } }) ∧
    (Completes (.pwDieOff .whole v) s fun t => t = { s with
      pw := { p with dieOff := bits x 7 0, dieOffCur := if s.img.loaded = true then p.dieOffCur else bits x 7 0 }
      mem := if s.img.loaded = true then s.mem else s.mem.dropDies (bits x 7 0) }) ∧
    (Completes (.erLogSel .whole v) s fun t => t = { s with er := t.er } ∧ t.er.sel = bits x 11 0 ∧
      t.er.captured = tget {} s.er.log (bits x 11 0) ∧ t.er.log = s.er.log) ∧
    (Completes (.registerWrite 0x8004 .whole v) s fun t =>
      t = { s with fab := { s.fab with timeout := max 1 (min 1000 (bits x 9 0)) } }) ∧
    (∀ w : Fin 131072, 0x3000 / 8 + 5 ≤ w.val → w.val < 0x10000 / 8 ∨ 0xE0080 / 8 ≤ w.val → ∀ q,
      Completes (.registerWrite w q v) s fun t => t = s) ∧
    (∀ (a : Fin 8) (two : Bool) (w : Fin 131072) (n : Fin 64),
      let b := Part.bytes a two
      ∀ i ∈ [Instr.ceMode b v, .ceSqCfg n b v, .ceCqCfg n b v, .ceEvCfg b v, .ceSqTail n b v, .ceCqHead n b v,
        .ceEvHead b v, .hcTblCommit b v, .hcGtCommit b v, .ckRegionMode b v, .pwCeil b v, .pwCap b v, .pwTherm b v,
        .pwDieOff b v, .erLogSel b v, .registerWrite w b v], Completes i s fun t => t = s)

/-- Data registers stage, advance and read. While the endpoint is up. A write of HC_TBL_DATA with no recorded update
stages the store word at the address, which advances, and reads back before the advance; HC_GT_DATA and FB_STAGE_DATA
do the same for a governor entry and a multicast entry. HC_TBL_COMMIT and HC_GT_COMMIT with GO record the update, or
refuse it with a reason. A read of TM_TICK_LO returns the low half of TICK and latches the upper half;
REGISTER_HALF_READ of a word returns its value, and of an upper half what is latched. A read of CK_MARGIN_MIN returns
8 margins and clears them. ER_LOG_DATA returns a captured word and marks the record read. (09_serving_engine.md,
13_barriers_and_time.md, 14_clocking.md, 16_faults_and_failover.md, 20_register_map.md) -/
def Obligations.DataRegistersAct : Prop :=
  ∀ (s : State), s.boot.pcie = true →
    let Same (t : State) : Prop := t.mem = s.mem ∧ t.tiles = s.tiles ∧ t.dies = s.dies ∧ t.ce = s.ce
    (∀ v : BitVec 64, s.sv.tblState ≠ 1 → bits s.sv.tblAddr 63 62 = 0 → s.sv.staged < 524288 →
      Completes (.hcTblData .whole (some v)) s fun t => Same t ∧ t.stagedWord (bits s.sv.tblAddr 22 0) = v.toNat ∧
        (∀ w, w ≠ bits s.sv.tblAddr 22 0 → t.stagedWord w = s.stagedWord w) ∧
        bits t.sv.tblAddr 22 0 = (bits s.sv.tblAddr 22 0 + 1) % 2 ^ 23 ∧ t.sv.store = s.sv.store) ∧
    (∀ v : BitVec 64, s.sv.tblState = 1 → Completes (.hcTblData .whole (some v)) s fun t => t = s) ∧
    (bits s.sv.tblAddr 63 62 = 0 → Completes (.hcTblData .whole none) s fun t => Same t ∧
      t.bus.rdata = s.stagedWord (bits s.sv.tblAddr 22 0) ∧
      bits t.sv.tblAddr 22 0 = (bits s.sv.tblAddr 22 0 + 1) % 2 ^ 23) ∧
    (∀ v : BitVec 64, bit v.toNat 0 = true → s.sv.tblState ≠ 1 → Completes (.hcTblCommit .whole v) s fun t => Same t ∧
      (s.tblRefusal = none → t.sv.tblState = 1 ∧ t.sv.tblReason = 0) ∧
      (∀ r o, s.tblRefusal = some (r, o) → t.sv.tblState = 2 ∧ t.sv.tblReason = r)) ∧
    (∀ v : BitVec 64, s.sv.gtAddr < 1024 → Completes (.hcGtData .whole (some v)) s fun t => Same t ∧
      t.sv.stGov.find? (fun e => e.1 == s.sv.gtAddr) = some (s.sv.gtAddr, v) ∧
      t.sv.gtAddr = (s.sv.gtAddr + 1) % 1024 ∧ t.sv.gov = s.sv.gov) ∧
    (Completes (.hcGtData .whole none) s fun t => Same t ∧ t.bus.rdata = s.gtData ∧
      t.sv.gtAddr = (s.sv.gtAddr + 1) % 1024) ∧
    (∀ v : BitVec 64, bit v.toNat 0 = true → s.sv.gtState ≠ 1 → Completes (.hcGtCommit .whole v) s fun t => Same t ∧
      (s.gtRefusal = none → t.sv.gtState = 1 ∧ t.sv.gtReason = 0) ∧
      (∀ r o, s.gtRefusal = some (r, o) → t.sv.gtState = 2 ∧ t.sv.gtReason = r)) ∧
    (∀ v : BitVec 64, s.switching = false → bits s.fab.stAddr 63 62 = 1 →
      Completes (.fbStageData .whole (some v)) s fun t => Same t ∧
        tget 0 t.fab.stMcast (bits s.fab.stAddr 15 4) = v ∧ t.fab.stPaths = s.fab.stPaths ∧
        bits t.fab.stAddr 15 4 = (bits s.fab.stAddr 15 4 + 1) % 4096) ∧
    (bits s.fab.stAddr 63 62 = 1 → Completes (.fbStageData .whole none) s fun t => Same t ∧
      t.bus.rdata = (tget 0 s.fab.stMcast (bits s.fab.stAddr 15 4)).toNat ∧
      bits t.fab.stAddr 15 4 = (bits s.fab.stAddr 15 4 + 1) % 4096) ∧
    (Completes .tmTickLo s fun t => t.bus.rdata = s.now % 2 ^ 32 ∧
      tget 0 t.bus.latch 0x50000 = 1 + s.now % 2 ^ 64 / 2 ^ 32 ∧ t = { s with bus := t.bus }) ∧
    (∀ n, tget 0 s.bus.latch 0x50000 = 1 + n → Completes (.registerHalfRead 0xA000 .upper) s fun t =>
      t.bus.rdata = n * 2 ^ 32 ∧ tget 0 t.bus.latch 0x50000 = 0 ∧ t = { s with bus := t.bus }) ∧
    (∀ w : Fin 131072, Completes (.registerHalfRead w .whole) s fun t => Same t ∧ t.bus.rdata = s.regWord (8 * w.val)) ∧
    (∀ m : Fin 3, Completes (.ckMarginMin m .whole) s fun t => t.bus.rdata = s.marginWord m.val ∧
      (∀ r, tget 0 t.ck.marginMin r = if r / 8 = m.val then 0 else tget 0 s.ck.marginMin r) ∧
      t = { s with bus := t.bus, ck := { s.ck with marginMin := t.ck.marginMin } }) ∧
    (∀ w : Fin 4, Completes (.erLogData w .whole) s fun t => t.bus.rdata = fieldAt s.er.captured.bytes (8 * w.val) 8 ∧
      (∀ i, s.er.capIdx = some i → (tget {} t.er.log i).isRead = true) ∧
      t = { s with bus := t.bus, er := { s.er with log := t.er.log } })

/-- An empty queue lets one cyc pass. With no command waiting a step answers a next state with none waiting. Where no
tile holds work, a line or a fetch and no line is on a mesh: of each die that runs the cyc count rises by 1, its gates
hold it if any is not satisfied, and a fault raised before has stopped it; a die that does not run counts no cyc. A tile
in CWAIT on a running die with no fault waits one cyc less, and an ended tile stays ended. Memory, TICK and the image
are unchanged; an orderly stop ends, and so does the staging of a firmware image, which is staged if it passes its
checks. That one cyc passes at an empty queue, and that these end there, is the model's choice (logs 5, 96, 128). (04_program_model_and_timing.md,
95_what_each_step_holds.md) -/
def Obligations.EmptyQueueLetsACycPass : Prop :=
  ∀ s : State, s.pending = [] → ∃ t, step s = .next t ∧ t.pending = [] ∧
    (twf {} s.tiles = true → s.Still → SameBytes s t ∧ t.tm.tick = s.tm.tick ∧ t.img = s.img ∧
      (∀ d, d < 8 → (s.die d).runs = true → (t.die d).cyc = (s.die d).cyc + 1 ∧
        (t.die d).held = (!(s.die d).gates.isEmpty) ∧ (t.die d).gatesDone = [] ∧ (t.die d).stop.atEnd = false ∧
        ((s.die d).stop.atEnd = true → (t.die d).stop.fault = true)) ∧
      (∀ d, (s.die d).runs = false → (t.die d).cyc = (s.die d).cyc) ∧
      (∀ k n, k < 2048 → (s.die (k / 256)).runs = true → (s.tile k).faultNow = false →
        (s.tile k).seq = .waiting (n + 1) → (t.tile k).seq = .waiting n ∧ (t.tile k).pc = (s.tile k).pc) ∧
      (∀ k, (s.tile k).faultNow = false → (s.tile k).seq = .ended → (t.tile k).seq = .ended) ∧
      t.pw.stopping = false ∧ t.fw.staging = none ∧
      (∀ a n, s.fw.staging = some (a, n) → let m := s.hostBytes a n
        t.fw.staged = if s.fwCheck m = 0 then some (fieldAt m 8 4, fieldAt m 0xC 4) else none))

/-- A bank serves one access a cyc, and work reads and writes as scheduled. Of the claims of a tile's banks in a cyc, any
two of one bank whose accesses are performed share one access; the job of a claim that is not gives its tile a
BANK_CONFLICT fault to report, and where every claim is performed nothing faults. The reads of a tile with one job, in a
cyc without a fetch, are those of the job, and so are its writes where no line lands. No read of a job changes a byte of
scratchpad; at the end of a cyc a job of the matrix unit, a table load, a DTRN, a SLANES or a send changes no byte but
those that it claims. (02_tiles_and_virtual_grid.md, 03_memory_and_regions.md, 07_vector_engine.md) -/
def Obligations.BanksServeOneAccess : Prop :=
  (∀ (l : List Claim), ∀ a ∈ l, ∀ b ∈ l, a.bank = b.bank → a.loses l = false → b.loses l = false → a.shares b = true) ∧
  (∀ (s : State) (k : Nat), (s.tile k).seq ≠ .faulted →
    (∀ (i : Nat) (wr : Bool), i < (s.tile k).jobs.length →
      (((if wr then (s.banks k).wr else (s.banks k).rd)[i]?).getD [] ≠ [] →
        Faulted k .bankConflict (bankFaults s k (s.banks k)))) ∧
    ((∀ a ∈ s.claims k, a.loses (s.claims k) = false) → bankFaults s k (s.banks k) = s)) ∧
  (∀ (s : State) (k : Nat) (j : Job), (s.tile k).jobs = [j] → (s.tile k).fetch = false →
    (∀ lost, readPhase s k ⟨[[]], lost, []⟩ =
      let r := j.read s k (s.cycAt k)
      r.1.modTile k fun t => { t with jobs := [{ j with work := r.2 }] }) ∧
    (∀ rd lost, writePhase s k ⟨rd, [lost], []⟩ =
      let r := j.write s k (s.cycAt k) lost
      r.1.modTile k fun t => { t with jobs := [{ j with work := r.2 }] })) ∧
  (∀ (s : State) (k c : Nat) (j : Job), (j.read s k c).1.mem.spad = s.mem.spad) ∧
  (∀ (s : State) (k c : Nat) (lost : List Nat) (j : Job),
    (match j.work with | .run _ => False | .move _ => False | .gath _ => False | _ => True) →
    ∀ a, (∀ r ∈ j.writes s.tp2 c, ∀ i, i < r.2 → a ≠ spKey k r.1 + i ∧ a ≠ spKey k (r.1 + i)) →
      mget (j.write s k c lost).1.mem.spad a = mget s.mem.spad a)

/-- Reset leaves the registers at their reset values. Right after reset the registers that the tables give a reset
value other than 0 hold it, no command waits, the module is in state STARTING and EPOCH 0 with no image, PWR_OK has
not asserted, TICK is 0, and the memories are in canonical form. (PERST# asserted and an empty memory are the model's
choice, logs 3 and 6.) (18_startup_and_discovery.md, 20_register_map.md) -/
def Obligations.ResetLeavesResetValues : Prop :=
  let s := State.reset
  s.pending = [] ∧ s.memWf = true ∧ s.ce.state = .starting ∧ s.img.loaded = false ∧ s.boot.pwrOk = false ∧
  (∀ n, n < 64 → bits (s.regWord (0x2008 + 0x40 * n)) 39 32 = 1) ∧
  s.regWord 0x20080 = 0xE10 + 0x258 * 2 ^ 32 ∧ bits (s.regWord 0x40000) 15 0 = 0xFFFF ∧ s.regWord 0x40008 = 0 ∧
  s.regWord 0x40020 = 0xA ∧ s.regWord 0x50000 = 0 ∧ bits (s.regWord 0x50010) 47 32 = 0xFFFF ∧
  bits (s.regWord 0x50010) 19 16 = 0xF ∧ bits (s.regWord 0x50010) 12 8 = 0x1F ∧
  s.regWord 0x50018 = 0xBB8 + 0x64 * 2 ^ 32 ∧ bits (s.regWord 0x60000) 59 48 = 0x190 ∧ s.regWord 0x60018 = 0x14 + 0x8 * 2 ^ 8 ∧
  bits (s.regWord 0x70020) 31 4 = 0x22 ∧ bits (s.regWord 0x70020) 3 0 = 0xE ∧ s.regWord 0x70028 = 2 ∧
  s.regWord 0x70030 = 0xA * 2 ^ 16 + 0x32 * 2 ^ 32 ∧ s.regWord 0x70038 = 0x5F ∧ s.regWord 0x70040 = 0xA ∧
  s.regWord 0x70048 = 0x3E8 * 2 ^ 16 ∧ s.regWord 0x80000 = 0x10 ∧
  s.regWord 0x80008 = 0x10 + 0xEA60 * 2 ^ 32 ∧ s.regWord 0x80010 = 0x10 + 0xEA60 * 2 ^ 32 ∧
  s.regWord 0x80018 = 0x40 + 0x3E8 * 2 ^ 32 ∧ s.regWord 0x80020 = 0x40 + 0x3E8 * 2 ^ 32

/-- Slot words and instructions stand for each other. Every well-formed instruction of the five slots has a slot word
that fits its slot, is one the loader admits, and decodes at the instruction's tile to the instruction, with every
operand at every value that the encoding admits. Every slot word that the loader admits decodes, at every tile, to one
instruction, whose slot word it is and whose fields are legal. (03_memory_and_regions.md,
04_program_model_and_timing.md, 05_matrix_engine.md, 07_vector_engine.md, 08_attention_and_kv_pages.md,
09_serving_engine.md, 11_package_network.md) -/
def Obligations.SlotWordsStandForInstructions : Prop :=
  (∀ (i : Instr) (x : Site), i.wf = true → i.site? = some x → (∀ e, i ≠ .offdieSendRead x e) → i ≠ .cwaitExpiry x →
    i ≠ .sequencerFetch x → ∃ sl w, encodeSlot i = some (sl, w) ∧ w < 2 ^ sl.width ∧ slotLegal sl w = true ∧
      decodeSlot x sl w = some i) ∧
  (∀ (sl : Slot) (w : Nat) (x : Site), slotLegal sl w = true →
    ∃ i, decodeSlot x sl w = some i ∧ encodeSlot i = some (sl, w) ∧ i.site? = some x ∧ fieldsLegal i = true)

/-- Instructions and idle cycles keep the memories canonical. From every state whose byte memories (scratchpads,
Cavern, host memory and the mask store) are in canonical form, a step whose front command is an instruction or an
action of a tile, or that finds no command, answers a state in which they are in canonical form and the queue is what
was behind the front. (02_tiles_and_virtual_grid.md, 95_what_each_step_holds.md) -/
def Obligations.TileStepsKeepMemoriesCanonical : Prop :=
  ∀ s t : State, s.memWf = true → (s.pending = [] ∨ ∃ i x rest, s.pending = i :: rest ∧ i.site? = some x) →
    step s = .next t → t.memWf = true ∧ t.pending = s.pending.drop 1
end

