-- ==== Sys2Proof/Laws/Tbl.lean ====
section
/-! SUPPORT. Laws of sparse tables and byte memories: reading after writing, and the canonical form. -/

namespace Sys2Proof.Machine

section
variable {α : Type}

theorem tget_tins (d : α) (t : Tbl α) (k j : Nat) (v : α) :
    tget d (tins k v t) j = if j = k then v else tget d t j := by
  induction t with
  | nil => simp only [tins, tget]; grind
  | cons e t ih => obtain ⟨i, w⟩ := e; simp only [tins, tget]; grind [tget]

theorem tget_tdel (d : α) (t : Tbl α) (k j : Nat) :
    tget d (tdel k t) j = if j = k then d else tget d t j := by
  induction t with
  | nil => simp [tdel, tget]
  | cons e t ih =>
    obtain ⟨i, w⟩ := e
    simp only [tdel, List.filter_cons] at ih ⊢
    by_cases h : i = k <;> simp [h, tget, ih] <;> grind

@[simp] theorem tget_nil (d : α) (k : Nat) : tget d [] k = d := rfl

variable [DecidableEq α]

/-- A table reads what was last written at a key, and elsewhere as before. -/
theorem tget_tset (d : α) (t : Tbl α) (k j : Nat) (v : α) :
    tget d (tset d t k v) j = if j = k then v else tget d t j := by
  unfold tset
  split
  · next h => subst h; rw [tget_tdel]
  · rw [tget_tins]

@[simp] theorem tget_tset_same (d : α) (t : Tbl α) (k : Nat) (v : α) : tget d (tset d t k v) k = v := by
  simp [tget_tset]

theorem tget_tset_ne (d : α) (t : Tbl α) (k j : Nat) (v : α) (h : j ≠ k) : tget d (tset d t k v) j = tget d t j := by
  simp [tget_tset, h]

theorem tget_tmod (d : α) (t : Tbl α) (k j : Nat) (f : α → α) :
    tget d (tmod d t k f) j = if j = k then f (tget d t k) else tget d t j := by
  simp [tmod, tget_tset]

@[simp] theorem tget_tmod_same (d : α) (t : Tbl α) (k : Nat) (f : α → α) : tget d (tmod d t k f) k = f (tget d t k) := by
  simp [tmod]

/-- Writes under other keys leave what a key reads. -/
theorem tget_foldl_ne {β : Type} (d : α) (κ : β → Nat) (v : β → α) (l : List β) (t : Tbl α) (a : Nat)
    (h : ∀ i ∈ l, κ i ≠ a) : tget d (l.foldl (fun t i => tset d t (κ i) (v i)) t) a = tget d t a := by
  induction l generalizing t with
  | nil => rfl
  | cons i l ih =>
    rw [List.foldl_cons, ih _ (fun j hj => h j (by simp [hj])), tget_tset_ne]
    exact fun e => h i (by simp) e.symm

/-- Of several writes under one key the last one stands. -/
theorem tget_foldl_last {β : Type} (d : α) (κ : β → Nat) (v : β → α) (l r : List β) (i : β) (t : Tbl α)
    (h : ∀ j ∈ r, κ j ≠ κ i) : tget d ((l ++ i :: r).foldl (fun t i => tset d t (κ i) (v i)) t) (κ i) = v i := by
  rw [List.foldl_append, List.foldl_cons, tget_foldl_ne d κ v r _ _ h, tget_tset_same]

/-- A table filled from a numbered range reads, at the key of an index that no later one shares, what it put there. -/
theorem tget_foldl_range (d : α) (κ : Nat → Nat) (v : Nat → α) (n i : Nat) (t : Tbl α) (hi : i < n)
    (h : ∀ j, i < j → j < n → κ j ≠ κ i) :
    tget d ((List.range n).foldl (fun t i => tset d t (κ i) (v i)) t) (κ i) = v i := by
  obtain ⟨m, rfl⟩ : ∃ m, n = i + (m + 1) := ⟨n - i - 1, by omega⟩
  have e : List.range (i + (m + 1)) = List.range i ++ i :: (List.range m).map (fun j => i + (j + 1)) := by
    rw [List.range_add, List.range_succ_eq_map]
    simp [Function.comp_def]
  rw [e]
  apply tget_foldl_last
  intro j hj
  simp only [List.mem_map, List.mem_range] at hj
  obtain ⟨a, ha, rfl⟩ := hj
  exact h _ (by omega) (by omega)

/-! ### The canonical form -/

theorem twfFrom_mono (d : α) (t : Tbl α) (a b : Nat) (h : a ≤ b) (w : twfFrom d b t = true) : twfFrom d a t = true := by
  cases t with
  | nil => rfl
  | cons e t => obtain ⟨i, v⟩ := e; simp [twfFrom] at w ⊢; exact ⟨⟨by omega, w.1.2⟩, w.2⟩

theorem twfFrom_tins (d : α) (t : Tbl α) (lo k : Nat) (v : α) (h : lo ≤ k) (n : v ≠ d)
    (w : twfFrom d lo t = true) : twfFrom d lo (tins k v t) = true := by
  induction t generalizing lo with
  | nil => simp [tins, twfFrom, h, n]
  | cons e t ih =>
    obtain ⟨i, u⟩ := e
    simp only [twfFrom, Bool.and_eq_true, decide_eq_true_eq] at w
    simp only [tins]
    split
    · simp only [twfFrom, Bool.and_eq_true, decide_eq_true_eq]
      exact ⟨⟨h, n⟩, ⟨by omega, w.1.2⟩, w.2⟩
    · split
      · next hk => subst hk; simp only [twfFrom, Bool.and_eq_true, decide_eq_true_eq]; exact ⟨⟨h, n⟩, w.2⟩
      · simp only [twfFrom, Bool.and_eq_true, decide_eq_true_eq]
        exact ⟨⟨w.1.1, w.1.2⟩, ih _ (by omega) w.2⟩

theorem twfFrom_filter (d : α) (t : Tbl α) (lo : Nat) (p : Nat × α → Bool) (w : twfFrom d lo t = true) :
    twfFrom d lo (t.filter p) = true := by
  induction t generalizing lo with
  | nil => rfl
  | cons e t ih =>
    obtain ⟨i, u⟩ := e
    simp only [twfFrom, Bool.and_eq_true, decide_eq_true_eq] at w
    simp only [List.filter_cons]
    split
    · simp only [twfFrom, Bool.and_eq_true, decide_eq_true_eq]; exact ⟨w.1, ih _ w.2⟩
    · exact twfFrom_mono d _ _ _ (by omega) (ih _ w.2)

/-- A write keeps the canonical form of a table. -/
theorem twf_tset (d : α) (t : Tbl α) (k : Nat) (v : α) (w : twf d t = true) : twf d (tset d t k v) = true := by
  unfold tset
  split
  · exact twfFrom_filter d t 0 _ w
  · next h => exact twfFrom_tins d t 0 k v (by omega) h w

end

/-! ### Memories -/

theorem mget_mset (m : Memory) (a b : Nat) (v : Byte) : mget (mset m a v) b = if b = a then v else mget m b :=
  tget_tset 0 m a b v

/-- Every memory operation keeps the canonical form. -/
theorem Memory.wf_mset (m : Memory) (a : Nat) (v : Byte) (w : Memory.wf m = true) : Memory.wf (mset m a v) = true :=
  twf_tset 0 m a v w

theorem Memory.wf_mputs (bs : List Byte) (m : Memory) (a : Nat) (w : Memory.wf m = true) :
    Memory.wf (mputs m a bs) = true := by
  induction bs generalizing m a with
  | nil => exact w
  | cons b bs ih => exact ih _ _ (Memory.wf_mset m a b w)

theorem Memory.wf_mclear (m : Memory) (lo len : Nat) (w : Memory.wf m = true) : Memory.wf (mclear m lo len) = true :=
  twfFrom_filter 0 m 0 _ w

/-- What a byte reads as after a block write. -/
theorem mget_mputs (bs : List Byte) (m : Memory) (a b : Nat) :
    mget (mputs m a bs) b = if h : a ≤ b ∧ b < a + bs.length then bs[b - a]'(by omega) else mget m b := by
  induction bs generalizing m a with
  | nil => simp [mputs] <;> omega
  | cons x bs ih =>
    simp only [mputs, ih, mget_mset, List.length_cons]
    by_cases h1 : b = a
    · subst h1; simp <;> (intro h; omega)
    · by_cases h2 : a + 1 ≤ b ∧ b < a + 1 + bs.length
      · have h3 : a ≤ b ∧ b < a + (bs.length + 1) := by omega
        have h4 : b - a = (b - (a + 1)) + 1 := by omega
        simp [h2, h3, h4]
      · have h3 : ¬ (a ≤ b ∧ b < a + (bs.length + 1)) := by omega
        simp only [h2, h3, h1, dite_false, if_false]

theorem mget_mputs_outside (bs : List Byte) (m : Memory) (a b : Nat) (h : b < a ∨ a + bs.length ≤ b) :
    mget (mputs m a bs) b = mget m b := by
  rw [mget_mputs, dif_neg (by omega)]

theorem mget_mclear (m : Memory) (lo len b : Nat) :
    mget (mclear m lo len) b = if lo ≤ b ∧ b < lo + len then 0 else mget m b := by
  unfold mclear mget
  induction m with
  | nil => simp [tget]
  | cons e m ih =>
    obtain ⟨i, v⟩ := e
    simp only [List.filter_cons, tget]
    split
    · next h => simp only [tget, ih]; simp at h; grind
    · next h => rw [ih]; simp at h; grind

/-! ### Numbers in bytes -/

@[simp] theorem leBytes_length (n v : Nat) : (leBytes n v).length = n := by
  induction n generalizing v with
  | zero => rfl
  | succ n ih => simp [leBytes, ih]

/-- The bytes of a number spell the number, modulo their room. -/
theorem leNat_leBytes (n v : Nat) : leNat (leBytes n v) = v % 256 ^ n := by
  induction n generalizing v with
  | zero => simp [leBytes, leNat, Nat.mod_one]
  | succ n ih =>
    have h : v % 256 ^ (n + 1) = v % 256 + 256 * (v / 256 % 256 ^ n) := by
      rw [Nat.pow_succ, Nat.mul_comm, Nat.mod_mul]
    rw [leBytes, leNat, ih, h]
    rfl

end Sys2Proof.Machine
end

