-- ==== Sys2Proof/Laws/State.lean ====
section
/-! SUPPORT. One law per field of State and update: what an update writes and what it leaves. -/

namespace Sys2Proof.Machine

@[simp] theorem State.modTm_pending (s : State) (f : Time → Time) : (s.modTm f).pending = s.pending := rfl
@[simp] theorem State.modTm_free (s : State) (f : Time → Time) : (s.modTm f).free = s.free := rfl
@[simp] theorem State.modTm_tiles (s : State) (f : Time → Time) : (s.modTm f).tiles = s.tiles := rfl
@[simp] theorem State.modTm_dies (s : State) (f : Time → Time) : (s.modTm f).dies = s.dies := rfl
@[simp] theorem State.modTm_mem (s : State) (f : Time → Time) : (s.modTm f).mem = s.mem := rfl
@[simp] theorem State.modTm_img (s : State) (f : Time → Time) : (s.modTm f).img = s.img := rfl
@[simp] theorem State.modTm_er (s : State) (f : Time → Time) : (s.modTm f).er = s.er := rfl
@[simp] theorem State.modTm_ce (s : State) (f : Time → Time) : (s.modTm f).ce = s.ce := rfl
@[simp] theorem State.modTm_fw (s : State) (f : Time → Time) : (s.modTm f).fw = s.fw := rfl
@[simp] theorem State.modTm_dbg (s : State) (f : Time → Time) : (s.modTm f).dbg = s.dbg := rfl
@[simp] theorem State.modTm_net (s : State) (f : Time → Time) : (s.modTm f).net = s.net := rfl
@[simp] theorem State.modTm_fab (s : State) (f : Time → Time) : (s.modTm f).fab = s.fab := rfl
@[simp] theorem State.modTm_pages (s : State) (f : Time → Time) : (s.modTm f).pages = s.pages := rfl
@[simp] theorem State.modTm_tm (s : State) (f : Time → Time) : (s.modTm f).tm = f s.tm := rfl
@[simp] theorem State.modTm_groups (s : State) (f : Time → Time) : (s.modTm f).groups = s.groups := rfl
@[simp] theorem State.modTm_ck (s : State) (f : Time → Time) : (s.modTm f).ck = s.ck := rfl
@[simp] theorem State.modTm_pw (s : State) (f : Time → Time) : (s.modTm f).pw = s.pw := rfl
@[simp] theorem State.modTm_sv (s : State) (f : Time → Time) : (s.modTm f).sv = s.sv := rfl
@[simp] theorem State.modTm_tw (s : State) (f : Time → Time) : (s.modTm f).tw = s.tw := rfl
@[simp] theorem State.modTm_boot (s : State) (f : Time → Time) : (s.modTm f).boot = s.boot := rfl
@[simp] theorem State.modTm_bus (s : State) (f : Time → Time) : (s.modTm f).bus = s.bus := rfl
@[simp] theorem State.modTm_made (s : State) (f : Time → Time) : (s.modTm f).made = s.made := rfl
@[simp] theorem State.modTm_id (s : State) (f : Time → Time) : (s.modTm f).id = s.id := rfl

@[simp] theorem State.modTw_pending (s : State) (f : Twin → Twin) : (s.modTw f).pending = s.pending := rfl
@[simp] theorem State.modTw_free (s : State) (f : Twin → Twin) : (s.modTw f).free = s.free := rfl
@[simp] theorem State.modTw_tiles (s : State) (f : Twin → Twin) : (s.modTw f).tiles = s.tiles := rfl
@[simp] theorem State.modTw_dies (s : State) (f : Twin → Twin) : (s.modTw f).dies = s.dies := rfl
@[simp] theorem State.modTw_mem (s : State) (f : Twin → Twin) : (s.modTw f).mem = s.mem := rfl
@[simp] theorem State.modTw_img (s : State) (f : Twin → Twin) : (s.modTw f).img = s.img := rfl
@[simp] theorem State.modTw_er (s : State) (f : Twin → Twin) : (s.modTw f).er = s.er := rfl
@[simp] theorem State.modTw_ce (s : State) (f : Twin → Twin) : (s.modTw f).ce = s.ce := rfl
@[simp] theorem State.modTw_fw (s : State) (f : Twin → Twin) : (s.modTw f).fw = s.fw := rfl
@[simp] theorem State.modTw_dbg (s : State) (f : Twin → Twin) : (s.modTw f).dbg = s.dbg := rfl
@[simp] theorem State.modTw_net (s : State) (f : Twin → Twin) : (s.modTw f).net = s.net := rfl
@[simp] theorem State.modTw_fab (s : State) (f : Twin → Twin) : (s.modTw f).fab = s.fab := rfl
@[simp] theorem State.modTw_pages (s : State) (f : Twin → Twin) : (s.modTw f).pages = s.pages := rfl
@[simp] theorem State.modTw_tm (s : State) (f : Twin → Twin) : (s.modTw f).tm = s.tm := rfl
@[simp] theorem State.modTw_groups (s : State) (f : Twin → Twin) : (s.modTw f).groups = s.groups := rfl
@[simp] theorem State.modTw_ck (s : State) (f : Twin → Twin) : (s.modTw f).ck = s.ck := rfl
@[simp] theorem State.modTw_pw (s : State) (f : Twin → Twin) : (s.modTw f).pw = s.pw := rfl
@[simp] theorem State.modTw_sv (s : State) (f : Twin → Twin) : (s.modTw f).sv = s.sv := rfl
@[simp] theorem State.modTw_tw (s : State) (f : Twin → Twin) : (s.modTw f).tw = f s.tw := rfl
@[simp] theorem State.modTw_boot (s : State) (f : Twin → Twin) : (s.modTw f).boot = s.boot := rfl
@[simp] theorem State.modTw_bus (s : State) (f : Twin → Twin) : (s.modTw f).bus = s.bus := rfl
@[simp] theorem State.modTw_made (s : State) (f : Twin → Twin) : (s.modTw f).made = s.made := rfl
@[simp] theorem State.modTw_id (s : State) (f : Twin → Twin) : (s.modTw f).id = s.id := rfl

@[simp] theorem State.modSv_pending (s : State) (f : Serve → Serve) : (s.modSv f).pending = s.pending := rfl
@[simp] theorem State.modSv_free (s : State) (f : Serve → Serve) : (s.modSv f).free = s.free := rfl
@[simp] theorem State.modSv_tiles (s : State) (f : Serve → Serve) : (s.modSv f).tiles = s.tiles := rfl
@[simp] theorem State.modSv_dies (s : State) (f : Serve → Serve) : (s.modSv f).dies = s.dies := rfl
@[simp] theorem State.modSv_mem (s : State) (f : Serve → Serve) : (s.modSv f).mem = s.mem := rfl
@[simp] theorem State.modSv_img (s : State) (f : Serve → Serve) : (s.modSv f).img = s.img := rfl
@[simp] theorem State.modSv_er (s : State) (f : Serve → Serve) : (s.modSv f).er = s.er := rfl
@[simp] theorem State.modSv_ce (s : State) (f : Serve → Serve) : (s.modSv f).ce = s.ce := rfl
@[simp] theorem State.modSv_fw (s : State) (f : Serve → Serve) : (s.modSv f).fw = s.fw := rfl
@[simp] theorem State.modSv_dbg (s : State) (f : Serve → Serve) : (s.modSv f).dbg = s.dbg := rfl
@[simp] theorem State.modSv_net (s : State) (f : Serve → Serve) : (s.modSv f).net = s.net := rfl
@[simp] theorem State.modSv_fab (s : State) (f : Serve → Serve) : (s.modSv f).fab = s.fab := rfl
@[simp] theorem State.modSv_pages (s : State) (f : Serve → Serve) : (s.modSv f).pages = s.pages := rfl
@[simp] theorem State.modSv_tm (s : State) (f : Serve → Serve) : (s.modSv f).tm = s.tm := rfl
@[simp] theorem State.modSv_groups (s : State) (f : Serve → Serve) : (s.modSv f).groups = s.groups := rfl
@[simp] theorem State.modSv_ck (s : State) (f : Serve → Serve) : (s.modSv f).ck = s.ck := rfl
@[simp] theorem State.modSv_pw (s : State) (f : Serve → Serve) : (s.modSv f).pw = s.pw := rfl
@[simp] theorem State.modSv_sv (s : State) (f : Serve → Serve) : (s.modSv f).sv = f s.sv := rfl
@[simp] theorem State.modSv_tw (s : State) (f : Serve → Serve) : (s.modSv f).tw = s.tw := rfl
@[simp] theorem State.modSv_boot (s : State) (f : Serve → Serve) : (s.modSv f).boot = s.boot := rfl
@[simp] theorem State.modSv_bus (s : State) (f : Serve → Serve) : (s.modSv f).bus = s.bus := rfl
@[simp] theorem State.modSv_made (s : State) (f : Serve → Serve) : (s.modSv f).made = s.made := rfl
@[simp] theorem State.modSv_id (s : State) (f : Serve → Serve) : (s.modSv f).id = s.id := rfl

@[simp] theorem State.modCe_pending (s : State) (f : Ce → Ce) : (s.modCe f).pending = s.pending := rfl
@[simp] theorem State.modCe_free (s : State) (f : Ce → Ce) : (s.modCe f).free = s.free := rfl
@[simp] theorem State.modCe_tiles (s : State) (f : Ce → Ce) : (s.modCe f).tiles = s.tiles := rfl
@[simp] theorem State.modCe_dies (s : State) (f : Ce → Ce) : (s.modCe f).dies = s.dies := rfl
@[simp] theorem State.modCe_mem (s : State) (f : Ce → Ce) : (s.modCe f).mem = s.mem := rfl
@[simp] theorem State.modCe_img (s : State) (f : Ce → Ce) : (s.modCe f).img = s.img := rfl
@[simp] theorem State.modCe_er (s : State) (f : Ce → Ce) : (s.modCe f).er = s.er := rfl
@[simp] theorem State.modCe_ce (s : State) (f : Ce → Ce) : (s.modCe f).ce = f s.ce := rfl
@[simp] theorem State.modCe_fw (s : State) (f : Ce → Ce) : (s.modCe f).fw = s.fw := rfl
@[simp] theorem State.modCe_dbg (s : State) (f : Ce → Ce) : (s.modCe f).dbg = s.dbg := rfl
@[simp] theorem State.modCe_net (s : State) (f : Ce → Ce) : (s.modCe f).net = s.net := rfl
@[simp] theorem State.modCe_fab (s : State) (f : Ce → Ce) : (s.modCe f).fab = s.fab := rfl
@[simp] theorem State.modCe_pages (s : State) (f : Ce → Ce) : (s.modCe f).pages = s.pages := rfl
@[simp] theorem State.modCe_tm (s : State) (f : Ce → Ce) : (s.modCe f).tm = s.tm := rfl
@[simp] theorem State.modCe_groups (s : State) (f : Ce → Ce) : (s.modCe f).groups = s.groups := rfl
@[simp] theorem State.modCe_ck (s : State) (f : Ce → Ce) : (s.modCe f).ck = s.ck := rfl
@[simp] theorem State.modCe_pw (s : State) (f : Ce → Ce) : (s.modCe f).pw = s.pw := rfl
@[simp] theorem State.modCe_sv (s : State) (f : Ce → Ce) : (s.modCe f).sv = s.sv := rfl
@[simp] theorem State.modCe_tw (s : State) (f : Ce → Ce) : (s.modCe f).tw = s.tw := rfl
@[simp] theorem State.modCe_boot (s : State) (f : Ce → Ce) : (s.modCe f).boot = s.boot := rfl
@[simp] theorem State.modCe_bus (s : State) (f : Ce → Ce) : (s.modCe f).bus = s.bus := rfl
@[simp] theorem State.modCe_made (s : State) (f : Ce → Ce) : (s.modCe f).made = s.made := rfl
@[simp] theorem State.modCe_id (s : State) (f : Ce → Ce) : (s.modCe f).id = s.id := rfl

@[simp] theorem State.modPw_pending (s : State) (f : Power → Power) : (s.modPw f).pending = s.pending := rfl
@[simp] theorem State.modPw_free (s : State) (f : Power → Power) : (s.modPw f).free = s.free := rfl
@[simp] theorem State.modPw_tiles (s : State) (f : Power → Power) : (s.modPw f).tiles = s.tiles := rfl
@[simp] theorem State.modPw_dies (s : State) (f : Power → Power) : (s.modPw f).dies = s.dies := rfl
@[simp] theorem State.modPw_mem (s : State) (f : Power → Power) : (s.modPw f).mem = s.mem := rfl
@[simp] theorem State.modPw_img (s : State) (f : Power → Power) : (s.modPw f).img = s.img := rfl
@[simp] theorem State.modPw_er (s : State) (f : Power → Power) : (s.modPw f).er = s.er := rfl
@[simp] theorem State.modPw_ce (s : State) (f : Power → Power) : (s.modPw f).ce = s.ce := rfl
@[simp] theorem State.modPw_fw (s : State) (f : Power → Power) : (s.modPw f).fw = s.fw := rfl
@[simp] theorem State.modPw_dbg (s : State) (f : Power → Power) : (s.modPw f).dbg = s.dbg := rfl
@[simp] theorem State.modPw_net (s : State) (f : Power → Power) : (s.modPw f).net = s.net := rfl
@[simp] theorem State.modPw_fab (s : State) (f : Power → Power) : (s.modPw f).fab = s.fab := rfl
@[simp] theorem State.modPw_pages (s : State) (f : Power → Power) : (s.modPw f).pages = s.pages := rfl
@[simp] theorem State.modPw_tm (s : State) (f : Power → Power) : (s.modPw f).tm = s.tm := rfl
@[simp] theorem State.modPw_groups (s : State) (f : Power → Power) : (s.modPw f).groups = s.groups := rfl
@[simp] theorem State.modPw_ck (s : State) (f : Power → Power) : (s.modPw f).ck = s.ck := rfl
@[simp] theorem State.modPw_pw (s : State) (f : Power → Power) : (s.modPw f).pw = f s.pw := rfl
@[simp] theorem State.modPw_sv (s : State) (f : Power → Power) : (s.modPw f).sv = s.sv := rfl
@[simp] theorem State.modPw_tw (s : State) (f : Power → Power) : (s.modPw f).tw = s.tw := rfl
@[simp] theorem State.modPw_boot (s : State) (f : Power → Power) : (s.modPw f).boot = s.boot := rfl
@[simp] theorem State.modPw_bus (s : State) (f : Power → Power) : (s.modPw f).bus = s.bus := rfl
@[simp] theorem State.modPw_made (s : State) (f : Power → Power) : (s.modPw f).made = s.made := rfl
@[simp] theorem State.modPw_id (s : State) (f : Power → Power) : (s.modPw f).id = s.id := rfl

@[simp] theorem State.modCk_pending (s : State) (f : Clock → Clock) : (s.modCk f).pending = s.pending := rfl
@[simp] theorem State.modCk_free (s : State) (f : Clock → Clock) : (s.modCk f).free = s.free := rfl
@[simp] theorem State.modCk_tiles (s : State) (f : Clock → Clock) : (s.modCk f).tiles = s.tiles := rfl
@[simp] theorem State.modCk_dies (s : State) (f : Clock → Clock) : (s.modCk f).dies = s.dies := rfl
@[simp] theorem State.modCk_mem (s : State) (f : Clock → Clock) : (s.modCk f).mem = s.mem := rfl
@[simp] theorem State.modCk_img (s : State) (f : Clock → Clock) : (s.modCk f).img = s.img := rfl
@[simp] theorem State.modCk_er (s : State) (f : Clock → Clock) : (s.modCk f).er = s.er := rfl
@[simp] theorem State.modCk_ce (s : State) (f : Clock → Clock) : (s.modCk f).ce = s.ce := rfl
@[simp] theorem State.modCk_fw (s : State) (f : Clock → Clock) : (s.modCk f).fw = s.fw := rfl
@[simp] theorem State.modCk_dbg (s : State) (f : Clock → Clock) : (s.modCk f).dbg = s.dbg := rfl
@[simp] theorem State.modCk_net (s : State) (f : Clock → Clock) : (s.modCk f).net = s.net := rfl
@[simp] theorem State.modCk_fab (s : State) (f : Clock → Clock) : (s.modCk f).fab = s.fab := rfl
@[simp] theorem State.modCk_pages (s : State) (f : Clock → Clock) : (s.modCk f).pages = s.pages := rfl
@[simp] theorem State.modCk_tm (s : State) (f : Clock → Clock) : (s.modCk f).tm = s.tm := rfl
@[simp] theorem State.modCk_groups (s : State) (f : Clock → Clock) : (s.modCk f).groups = s.groups := rfl
@[simp] theorem State.modCk_ck (s : State) (f : Clock → Clock) : (s.modCk f).ck = f s.ck := rfl
@[simp] theorem State.modCk_pw (s : State) (f : Clock → Clock) : (s.modCk f).pw = s.pw := rfl
@[simp] theorem State.modCk_sv (s : State) (f : Clock → Clock) : (s.modCk f).sv = s.sv := rfl
@[simp] theorem State.modCk_tw (s : State) (f : Clock → Clock) : (s.modCk f).tw = s.tw := rfl
@[simp] theorem State.modCk_boot (s : State) (f : Clock → Clock) : (s.modCk f).boot = s.boot := rfl
@[simp] theorem State.modCk_bus (s : State) (f : Clock → Clock) : (s.modCk f).bus = s.bus := rfl
@[simp] theorem State.modCk_made (s : State) (f : Clock → Clock) : (s.modCk f).made = s.made := rfl
@[simp] theorem State.modCk_id (s : State) (f : Clock → Clock) : (s.modCk f).id = s.id := rfl

@[simp] theorem State.modBoot_pending (s : State) (f : Boot → Boot) : (s.modBoot f).pending = s.pending := rfl
@[simp] theorem State.modBoot_free (s : State) (f : Boot → Boot) : (s.modBoot f).free = s.free := rfl
@[simp] theorem State.modBoot_tiles (s : State) (f : Boot → Boot) : (s.modBoot f).tiles = s.tiles := rfl
@[simp] theorem State.modBoot_dies (s : State) (f : Boot → Boot) : (s.modBoot f).dies = s.dies := rfl
@[simp] theorem State.modBoot_mem (s : State) (f : Boot → Boot) : (s.modBoot f).mem = s.mem := rfl
@[simp] theorem State.modBoot_img (s : State) (f : Boot → Boot) : (s.modBoot f).img = s.img := rfl
@[simp] theorem State.modBoot_er (s : State) (f : Boot → Boot) : (s.modBoot f).er = s.er := rfl
@[simp] theorem State.modBoot_ce (s : State) (f : Boot → Boot) : (s.modBoot f).ce = s.ce := rfl
@[simp] theorem State.modBoot_fw (s : State) (f : Boot → Boot) : (s.modBoot f).fw = s.fw := rfl
@[simp] theorem State.modBoot_dbg (s : State) (f : Boot → Boot) : (s.modBoot f).dbg = s.dbg := rfl
@[simp] theorem State.modBoot_net (s : State) (f : Boot → Boot) : (s.modBoot f).net = s.net := rfl
@[simp] theorem State.modBoot_fab (s : State) (f : Boot → Boot) : (s.modBoot f).fab = s.fab := rfl
@[simp] theorem State.modBoot_pages (s : State) (f : Boot → Boot) : (s.modBoot f).pages = s.pages := rfl
@[simp] theorem State.modBoot_tm (s : State) (f : Boot → Boot) : (s.modBoot f).tm = s.tm := rfl
@[simp] theorem State.modBoot_groups (s : State) (f : Boot → Boot) : (s.modBoot f).groups = s.groups := rfl
@[simp] theorem State.modBoot_ck (s : State) (f : Boot → Boot) : (s.modBoot f).ck = s.ck := rfl
@[simp] theorem State.modBoot_pw (s : State) (f : Boot → Boot) : (s.modBoot f).pw = s.pw := rfl
@[simp] theorem State.modBoot_sv (s : State) (f : Boot → Boot) : (s.modBoot f).sv = s.sv := rfl
@[simp] theorem State.modBoot_tw (s : State) (f : Boot → Boot) : (s.modBoot f).tw = s.tw := rfl
@[simp] theorem State.modBoot_boot (s : State) (f : Boot → Boot) : (s.modBoot f).boot = f s.boot := rfl
@[simp] theorem State.modBoot_bus (s : State) (f : Boot → Boot) : (s.modBoot f).bus = s.bus := rfl
@[simp] theorem State.modBoot_made (s : State) (f : Boot → Boot) : (s.modBoot f).made = s.made := rfl
@[simp] theorem State.modBoot_id (s : State) (f : Boot → Boot) : (s.modBoot f).id = s.id := rfl

@[simp] theorem State.modDbg_pending (s : State) (f : Debug → Debug) : (s.modDbg f).pending = s.pending := rfl
@[simp] theorem State.modDbg_free (s : State) (f : Debug → Debug) : (s.modDbg f).free = s.free := rfl
@[simp] theorem State.modDbg_tiles (s : State) (f : Debug → Debug) : (s.modDbg f).tiles = s.tiles := rfl
@[simp] theorem State.modDbg_dies (s : State) (f : Debug → Debug) : (s.modDbg f).dies = s.dies := rfl
@[simp] theorem State.modDbg_mem (s : State) (f : Debug → Debug) : (s.modDbg f).mem = s.mem := rfl
@[simp] theorem State.modDbg_img (s : State) (f : Debug → Debug) : (s.modDbg f).img = s.img := rfl
@[simp] theorem State.modDbg_er (s : State) (f : Debug → Debug) : (s.modDbg f).er = s.er := rfl
@[simp] theorem State.modDbg_ce (s : State) (f : Debug → Debug) : (s.modDbg f).ce = s.ce := rfl
@[simp] theorem State.modDbg_fw (s : State) (f : Debug → Debug) : (s.modDbg f).fw = s.fw := rfl
@[simp] theorem State.modDbg_dbg (s : State) (f : Debug → Debug) : (s.modDbg f).dbg = f s.dbg := rfl
@[simp] theorem State.modDbg_net (s : State) (f : Debug → Debug) : (s.modDbg f).net = s.net := rfl
@[simp] theorem State.modDbg_fab (s : State) (f : Debug → Debug) : (s.modDbg f).fab = s.fab := rfl
@[simp] theorem State.modDbg_pages (s : State) (f : Debug → Debug) : (s.modDbg f).pages = s.pages := rfl
@[simp] theorem State.modDbg_tm (s : State) (f : Debug → Debug) : (s.modDbg f).tm = s.tm := rfl
@[simp] theorem State.modDbg_groups (s : State) (f : Debug → Debug) : (s.modDbg f).groups = s.groups := rfl
@[simp] theorem State.modDbg_ck (s : State) (f : Debug → Debug) : (s.modDbg f).ck = s.ck := rfl
@[simp] theorem State.modDbg_pw (s : State) (f : Debug → Debug) : (s.modDbg f).pw = s.pw := rfl
@[simp] theorem State.modDbg_sv (s : State) (f : Debug → Debug) : (s.modDbg f).sv = s.sv := rfl
@[simp] theorem State.modDbg_tw (s : State) (f : Debug → Debug) : (s.modDbg f).tw = s.tw := rfl
@[simp] theorem State.modDbg_boot (s : State) (f : Debug → Debug) : (s.modDbg f).boot = s.boot := rfl
@[simp] theorem State.modDbg_bus (s : State) (f : Debug → Debug) : (s.modDbg f).bus = s.bus := rfl
@[simp] theorem State.modDbg_made (s : State) (f : Debug → Debug) : (s.modDbg f).made = s.made := rfl
@[simp] theorem State.modDbg_id (s : State) (f : Debug → Debug) : (s.modDbg f).id = s.id := rfl

@[simp] theorem State.modEr_pending (s : State) (f : Errors → Errors) : (s.modEr f).pending = s.pending := rfl
@[simp] theorem State.modEr_free (s : State) (f : Errors → Errors) : (s.modEr f).free = s.free := rfl
@[simp] theorem State.modEr_tiles (s : State) (f : Errors → Errors) : (s.modEr f).tiles = s.tiles := rfl
@[simp] theorem State.modEr_dies (s : State) (f : Errors → Errors) : (s.modEr f).dies = s.dies := rfl
@[simp] theorem State.modEr_mem (s : State) (f : Errors → Errors) : (s.modEr f).mem = s.mem := rfl
@[simp] theorem State.modEr_img (s : State) (f : Errors → Errors) : (s.modEr f).img = s.img := rfl
@[simp] theorem State.modEr_er (s : State) (f : Errors → Errors) : (s.modEr f).er = f s.er := rfl
@[simp] theorem State.modEr_ce (s : State) (f : Errors → Errors) : (s.modEr f).ce = s.ce := rfl
@[simp] theorem State.modEr_fw (s : State) (f : Errors → Errors) : (s.modEr f).fw = s.fw := rfl
@[simp] theorem State.modEr_dbg (s : State) (f : Errors → Errors) : (s.modEr f).dbg = s.dbg := rfl
@[simp] theorem State.modEr_net (s : State) (f : Errors → Errors) : (s.modEr f).net = s.net := rfl
@[simp] theorem State.modEr_fab (s : State) (f : Errors → Errors) : (s.modEr f).fab = s.fab := rfl
@[simp] theorem State.modEr_pages (s : State) (f : Errors → Errors) : (s.modEr f).pages = s.pages := rfl
@[simp] theorem State.modEr_tm (s : State) (f : Errors → Errors) : (s.modEr f).tm = s.tm := rfl
@[simp] theorem State.modEr_groups (s : State) (f : Errors → Errors) : (s.modEr f).groups = s.groups := rfl
@[simp] theorem State.modEr_ck (s : State) (f : Errors → Errors) : (s.modEr f).ck = s.ck := rfl
@[simp] theorem State.modEr_pw (s : State) (f : Errors → Errors) : (s.modEr f).pw = s.pw := rfl
@[simp] theorem State.modEr_sv (s : State) (f : Errors → Errors) : (s.modEr f).sv = s.sv := rfl
@[simp] theorem State.modEr_tw (s : State) (f : Errors → Errors) : (s.modEr f).tw = s.tw := rfl
@[simp] theorem State.modEr_boot (s : State) (f : Errors → Errors) : (s.modEr f).boot = s.boot := rfl
@[simp] theorem State.modEr_bus (s : State) (f : Errors → Errors) : (s.modEr f).bus = s.bus := rfl
@[simp] theorem State.modEr_made (s : State) (f : Errors → Errors) : (s.modEr f).made = s.made := rfl
@[simp] theorem State.modEr_id (s : State) (f : Errors → Errors) : (s.modEr f).id = s.id := rfl

@[simp] theorem State.modFw_pending (s : State) (f : Firmware → Firmware) : (s.modFw f).pending = s.pending := rfl
@[simp] theorem State.modFw_free (s : State) (f : Firmware → Firmware) : (s.modFw f).free = s.free := rfl
@[simp] theorem State.modFw_tiles (s : State) (f : Firmware → Firmware) : (s.modFw f).tiles = s.tiles := rfl
@[simp] theorem State.modFw_dies (s : State) (f : Firmware → Firmware) : (s.modFw f).dies = s.dies := rfl
@[simp] theorem State.modFw_mem (s : State) (f : Firmware → Firmware) : (s.modFw f).mem = s.mem := rfl
@[simp] theorem State.modFw_img (s : State) (f : Firmware → Firmware) : (s.modFw f).img = s.img := rfl
@[simp] theorem State.modFw_er (s : State) (f : Firmware → Firmware) : (s.modFw f).er = s.er := rfl
@[simp] theorem State.modFw_ce (s : State) (f : Firmware → Firmware) : (s.modFw f).ce = s.ce := rfl
@[simp] theorem State.modFw_fw (s : State) (f : Firmware → Firmware) : (s.modFw f).fw = f s.fw := rfl
@[simp] theorem State.modFw_dbg (s : State) (f : Firmware → Firmware) : (s.modFw f).dbg = s.dbg := rfl
@[simp] theorem State.modFw_net (s : State) (f : Firmware → Firmware) : (s.modFw f).net = s.net := rfl
@[simp] theorem State.modFw_fab (s : State) (f : Firmware → Firmware) : (s.modFw f).fab = s.fab := rfl
@[simp] theorem State.modFw_pages (s : State) (f : Firmware → Firmware) : (s.modFw f).pages = s.pages := rfl
@[simp] theorem State.modFw_tm (s : State) (f : Firmware → Firmware) : (s.modFw f).tm = s.tm := rfl
@[simp] theorem State.modFw_groups (s : State) (f : Firmware → Firmware) : (s.modFw f).groups = s.groups := rfl
@[simp] theorem State.modFw_ck (s : State) (f : Firmware → Firmware) : (s.modFw f).ck = s.ck := rfl
@[simp] theorem State.modFw_pw (s : State) (f : Firmware → Firmware) : (s.modFw f).pw = s.pw := rfl
@[simp] theorem State.modFw_sv (s : State) (f : Firmware → Firmware) : (s.modFw f).sv = s.sv := rfl
@[simp] theorem State.modFw_tw (s : State) (f : Firmware → Firmware) : (s.modFw f).tw = s.tw := rfl
@[simp] theorem State.modFw_boot (s : State) (f : Firmware → Firmware) : (s.modFw f).boot = s.boot := rfl
@[simp] theorem State.modFw_bus (s : State) (f : Firmware → Firmware) : (s.modFw f).bus = s.bus := rfl
@[simp] theorem State.modFw_made (s : State) (f : Firmware → Firmware) : (s.modFw f).made = s.made := rfl
@[simp] theorem State.modFw_id (s : State) (f : Firmware → Firmware) : (s.modFw f).id = s.id := rfl

@[simp] theorem State.modFab_pending (s : State) (f : Fab → Fab) : (s.modFab f).pending = s.pending := rfl
@[simp] theorem State.modFab_free (s : State) (f : Fab → Fab) : (s.modFab f).free = s.free := rfl
@[simp] theorem State.modFab_tiles (s : State) (f : Fab → Fab) : (s.modFab f).tiles = s.tiles := rfl
@[simp] theorem State.modFab_dies (s : State) (f : Fab → Fab) : (s.modFab f).dies = s.dies := rfl
@[simp] theorem State.modFab_mem (s : State) (f : Fab → Fab) : (s.modFab f).mem = s.mem := rfl
@[simp] theorem State.modFab_img (s : State) (f : Fab → Fab) : (s.modFab f).img = s.img := rfl
@[simp] theorem State.modFab_er (s : State) (f : Fab → Fab) : (s.modFab f).er = s.er := rfl
@[simp] theorem State.modFab_ce (s : State) (f : Fab → Fab) : (s.modFab f).ce = s.ce := rfl
@[simp] theorem State.modFab_fw (s : State) (f : Fab → Fab) : (s.modFab f).fw = s.fw := rfl
@[simp] theorem State.modFab_dbg (s : State) (f : Fab → Fab) : (s.modFab f).dbg = s.dbg := rfl
@[simp] theorem State.modFab_net (s : State) (f : Fab → Fab) : (s.modFab f).net = s.net := rfl
@[simp] theorem State.modFab_fab (s : State) (f : Fab → Fab) : (s.modFab f).fab = f s.fab := rfl
@[simp] theorem State.modFab_pages (s : State) (f : Fab → Fab) : (s.modFab f).pages = s.pages := rfl
@[simp] theorem State.modFab_tm (s : State) (f : Fab → Fab) : (s.modFab f).tm = s.tm := rfl
@[simp] theorem State.modFab_groups (s : State) (f : Fab → Fab) : (s.modFab f).groups = s.groups := rfl
@[simp] theorem State.modFab_ck (s : State) (f : Fab → Fab) : (s.modFab f).ck = s.ck := rfl
@[simp] theorem State.modFab_pw (s : State) (f : Fab → Fab) : (s.modFab f).pw = s.pw := rfl
@[simp] theorem State.modFab_sv (s : State) (f : Fab → Fab) : (s.modFab f).sv = s.sv := rfl
@[simp] theorem State.modFab_tw (s : State) (f : Fab → Fab) : (s.modFab f).tw = s.tw := rfl
@[simp] theorem State.modFab_boot (s : State) (f : Fab → Fab) : (s.modFab f).boot = s.boot := rfl
@[simp] theorem State.modFab_bus (s : State) (f : Fab → Fab) : (s.modFab f).bus = s.bus := rfl
@[simp] theorem State.modFab_made (s : State) (f : Fab → Fab) : (s.modFab f).made = s.made := rfl
@[simp] theorem State.modFab_id (s : State) (f : Fab → Fab) : (s.modFab f).id = s.id := rfl

@[simp] theorem State.setTile_pending (s : State) (k : Nat) (x : Tile) : (s.setTile k x).pending = s.pending := rfl
@[simp] theorem State.setTile_free (s : State) (k : Nat) (x : Tile) : (s.setTile k x).free = s.free := rfl
@[simp] theorem State.setTile_tiles (s : State) (k : Nat) (x : Tile) : (s.setTile k x).tiles = tset {} s.tiles k x := rfl
@[simp] theorem State.setTile_dies (s : State) (k : Nat) (x : Tile) : (s.setTile k x).dies = s.dies := rfl
@[simp] theorem State.setTile_mem (s : State) (k : Nat) (x : Tile) : (s.setTile k x).mem = s.mem := rfl
@[simp] theorem State.setTile_img (s : State) (k : Nat) (x : Tile) : (s.setTile k x).img = s.img := rfl
@[simp] theorem State.setTile_er (s : State) (k : Nat) (x : Tile) : (s.setTile k x).er = s.er := rfl
@[simp] theorem State.setTile_ce (s : State) (k : Nat) (x : Tile) : (s.setTile k x).ce = s.ce := rfl
@[simp] theorem State.setTile_fw (s : State) (k : Nat) (x : Tile) : (s.setTile k x).fw = s.fw := rfl
@[simp] theorem State.setTile_dbg (s : State) (k : Nat) (x : Tile) : (s.setTile k x).dbg = s.dbg := rfl
@[simp] theorem State.setTile_net (s : State) (k : Nat) (x : Tile) : (s.setTile k x).net = s.net := rfl
@[simp] theorem State.setTile_fab (s : State) (k : Nat) (x : Tile) : (s.setTile k x).fab = s.fab := rfl
@[simp] theorem State.setTile_pages (s : State) (k : Nat) (x : Tile) : (s.setTile k x).pages = s.pages := rfl
@[simp] theorem State.setTile_tm (s : State) (k : Nat) (x : Tile) : (s.setTile k x).tm = s.tm := rfl
@[simp] theorem State.setTile_groups (s : State) (k : Nat) (x : Tile) : (s.setTile k x).groups = s.groups := rfl
@[simp] theorem State.setTile_ck (s : State) (k : Nat) (x : Tile) : (s.setTile k x).ck = s.ck := rfl
@[simp] theorem State.setTile_pw (s : State) (k : Nat) (x : Tile) : (s.setTile k x).pw = s.pw := rfl
@[simp] theorem State.setTile_sv (s : State) (k : Nat) (x : Tile) : (s.setTile k x).sv = s.sv := rfl
@[simp] theorem State.setTile_tw (s : State) (k : Nat) (x : Tile) : (s.setTile k x).tw = s.tw := rfl
@[simp] theorem State.setTile_boot (s : State) (k : Nat) (x : Tile) : (s.setTile k x).boot = s.boot := rfl
@[simp] theorem State.setTile_bus (s : State) (k : Nat) (x : Tile) : (s.setTile k x).bus = s.bus := rfl
@[simp] theorem State.setTile_made (s : State) (k : Nat) (x : Tile) : (s.setTile k x).made = s.made := rfl
@[simp] theorem State.setTile_id (s : State) (k : Nat) (x : Tile) : (s.setTile k x).id = s.id := rfl

@[simp] theorem State.modTile_pending (s : State) (k : Nat) (f : Tile → Tile) : (s.modTile k f).pending = s.pending := rfl
@[simp] theorem State.modTile_free (s : State) (k : Nat) (f : Tile → Tile) : (s.modTile k f).free = s.free := rfl
@[simp] theorem State.modTile_tiles (s : State) (k : Nat) (f : Tile → Tile) : (s.modTile k f).tiles = tset {} s.tiles k (f (s.tile k)) := rfl
@[simp] theorem State.modTile_dies (s : State) (k : Nat) (f : Tile → Tile) : (s.modTile k f).dies = s.dies := rfl
@[simp] theorem State.modTile_mem (s : State) (k : Nat) (f : Tile → Tile) : (s.modTile k f).mem = s.mem := rfl
@[simp] theorem State.modTile_img (s : State) (k : Nat) (f : Tile → Tile) : (s.modTile k f).img = s.img := rfl
@[simp] theorem State.modTile_er (s : State) (k : Nat) (f : Tile → Tile) : (s.modTile k f).er = s.er := rfl
@[simp] theorem State.modTile_ce (s : State) (k : Nat) (f : Tile → Tile) : (s.modTile k f).ce = s.ce := rfl
@[simp] theorem State.modTile_fw (s : State) (k : Nat) (f : Tile → Tile) : (s.modTile k f).fw = s.fw := rfl
@[simp] theorem State.modTile_dbg (s : State) (k : Nat) (f : Tile → Tile) : (s.modTile k f).dbg = s.dbg := rfl
@[simp] theorem State.modTile_net (s : State) (k : Nat) (f : Tile → Tile) : (s.modTile k f).net = s.net := rfl
@[simp] theorem State.modTile_fab (s : State) (k : Nat) (f : Tile → Tile) : (s.modTile k f).fab = s.fab := rfl
@[simp] theorem State.modTile_pages (s : State) (k : Nat) (f : Tile → Tile) : (s.modTile k f).pages = s.pages := rfl
@[simp] theorem State.modTile_tm (s : State) (k : Nat) (f : Tile → Tile) : (s.modTile k f).tm = s.tm := rfl
@[simp] theorem State.modTile_groups (s : State) (k : Nat) (f : Tile → Tile) : (s.modTile k f).groups = s.groups := rfl
@[simp] theorem State.modTile_ck (s : State) (k : Nat) (f : Tile → Tile) : (s.modTile k f).ck = s.ck := rfl
@[simp] theorem State.modTile_pw (s : State) (k : Nat) (f : Tile → Tile) : (s.modTile k f).pw = s.pw := rfl
@[simp] theorem State.modTile_sv (s : State) (k : Nat) (f : Tile → Tile) : (s.modTile k f).sv = s.sv := rfl
@[simp] theorem State.modTile_tw (s : State) (k : Nat) (f : Tile → Tile) : (s.modTile k f).tw = s.tw := rfl
@[simp] theorem State.modTile_boot (s : State) (k : Nat) (f : Tile → Tile) : (s.modTile k f).boot = s.boot := rfl
@[simp] theorem State.modTile_bus (s : State) (k : Nat) (f : Tile → Tile) : (s.modTile k f).bus = s.bus := rfl
@[simp] theorem State.modTile_made (s : State) (k : Nat) (f : Tile → Tile) : (s.modTile k f).made = s.made := rfl
@[simp] theorem State.modTile_id (s : State) (k : Nat) (f : Tile → Tile) : (s.modTile k f).id = s.id := rfl

@[simp] theorem State.setDie_pending (s : State) (d : Nat) (x : Die) : (s.setDie d x).pending = s.pending := rfl
@[simp] theorem State.setDie_free (s : State) (d : Nat) (x : Die) : (s.setDie d x).free = s.free := rfl
@[simp] theorem State.setDie_tiles (s : State) (d : Nat) (x : Die) : (s.setDie d x).tiles = s.tiles := rfl
@[simp] theorem State.setDie_dies (s : State) (d : Nat) (x : Die) : (s.setDie d x).dies = tset {} s.dies d x := rfl
@[simp] theorem State.setDie_mem (s : State) (d : Nat) (x : Die) : (s.setDie d x).mem = s.mem := rfl
@[simp] theorem State.setDie_img (s : State) (d : Nat) (x : Die) : (s.setDie d x).img = s.img := rfl
@[simp] theorem State.setDie_er (s : State) (d : Nat) (x : Die) : (s.setDie d x).er = s.er := rfl
@[simp] theorem State.setDie_ce (s : State) (d : Nat) (x : Die) : (s.setDie d x).ce = s.ce := rfl
@[simp] theorem State.setDie_fw (s : State) (d : Nat) (x : Die) : (s.setDie d x).fw = s.fw := rfl
@[simp] theorem State.setDie_dbg (s : State) (d : Nat) (x : Die) : (s.setDie d x).dbg = s.dbg := rfl
@[simp] theorem State.setDie_net (s : State) (d : Nat) (x : Die) : (s.setDie d x).net = s.net := rfl
@[simp] theorem State.setDie_fab (s : State) (d : Nat) (x : Die) : (s.setDie d x).fab = s.fab := rfl
@[simp] theorem State.setDie_pages (s : State) (d : Nat) (x : Die) : (s.setDie d x).pages = s.pages := rfl
@[simp] theorem State.setDie_tm (s : State) (d : Nat) (x : Die) : (s.setDie d x).tm = s.tm := rfl
@[simp] theorem State.setDie_groups (s : State) (d : Nat) (x : Die) : (s.setDie d x).groups = s.groups := rfl
@[simp] theorem State.setDie_ck (s : State) (d : Nat) (x : Die) : (s.setDie d x).ck = s.ck := rfl
@[simp] theorem State.setDie_pw (s : State) (d : Nat) (x : Die) : (s.setDie d x).pw = s.pw := rfl
@[simp] theorem State.setDie_sv (s : State) (d : Nat) (x : Die) : (s.setDie d x).sv = s.sv := rfl
@[simp] theorem State.setDie_tw (s : State) (d : Nat) (x : Die) : (s.setDie d x).tw = s.tw := rfl
@[simp] theorem State.setDie_boot (s : State) (d : Nat) (x : Die) : (s.setDie d x).boot = s.boot := rfl
@[simp] theorem State.setDie_bus (s : State) (d : Nat) (x : Die) : (s.setDie d x).bus = s.bus := rfl
@[simp] theorem State.setDie_made (s : State) (d : Nat) (x : Die) : (s.setDie d x).made = s.made := rfl
@[simp] theorem State.setDie_id (s : State) (d : Nat) (x : Die) : (s.setDie d x).id = s.id := rfl

@[simp] theorem State.modDie_pending (s : State) (d : Nat) (f : Die → Die) : (s.modDie d f).pending = s.pending := rfl
@[simp] theorem State.modDie_free (s : State) (d : Nat) (f : Die → Die) : (s.modDie d f).free = s.free := rfl
@[simp] theorem State.modDie_tiles (s : State) (d : Nat) (f : Die → Die) : (s.modDie d f).tiles = s.tiles := rfl
@[simp] theorem State.modDie_dies (s : State) (d : Nat) (f : Die → Die) : (s.modDie d f).dies = tset {} s.dies d (f (s.die d)) := rfl
@[simp] theorem State.modDie_mem (s : State) (d : Nat) (f : Die → Die) : (s.modDie d f).mem = s.mem := rfl
@[simp] theorem State.modDie_img (s : State) (d : Nat) (f : Die → Die) : (s.modDie d f).img = s.img := rfl
@[simp] theorem State.modDie_er (s : State) (d : Nat) (f : Die → Die) : (s.modDie d f).er = s.er := rfl
@[simp] theorem State.modDie_ce (s : State) (d : Nat) (f : Die → Die) : (s.modDie d f).ce = s.ce := rfl
@[simp] theorem State.modDie_fw (s : State) (d : Nat) (f : Die → Die) : (s.modDie d f).fw = s.fw := rfl
@[simp] theorem State.modDie_dbg (s : State) (d : Nat) (f : Die → Die) : (s.modDie d f).dbg = s.dbg := rfl
@[simp] theorem State.modDie_net (s : State) (d : Nat) (f : Die → Die) : (s.modDie d f).net = s.net := rfl
@[simp] theorem State.modDie_fab (s : State) (d : Nat) (f : Die → Die) : (s.modDie d f).fab = s.fab := rfl
@[simp] theorem State.modDie_pages (s : State) (d : Nat) (f : Die → Die) : (s.modDie d f).pages = s.pages := rfl
@[simp] theorem State.modDie_tm (s : State) (d : Nat) (f : Die → Die) : (s.modDie d f).tm = s.tm := rfl
@[simp] theorem State.modDie_groups (s : State) (d : Nat) (f : Die → Die) : (s.modDie d f).groups = s.groups := rfl
@[simp] theorem State.modDie_ck (s : State) (d : Nat) (f : Die → Die) : (s.modDie d f).ck = s.ck := rfl
@[simp] theorem State.modDie_pw (s : State) (d : Nat) (f : Die → Die) : (s.modDie d f).pw = s.pw := rfl
@[simp] theorem State.modDie_sv (s : State) (d : Nat) (f : Die → Die) : (s.modDie d f).sv = s.sv := rfl
@[simp] theorem State.modDie_tw (s : State) (d : Nat) (f : Die → Die) : (s.modDie d f).tw = s.tw := rfl
@[simp] theorem State.modDie_boot (s : State) (d : Nat) (f : Die → Die) : (s.modDie d f).boot = s.boot := rfl
@[simp] theorem State.modDie_bus (s : State) (d : Nat) (f : Die → Die) : (s.modDie d f).bus = s.bus := rfl
@[simp] theorem State.modDie_made (s : State) (d : Nat) (f : Die → Die) : (s.modDie d f).made = s.made := rfl
@[simp] theorem State.modDie_id (s : State) (d : Nat) (f : Die → Die) : (s.modDie d f).id = s.id := rfl

@[simp] theorem State.modMx_pending (s : State) (k : Nat) (f : Mx → Mx) : (s.modMx k f).pending = s.pending := rfl
@[simp] theorem State.modMx_free (s : State) (k : Nat) (f : Mx → Mx) : (s.modMx k f).free = s.free := rfl
@[simp] theorem State.modMx_tiles (s : State) (k : Nat) (f : Mx → Mx) : (s.modMx k f).tiles = tset {} s.tiles k { s.tile k with mx := f (s.tile k).mx } := rfl
@[simp] theorem State.modMx_dies (s : State) (k : Nat) (f : Mx → Mx) : (s.modMx k f).dies = s.dies := rfl
@[simp] theorem State.modMx_mem (s : State) (k : Nat) (f : Mx → Mx) : (s.modMx k f).mem = s.mem := rfl
@[simp] theorem State.modMx_img (s : State) (k : Nat) (f : Mx → Mx) : (s.modMx k f).img = s.img := rfl
@[simp] theorem State.modMx_er (s : State) (k : Nat) (f : Mx → Mx) : (s.modMx k f).er = s.er := rfl
@[simp] theorem State.modMx_ce (s : State) (k : Nat) (f : Mx → Mx) : (s.modMx k f).ce = s.ce := rfl
@[simp] theorem State.modMx_fw (s : State) (k : Nat) (f : Mx → Mx) : (s.modMx k f).fw = s.fw := rfl
@[simp] theorem State.modMx_dbg (s : State) (k : Nat) (f : Mx → Mx) : (s.modMx k f).dbg = s.dbg := rfl
@[simp] theorem State.modMx_net (s : State) (k : Nat) (f : Mx → Mx) : (s.modMx k f).net = s.net := rfl
@[simp] theorem State.modMx_fab (s : State) (k : Nat) (f : Mx → Mx) : (s.modMx k f).fab = s.fab := rfl
@[simp] theorem State.modMx_pages (s : State) (k : Nat) (f : Mx → Mx) : (s.modMx k f).pages = s.pages := rfl
@[simp] theorem State.modMx_tm (s : State) (k : Nat) (f : Mx → Mx) : (s.modMx k f).tm = s.tm := rfl
@[simp] theorem State.modMx_groups (s : State) (k : Nat) (f : Mx → Mx) : (s.modMx k f).groups = s.groups := rfl
@[simp] theorem State.modMx_ck (s : State) (k : Nat) (f : Mx → Mx) : (s.modMx k f).ck = s.ck := rfl
@[simp] theorem State.modMx_pw (s : State) (k : Nat) (f : Mx → Mx) : (s.modMx k f).pw = s.pw := rfl
@[simp] theorem State.modMx_sv (s : State) (k : Nat) (f : Mx → Mx) : (s.modMx k f).sv = s.sv := rfl
@[simp] theorem State.modMx_tw (s : State) (k : Nat) (f : Mx → Mx) : (s.modMx k f).tw = s.tw := rfl
@[simp] theorem State.modMx_boot (s : State) (k : Nat) (f : Mx → Mx) : (s.modMx k f).boot = s.boot := rfl
@[simp] theorem State.modMx_bus (s : State) (k : Nat) (f : Mx → Mx) : (s.modMx k f).bus = s.bus := rfl
@[simp] theorem State.modMx_made (s : State) (k : Nat) (f : Mx → Mx) : (s.modMx k f).made = s.made := rfl
@[simp] theorem State.modMx_id (s : State) (k : Nat) (f : Mx → Mx) : (s.modMx k f).id = s.id := rfl

@[simp] theorem State.modSq_pending (s : State) (q : Nat) (f : SqRing → SqRing) : (s.modSq q f).pending = s.pending := rfl
@[simp] theorem State.modSq_free (s : State) (q : Nat) (f : SqRing → SqRing) : (s.modSq q f).free = s.free := rfl
@[simp] theorem State.modSq_tiles (s : State) (q : Nat) (f : SqRing → SqRing) : (s.modSq q f).tiles = s.tiles := rfl
@[simp] theorem State.modSq_dies (s : State) (q : Nat) (f : SqRing → SqRing) : (s.modSq q f).dies = s.dies := rfl
@[simp] theorem State.modSq_mem (s : State) (q : Nat) (f : SqRing → SqRing) : (s.modSq q f).mem = s.mem := rfl
@[simp] theorem State.modSq_img (s : State) (q : Nat) (f : SqRing → SqRing) : (s.modSq q f).img = s.img := rfl
@[simp] theorem State.modSq_er (s : State) (q : Nat) (f : SqRing → SqRing) : (s.modSq q f).er = s.er := rfl
@[simp] theorem State.modSq_fw (s : State) (q : Nat) (f : SqRing → SqRing) : (s.modSq q f).fw = s.fw := rfl
@[simp] theorem State.modSq_dbg (s : State) (q : Nat) (f : SqRing → SqRing) : (s.modSq q f).dbg = s.dbg := rfl
@[simp] theorem State.modSq_net (s : State) (q : Nat) (f : SqRing → SqRing) : (s.modSq q f).net = s.net := rfl
@[simp] theorem State.modSq_fab (s : State) (q : Nat) (f : SqRing → SqRing) : (s.modSq q f).fab = s.fab := rfl
@[simp] theorem State.modSq_pages (s : State) (q : Nat) (f : SqRing → SqRing) : (s.modSq q f).pages = s.pages := rfl
@[simp] theorem State.modSq_tm (s : State) (q : Nat) (f : SqRing → SqRing) : (s.modSq q f).tm = s.tm := rfl
@[simp] theorem State.modSq_groups (s : State) (q : Nat) (f : SqRing → SqRing) : (s.modSq q f).groups = s.groups := rfl
@[simp] theorem State.modSq_ck (s : State) (q : Nat) (f : SqRing → SqRing) : (s.modSq q f).ck = s.ck := rfl
@[simp] theorem State.modSq_pw (s : State) (q : Nat) (f : SqRing → SqRing) : (s.modSq q f).pw = s.pw := rfl
@[simp] theorem State.modSq_sv (s : State) (q : Nat) (f : SqRing → SqRing) : (s.modSq q f).sv = s.sv := rfl
@[simp] theorem State.modSq_tw (s : State) (q : Nat) (f : SqRing → SqRing) : (s.modSq q f).tw = s.tw := rfl
@[simp] theorem State.modSq_boot (s : State) (q : Nat) (f : SqRing → SqRing) : (s.modSq q f).boot = s.boot := rfl
@[simp] theorem State.modSq_bus (s : State) (q : Nat) (f : SqRing → SqRing) : (s.modSq q f).bus = s.bus := rfl
@[simp] theorem State.modSq_made (s : State) (q : Nat) (f : SqRing → SqRing) : (s.modSq q f).made = s.made := rfl
@[simp] theorem State.modSq_id (s : State) (q : Nat) (f : SqRing → SqRing) : (s.modSq q f).id = s.id := rfl

@[simp] theorem State.modCq_pending (s : State) (q : Nat) (f : CqRing → CqRing) : (s.modCq q f).pending = s.pending := rfl
@[simp] theorem State.modCq_free (s : State) (q : Nat) (f : CqRing → CqRing) : (s.modCq q f).free = s.free := rfl
@[simp] theorem State.modCq_tiles (s : State) (q : Nat) (f : CqRing → CqRing) : (s.modCq q f).tiles = s.tiles := rfl
@[simp] theorem State.modCq_dies (s : State) (q : Nat) (f : CqRing → CqRing) : (s.modCq q f).dies = s.dies := rfl
@[simp] theorem State.modCq_mem (s : State) (q : Nat) (f : CqRing → CqRing) : (s.modCq q f).mem = s.mem := rfl
@[simp] theorem State.modCq_img (s : State) (q : Nat) (f : CqRing → CqRing) : (s.modCq q f).img = s.img := rfl
@[simp] theorem State.modCq_er (s : State) (q : Nat) (f : CqRing → CqRing) : (s.modCq q f).er = s.er := rfl
@[simp] theorem State.modCq_fw (s : State) (q : Nat) (f : CqRing → CqRing) : (s.modCq q f).fw = s.fw := rfl
@[simp] theorem State.modCq_dbg (s : State) (q : Nat) (f : CqRing → CqRing) : (s.modCq q f).dbg = s.dbg := rfl
@[simp] theorem State.modCq_net (s : State) (q : Nat) (f : CqRing → CqRing) : (s.modCq q f).net = s.net := rfl
@[simp] theorem State.modCq_fab (s : State) (q : Nat) (f : CqRing → CqRing) : (s.modCq q f).fab = s.fab := rfl
@[simp] theorem State.modCq_pages (s : State) (q : Nat) (f : CqRing → CqRing) : (s.modCq q f).pages = s.pages := rfl
@[simp] theorem State.modCq_tm (s : State) (q : Nat) (f : CqRing → CqRing) : (s.modCq q f).tm = s.tm := rfl
@[simp] theorem State.modCq_groups (s : State) (q : Nat) (f : CqRing → CqRing) : (s.modCq q f).groups = s.groups := rfl
@[simp] theorem State.modCq_ck (s : State) (q : Nat) (f : CqRing → CqRing) : (s.modCq q f).ck = s.ck := rfl
@[simp] theorem State.modCq_pw (s : State) (q : Nat) (f : CqRing → CqRing) : (s.modCq q f).pw = s.pw := rfl
@[simp] theorem State.modCq_sv (s : State) (q : Nat) (f : CqRing → CqRing) : (s.modCq q f).sv = s.sv := rfl
@[simp] theorem State.modCq_tw (s : State) (q : Nat) (f : CqRing → CqRing) : (s.modCq q f).tw = s.tw := rfl
@[simp] theorem State.modCq_boot (s : State) (q : Nat) (f : CqRing → CqRing) : (s.modCq q f).boot = s.boot := rfl
@[simp] theorem State.modCq_bus (s : State) (q : Nat) (f : CqRing → CqRing) : (s.modCq q f).bus = s.bus := rfl
@[simp] theorem State.modCq_made (s : State) (q : Nat) (f : CqRing → CqRing) : (s.modCq q f).made = s.made := rfl
@[simp] theorem State.modCq_id (s : State) (q : Nat) (f : CqRing → CqRing) : (s.modCq q f).id = s.id := rfl

@[simp] theorem State.modEv_pending (s : State) (f : EvRing → EvRing) : (s.modEv f).pending = s.pending := rfl
@[simp] theorem State.modEv_free (s : State) (f : EvRing → EvRing) : (s.modEv f).free = s.free := rfl
@[simp] theorem State.modEv_tiles (s : State) (f : EvRing → EvRing) : (s.modEv f).tiles = s.tiles := rfl
@[simp] theorem State.modEv_dies (s : State) (f : EvRing → EvRing) : (s.modEv f).dies = s.dies := rfl
@[simp] theorem State.modEv_mem (s : State) (f : EvRing → EvRing) : (s.modEv f).mem = s.mem := rfl
@[simp] theorem State.modEv_img (s : State) (f : EvRing → EvRing) : (s.modEv f).img = s.img := rfl
@[simp] theorem State.modEv_er (s : State) (f : EvRing → EvRing) : (s.modEv f).er = s.er := rfl
@[simp] theorem State.modEv_ce (s : State) (f : EvRing → EvRing) : (s.modEv f).ce = { s.ce with ev := f s.ce.ev } := rfl
@[simp] theorem State.modEv_fw (s : State) (f : EvRing → EvRing) : (s.modEv f).fw = s.fw := rfl
@[simp] theorem State.modEv_dbg (s : State) (f : EvRing → EvRing) : (s.modEv f).dbg = s.dbg := rfl
@[simp] theorem State.modEv_net (s : State) (f : EvRing → EvRing) : (s.modEv f).net = s.net := rfl
@[simp] theorem State.modEv_fab (s : State) (f : EvRing → EvRing) : (s.modEv f).fab = s.fab := rfl
@[simp] theorem State.modEv_pages (s : State) (f : EvRing → EvRing) : (s.modEv f).pages = s.pages := rfl
@[simp] theorem State.modEv_tm (s : State) (f : EvRing → EvRing) : (s.modEv f).tm = s.tm := rfl
@[simp] theorem State.modEv_groups (s : State) (f : EvRing → EvRing) : (s.modEv f).groups = s.groups := rfl
@[simp] theorem State.modEv_ck (s : State) (f : EvRing → EvRing) : (s.modEv f).ck = s.ck := rfl
@[simp] theorem State.modEv_pw (s : State) (f : EvRing → EvRing) : (s.modEv f).pw = s.pw := rfl
@[simp] theorem State.modEv_sv (s : State) (f : EvRing → EvRing) : (s.modEv f).sv = s.sv := rfl
@[simp] theorem State.modEv_tw (s : State) (f : EvRing → EvRing) : (s.modEv f).tw = s.tw := rfl
@[simp] theorem State.modEv_boot (s : State) (f : EvRing → EvRing) : (s.modEv f).boot = s.boot := rfl
@[simp] theorem State.modEv_bus (s : State) (f : EvRing → EvRing) : (s.modEv f).bus = s.bus := rfl
@[simp] theorem State.modEv_made (s : State) (f : EvRing → EvRing) : (s.modEv f).made = s.made := rfl
@[simp] theorem State.modEv_id (s : State) (f : EvRing → EvRing) : (s.modEv f).id = s.id := rfl

@[simp] theorem State.setPort_pending (s : State) (p : Nat) (x : Port) : (s.setPort p x).pending = s.pending := rfl
@[simp] theorem State.setPort_free (s : State) (p : Nat) (x : Port) : (s.setPort p x).free = s.free := rfl
@[simp] theorem State.setPort_tiles (s : State) (p : Nat) (x : Port) : (s.setPort p x).tiles = s.tiles := rfl
@[simp] theorem State.setPort_dies (s : State) (p : Nat) (x : Port) : (s.setPort p x).dies = s.dies := rfl
@[simp] theorem State.setPort_mem (s : State) (p : Nat) (x : Port) : (s.setPort p x).mem = s.mem := rfl
@[simp] theorem State.setPort_img (s : State) (p : Nat) (x : Port) : (s.setPort p x).img = s.img := rfl
@[simp] theorem State.setPort_er (s : State) (p : Nat) (x : Port) : (s.setPort p x).er = s.er := rfl
@[simp] theorem State.setPort_ce (s : State) (p : Nat) (x : Port) : (s.setPort p x).ce = s.ce := rfl
@[simp] theorem State.setPort_fw (s : State) (p : Nat) (x : Port) : (s.setPort p x).fw = s.fw := rfl
@[simp] theorem State.setPort_dbg (s : State) (p : Nat) (x : Port) : (s.setPort p x).dbg = s.dbg := rfl
@[simp] theorem State.setPort_net (s : State) (p : Nat) (x : Port) : (s.setPort p x).net = s.net := rfl
@[simp] theorem State.setPort_fab (s : State) (p : Nat) (x : Port) : (s.setPort p x).fab = { s.fab with ports := tset {} s.fab.ports p x } := rfl
@[simp] theorem State.setPort_pages (s : State) (p : Nat) (x : Port) : (s.setPort p x).pages = s.pages := rfl
@[simp] theorem State.setPort_tm (s : State) (p : Nat) (x : Port) : (s.setPort p x).tm = s.tm := rfl
@[simp] theorem State.setPort_groups (s : State) (p : Nat) (x : Port) : (s.setPort p x).groups = s.groups := rfl
@[simp] theorem State.setPort_ck (s : State) (p : Nat) (x : Port) : (s.setPort p x).ck = s.ck := rfl
@[simp] theorem State.setPort_pw (s : State) (p : Nat) (x : Port) : (s.setPort p x).pw = s.pw := rfl
@[simp] theorem State.setPort_sv (s : State) (p : Nat) (x : Port) : (s.setPort p x).sv = s.sv := rfl
@[simp] theorem State.setPort_tw (s : State) (p : Nat) (x : Port) : (s.setPort p x).tw = s.tw := rfl
@[simp] theorem State.setPort_boot (s : State) (p : Nat) (x : Port) : (s.setPort p x).boot = s.boot := rfl
@[simp] theorem State.setPort_bus (s : State) (p : Nat) (x : Port) : (s.setPort p x).bus = s.bus := rfl
@[simp] theorem State.setPort_made (s : State) (p : Nat) (x : Port) : (s.setPort p x).made = s.made := rfl
@[simp] theorem State.setPort_id (s : State) (p : Nat) (x : Port) : (s.setPort p x).id = s.id := rfl

@[simp] theorem State.modPort_pending (s : State) (p : Nat) (f : Port → Port) : (s.modPort p f).pending = s.pending := rfl
@[simp] theorem State.modPort_free (s : State) (p : Nat) (f : Port → Port) : (s.modPort p f).free = s.free := rfl
@[simp] theorem State.modPort_tiles (s : State) (p : Nat) (f : Port → Port) : (s.modPort p f).tiles = s.tiles := rfl
@[simp] theorem State.modPort_dies (s : State) (p : Nat) (f : Port → Port) : (s.modPort p f).dies = s.dies := rfl
@[simp] theorem State.modPort_mem (s : State) (p : Nat) (f : Port → Port) : (s.modPort p f).mem = s.mem := rfl
@[simp] theorem State.modPort_img (s : State) (p : Nat) (f : Port → Port) : (s.modPort p f).img = s.img := rfl
@[simp] theorem State.modPort_er (s : State) (p : Nat) (f : Port → Port) : (s.modPort p f).er = s.er := rfl
@[simp] theorem State.modPort_ce (s : State) (p : Nat) (f : Port → Port) : (s.modPort p f).ce = s.ce := rfl
@[simp] theorem State.modPort_fw (s : State) (p : Nat) (f : Port → Port) : (s.modPort p f).fw = s.fw := rfl
@[simp] theorem State.modPort_dbg (s : State) (p : Nat) (f : Port → Port) : (s.modPort p f).dbg = s.dbg := rfl
@[simp] theorem State.modPort_net (s : State) (p : Nat) (f : Port → Port) : (s.modPort p f).net = s.net := rfl
@[simp] theorem State.modPort_fab (s : State) (p : Nat) (f : Port → Port) : (s.modPort p f).fab = { s.fab with ports := tset {} s.fab.ports p (f (s.port p)) } := rfl
@[simp] theorem State.modPort_pages (s : State) (p : Nat) (f : Port → Port) : (s.modPort p f).pages = s.pages := rfl
@[simp] theorem State.modPort_tm (s : State) (p : Nat) (f : Port → Port) : (s.modPort p f).tm = s.tm := rfl
@[simp] theorem State.modPort_groups (s : State) (p : Nat) (f : Port → Port) : (s.modPort p f).groups = s.groups := rfl
@[simp] theorem State.modPort_ck (s : State) (p : Nat) (f : Port → Port) : (s.modPort p f).ck = s.ck := rfl
@[simp] theorem State.modPort_pw (s : State) (p : Nat) (f : Port → Port) : (s.modPort p f).pw = s.pw := rfl
@[simp] theorem State.modPort_sv (s : State) (p : Nat) (f : Port → Port) : (s.modPort p f).sv = s.sv := rfl
@[simp] theorem State.modPort_tw (s : State) (p : Nat) (f : Port → Port) : (s.modPort p f).tw = s.tw := rfl
@[simp] theorem State.modPort_boot (s : State) (p : Nat) (f : Port → Port) : (s.modPort p f).boot = s.boot := rfl
@[simp] theorem State.modPort_bus (s : State) (p : Nat) (f : Port → Port) : (s.modPort p f).bus = s.bus := rfl
@[simp] theorem State.modPort_made (s : State) (p : Nat) (f : Port → Port) : (s.modPort p f).made = s.made := rfl
@[simp] theorem State.modPort_id (s : State) (p : Nat) (f : Port → Port) : (s.modPort p f).id = s.id := rfl

@[simp] theorem State.modBridge_pending (s : State) (b dir : Nat) (f : BridgeDir → BridgeDir) : (s.modBridge b dir f).pending = s.pending := rfl
@[simp] theorem State.modBridge_free (s : State) (b dir : Nat) (f : BridgeDir → BridgeDir) : (s.modBridge b dir f).free = s.free := rfl
@[simp] theorem State.modBridge_tiles (s : State) (b dir : Nat) (f : BridgeDir → BridgeDir) : (s.modBridge b dir f).tiles = s.tiles := rfl
@[simp] theorem State.modBridge_dies (s : State) (b dir : Nat) (f : BridgeDir → BridgeDir) : (s.modBridge b dir f).dies = s.dies := rfl
@[simp] theorem State.modBridge_mem (s : State) (b dir : Nat) (f : BridgeDir → BridgeDir) : (s.modBridge b dir f).mem = s.mem := rfl
@[simp] theorem State.modBridge_img (s : State) (b dir : Nat) (f : BridgeDir → BridgeDir) : (s.modBridge b dir f).img = s.img := rfl
@[simp] theorem State.modBridge_er (s : State) (b dir : Nat) (f : BridgeDir → BridgeDir) : (s.modBridge b dir f).er = s.er := rfl
@[simp] theorem State.modBridge_ce (s : State) (b dir : Nat) (f : BridgeDir → BridgeDir) : (s.modBridge b dir f).ce = s.ce := rfl
@[simp] theorem State.modBridge_fw (s : State) (b dir : Nat) (f : BridgeDir → BridgeDir) : (s.modBridge b dir f).fw = s.fw := rfl
@[simp] theorem State.modBridge_dbg (s : State) (b dir : Nat) (f : BridgeDir → BridgeDir) : (s.modBridge b dir f).dbg = s.dbg := rfl
@[simp] theorem State.modBridge_fab (s : State) (b dir : Nat) (f : BridgeDir → BridgeDir) : (s.modBridge b dir f).fab = s.fab := rfl
@[simp] theorem State.modBridge_pages (s : State) (b dir : Nat) (f : BridgeDir → BridgeDir) : (s.modBridge b dir f).pages = s.pages := rfl
@[simp] theorem State.modBridge_tm (s : State) (b dir : Nat) (f : BridgeDir → BridgeDir) : (s.modBridge b dir f).tm = s.tm := rfl
@[simp] theorem State.modBridge_groups (s : State) (b dir : Nat) (f : BridgeDir → BridgeDir) : (s.modBridge b dir f).groups = s.groups := rfl
@[simp] theorem State.modBridge_ck (s : State) (b dir : Nat) (f : BridgeDir → BridgeDir) : (s.modBridge b dir f).ck = s.ck := rfl
@[simp] theorem State.modBridge_pw (s : State) (b dir : Nat) (f : BridgeDir → BridgeDir) : (s.modBridge b dir f).pw = s.pw := rfl
@[simp] theorem State.modBridge_sv (s : State) (b dir : Nat) (f : BridgeDir → BridgeDir) : (s.modBridge b dir f).sv = s.sv := rfl
@[simp] theorem State.modBridge_tw (s : State) (b dir : Nat) (f : BridgeDir → BridgeDir) : (s.modBridge b dir f).tw = s.tw := rfl
@[simp] theorem State.modBridge_boot (s : State) (b dir : Nat) (f : BridgeDir → BridgeDir) : (s.modBridge b dir f).boot = s.boot := rfl
@[simp] theorem State.modBridge_bus (s : State) (b dir : Nat) (f : BridgeDir → BridgeDir) : (s.modBridge b dir f).bus = s.bus := rfl
@[simp] theorem State.modBridge_made (s : State) (b dir : Nat) (f : BridgeDir → BridgeDir) : (s.modBridge b dir f).made = s.made := rfl
@[simp] theorem State.modBridge_id (s : State) (b dir : Nat) (f : BridgeDir → BridgeDir) : (s.modBridge b dir f).id = s.id := rfl

@[simp] theorem State.modPm_pending (s : State) (d : Nat) (f : Pm → Pm) : (s.modPm d f).pending = s.pending := rfl
@[simp] theorem State.modPm_free (s : State) (d : Nat) (f : Pm → Pm) : (s.modPm d f).free = s.free := rfl
@[simp] theorem State.modPm_tiles (s : State) (d : Nat) (f : Pm → Pm) : (s.modPm d f).tiles = s.tiles := rfl
@[simp] theorem State.modPm_dies (s : State) (d : Nat) (f : Pm → Pm) : (s.modPm d f).dies = s.dies := rfl
@[simp] theorem State.modPm_mem (s : State) (d : Nat) (f : Pm → Pm) : (s.modPm d f).mem = s.mem := rfl
@[simp] theorem State.modPm_img (s : State) (d : Nat) (f : Pm → Pm) : (s.modPm d f).img = s.img := rfl
@[simp] theorem State.modPm_er (s : State) (d : Nat) (f : Pm → Pm) : (s.modPm d f).er = s.er := rfl
@[simp] theorem State.modPm_ce (s : State) (d : Nat) (f : Pm → Pm) : (s.modPm d f).ce = s.ce := rfl
@[simp] theorem State.modPm_fw (s : State) (d : Nat) (f : Pm → Pm) : (s.modPm d f).fw = s.fw := rfl
@[simp] theorem State.modPm_dbg (s : State) (d : Nat) (f : Pm → Pm) : (s.modPm d f).dbg = s.dbg := rfl
@[simp] theorem State.modPm_net (s : State) (d : Nat) (f : Pm → Pm) : (s.modPm d f).net = s.net := rfl
@[simp] theorem State.modPm_fab (s : State) (d : Nat) (f : Pm → Pm) : (s.modPm d f).fab = s.fab := rfl
@[simp] theorem State.modPm_tm (s : State) (d : Nat) (f : Pm → Pm) : (s.modPm d f).tm = s.tm := rfl
@[simp] theorem State.modPm_groups (s : State) (d : Nat) (f : Pm → Pm) : (s.modPm d f).groups = s.groups := rfl
@[simp] theorem State.modPm_ck (s : State) (d : Nat) (f : Pm → Pm) : (s.modPm d f).ck = s.ck := rfl
@[simp] theorem State.modPm_pw (s : State) (d : Nat) (f : Pm → Pm) : (s.modPm d f).pw = s.pw := rfl
@[simp] theorem State.modPm_sv (s : State) (d : Nat) (f : Pm → Pm) : (s.modPm d f).sv = s.sv := rfl
@[simp] theorem State.modPm_tw (s : State) (d : Nat) (f : Pm → Pm) : (s.modPm d f).tw = s.tw := rfl
@[simp] theorem State.modPm_boot (s : State) (d : Nat) (f : Pm → Pm) : (s.modPm d f).boot = s.boot := rfl
@[simp] theorem State.modPm_bus (s : State) (d : Nat) (f : Pm → Pm) : (s.modPm d f).bus = s.bus := rfl
@[simp] theorem State.modPm_made (s : State) (d : Nat) (f : Pm → Pm) : (s.modPm d f).made = s.made := rfl
@[simp] theorem State.modPm_id (s : State) (d : Nat) (f : Pm → Pm) : (s.modPm d f).id = s.id := rfl

@[simp] theorem State.modFrame_pending (s : State) (d n : Nat) (f : FrameE → FrameE) : (s.modFrame d n f).pending = s.pending := rfl
@[simp] theorem State.modFrame_free (s : State) (d n : Nat) (f : FrameE → FrameE) : (s.modFrame d n f).free = s.free := rfl
@[simp] theorem State.modFrame_tiles (s : State) (d n : Nat) (f : FrameE → FrameE) : (s.modFrame d n f).tiles = s.tiles := rfl
@[simp] theorem State.modFrame_dies (s : State) (d n : Nat) (f : FrameE → FrameE) : (s.modFrame d n f).dies = s.dies := rfl
@[simp] theorem State.modFrame_mem (s : State) (d n : Nat) (f : FrameE → FrameE) : (s.modFrame d n f).mem = s.mem := rfl
@[simp] theorem State.modFrame_img (s : State) (d n : Nat) (f : FrameE → FrameE) : (s.modFrame d n f).img = s.img := rfl
@[simp] theorem State.modFrame_er (s : State) (d n : Nat) (f : FrameE → FrameE) : (s.modFrame d n f).er = s.er := rfl
@[simp] theorem State.modFrame_ce (s : State) (d n : Nat) (f : FrameE → FrameE) : (s.modFrame d n f).ce = s.ce := rfl
@[simp] theorem State.modFrame_fw (s : State) (d n : Nat) (f : FrameE → FrameE) : (s.modFrame d n f).fw = s.fw := rfl
@[simp] theorem State.modFrame_dbg (s : State) (d n : Nat) (f : FrameE → FrameE) : (s.modFrame d n f).dbg = s.dbg := rfl
@[simp] theorem State.modFrame_net (s : State) (d n : Nat) (f : FrameE → FrameE) : (s.modFrame d n f).net = s.net := rfl
@[simp] theorem State.modFrame_fab (s : State) (d n : Nat) (f : FrameE → FrameE) : (s.modFrame d n f).fab = s.fab := rfl
@[simp] theorem State.modFrame_tm (s : State) (d n : Nat) (f : FrameE → FrameE) : (s.modFrame d n f).tm = s.tm := rfl
@[simp] theorem State.modFrame_groups (s : State) (d n : Nat) (f : FrameE → FrameE) : (s.modFrame d n f).groups = s.groups := rfl
@[simp] theorem State.modFrame_ck (s : State) (d n : Nat) (f : FrameE → FrameE) : (s.modFrame d n f).ck = s.ck := rfl
@[simp] theorem State.modFrame_pw (s : State) (d n : Nat) (f : FrameE → FrameE) : (s.modFrame d n f).pw = s.pw := rfl
@[simp] theorem State.modFrame_sv (s : State) (d n : Nat) (f : FrameE → FrameE) : (s.modFrame d n f).sv = s.sv := rfl
@[simp] theorem State.modFrame_tw (s : State) (d n : Nat) (f : FrameE → FrameE) : (s.modFrame d n f).tw = s.tw := rfl
@[simp] theorem State.modFrame_boot (s : State) (d n : Nat) (f : FrameE → FrameE) : (s.modFrame d n f).boot = s.boot := rfl
@[simp] theorem State.modFrame_bus (s : State) (d n : Nat) (f : FrameE → FrameE) : (s.modFrame d n f).bus = s.bus := rfl
@[simp] theorem State.modFrame_made (s : State) (d n : Nat) (f : FrameE → FrameE) : (s.modFrame d n f).made = s.made := rfl
@[simp] theorem State.modFrame_id (s : State) (d n : Nat) (f : FrameE → FrameE) : (s.modFrame d n f).id = s.id := rfl

@[simp] theorem State.modGuest_pending (s : State) (r : Nat) (f : GuestRec → GuestRec) : (s.modGuest r f).pending = s.pending := rfl
@[simp] theorem State.modGuest_free (s : State) (r : Nat) (f : GuestRec → GuestRec) : (s.modGuest r f).free = s.free := rfl
@[simp] theorem State.modGuest_tiles (s : State) (r : Nat) (f : GuestRec → GuestRec) : (s.modGuest r f).tiles = s.tiles := rfl
@[simp] theorem State.modGuest_dies (s : State) (r : Nat) (f : GuestRec → GuestRec) : (s.modGuest r f).dies = s.dies := rfl
@[simp] theorem State.modGuest_mem (s : State) (r : Nat) (f : GuestRec → GuestRec) : (s.modGuest r f).mem = s.mem := rfl
@[simp] theorem State.modGuest_img (s : State) (r : Nat) (f : GuestRec → GuestRec) : (s.modGuest r f).img = s.img := rfl
@[simp] theorem State.modGuest_er (s : State) (r : Nat) (f : GuestRec → GuestRec) : (s.modGuest r f).er = s.er := rfl
@[simp] theorem State.modGuest_ce (s : State) (r : Nat) (f : GuestRec → GuestRec) : (s.modGuest r f).ce = s.ce := rfl
@[simp] theorem State.modGuest_fw (s : State) (r : Nat) (f : GuestRec → GuestRec) : (s.modGuest r f).fw = s.fw := rfl
@[simp] theorem State.modGuest_dbg (s : State) (r : Nat) (f : GuestRec → GuestRec) : (s.modGuest r f).dbg = s.dbg := rfl
@[simp] theorem State.modGuest_net (s : State) (r : Nat) (f : GuestRec → GuestRec) : (s.modGuest r f).net = s.net := rfl
@[simp] theorem State.modGuest_fab (s : State) (r : Nat) (f : GuestRec → GuestRec) : (s.modGuest r f).fab = s.fab := rfl
@[simp] theorem State.modGuest_tm (s : State) (r : Nat) (f : GuestRec → GuestRec) : (s.modGuest r f).tm = s.tm := rfl
@[simp] theorem State.modGuest_groups (s : State) (r : Nat) (f : GuestRec → GuestRec) : (s.modGuest r f).groups = s.groups := rfl
@[simp] theorem State.modGuest_ck (s : State) (r : Nat) (f : GuestRec → GuestRec) : (s.modGuest r f).ck = s.ck := rfl
@[simp] theorem State.modGuest_pw (s : State) (r : Nat) (f : GuestRec → GuestRec) : (s.modGuest r f).pw = s.pw := rfl
@[simp] theorem State.modGuest_sv (s : State) (r : Nat) (f : GuestRec → GuestRec) : (s.modGuest r f).sv = s.sv := rfl
@[simp] theorem State.modGuest_tw (s : State) (r : Nat) (f : GuestRec → GuestRec) : (s.modGuest r f).tw = s.tw := rfl
@[simp] theorem State.modGuest_boot (s : State) (r : Nat) (f : GuestRec → GuestRec) : (s.modGuest r f).boot = s.boot := rfl
@[simp] theorem State.modGuest_bus (s : State) (r : Nat) (f : GuestRec → GuestRec) : (s.modGuest r f).bus = s.bus := rfl
@[simp] theorem State.modGuest_made (s : State) (r : Nat) (f : GuestRec → GuestRec) : (s.modGuest r f).made = s.made := rfl
@[simp] theorem State.modGuest_id (s : State) (r : Nat) (f : GuestRec → GuestRec) : (s.modGuest r f).id = s.id := rfl

@[simp] theorem State.modGroup_pending (s : State) (g : Nat) (f : Group → Group) : (s.modGroup g f).pending = s.pending := rfl
@[simp] theorem State.modGroup_free (s : State) (g : Nat) (f : Group → Group) : (s.modGroup g f).free = s.free := rfl
@[simp] theorem State.modGroup_tiles (s : State) (g : Nat) (f : Group → Group) : (s.modGroup g f).tiles = s.tiles := rfl
@[simp] theorem State.modGroup_dies (s : State) (g : Nat) (f : Group → Group) : (s.modGroup g f).dies = s.dies := rfl
@[simp] theorem State.modGroup_mem (s : State) (g : Nat) (f : Group → Group) : (s.modGroup g f).mem = s.mem := rfl
@[simp] theorem State.modGroup_img (s : State) (g : Nat) (f : Group → Group) : (s.modGroup g f).img = s.img := rfl
@[simp] theorem State.modGroup_er (s : State) (g : Nat) (f : Group → Group) : (s.modGroup g f).er = s.er := rfl
@[simp] theorem State.modGroup_ce (s : State) (g : Nat) (f : Group → Group) : (s.modGroup g f).ce = s.ce := rfl
@[simp] theorem State.modGroup_fw (s : State) (g : Nat) (f : Group → Group) : (s.modGroup g f).fw = s.fw := rfl
@[simp] theorem State.modGroup_dbg (s : State) (g : Nat) (f : Group → Group) : (s.modGroup g f).dbg = s.dbg := rfl
@[simp] theorem State.modGroup_net (s : State) (g : Nat) (f : Group → Group) : (s.modGroup g f).net = s.net := rfl
@[simp] theorem State.modGroup_fab (s : State) (g : Nat) (f : Group → Group) : (s.modGroup g f).fab = s.fab := rfl
@[simp] theorem State.modGroup_pages (s : State) (g : Nat) (f : Group → Group) : (s.modGroup g f).pages = s.pages := rfl
@[simp] theorem State.modGroup_tm (s : State) (g : Nat) (f : Group → Group) : (s.modGroup g f).tm = s.tm := rfl
@[simp] theorem State.modGroup_groups (s : State) (g : Nat) (f : Group → Group) : (s.modGroup g f).groups = tmod {} s.groups g f := rfl
@[simp] theorem State.modGroup_ck (s : State) (g : Nat) (f : Group → Group) : (s.modGroup g f).ck = s.ck := rfl
@[simp] theorem State.modGroup_pw (s : State) (g : Nat) (f : Group → Group) : (s.modGroup g f).pw = s.pw := rfl
@[simp] theorem State.modGroup_sv (s : State) (g : Nat) (f : Group → Group) : (s.modGroup g f).sv = s.sv := rfl
@[simp] theorem State.modGroup_tw (s : State) (g : Nat) (f : Group → Group) : (s.modGroup g f).tw = s.tw := rfl
@[simp] theorem State.modGroup_boot (s : State) (g : Nat) (f : Group → Group) : (s.modGroup g f).boot = s.boot := rfl
@[simp] theorem State.modGroup_bus (s : State) (g : Nat) (f : Group → Group) : (s.modGroup g f).bus = s.bus := rfl
@[simp] theorem State.modGroup_made (s : State) (g : Nat) (f : Group → Group) : (s.modGroup g f).made = s.made := rfl
@[simp] theorem State.modGroup_id (s : State) (g : Nat) (f : Group → Group) : (s.modGroup g f).id = s.id := rfl

@[simp] theorem State.modEntry_pending (s : State) (i : Nat) (f : Entry → Entry) : (s.modEntry i f).pending = s.pending := rfl
@[simp] theorem State.modEntry_free (s : State) (i : Nat) (f : Entry → Entry) : (s.modEntry i f).free = s.free := rfl
@[simp] theorem State.modEntry_tiles (s : State) (i : Nat) (f : Entry → Entry) : (s.modEntry i f).tiles = s.tiles := rfl
@[simp] theorem State.modEntry_dies (s : State) (i : Nat) (f : Entry → Entry) : (s.modEntry i f).dies = s.dies := rfl
@[simp] theorem State.modEntry_mem (s : State) (i : Nat) (f : Entry → Entry) : (s.modEntry i f).mem = s.mem := rfl
@[simp] theorem State.modEntry_img (s : State) (i : Nat) (f : Entry → Entry) : (s.modEntry i f).img = s.img := rfl
@[simp] theorem State.modEntry_er (s : State) (i : Nat) (f : Entry → Entry) : (s.modEntry i f).er = s.er := rfl
@[simp] theorem State.modEntry_ce (s : State) (i : Nat) (f : Entry → Entry) : (s.modEntry i f).ce = s.ce := rfl
@[simp] theorem State.modEntry_fw (s : State) (i : Nat) (f : Entry → Entry) : (s.modEntry i f).fw = s.fw := rfl
@[simp] theorem State.modEntry_dbg (s : State) (i : Nat) (f : Entry → Entry) : (s.modEntry i f).dbg = s.dbg := rfl
@[simp] theorem State.modEntry_net (s : State) (i : Nat) (f : Entry → Entry) : (s.modEntry i f).net = s.net := rfl
@[simp] theorem State.modEntry_fab (s : State) (i : Nat) (f : Entry → Entry) : (s.modEntry i f).fab = s.fab := rfl
@[simp] theorem State.modEntry_pages (s : State) (i : Nat) (f : Entry → Entry) : (s.modEntry i f).pages = s.pages := rfl
@[simp] theorem State.modEntry_tm (s : State) (i : Nat) (f : Entry → Entry) : (s.modEntry i f).tm = s.tm := rfl
@[simp] theorem State.modEntry_groups (s : State) (i : Nat) (f : Entry → Entry) : (s.modEntry i f).groups = s.groups := rfl
@[simp] theorem State.modEntry_ck (s : State) (i : Nat) (f : Entry → Entry) : (s.modEntry i f).ck = s.ck := rfl
@[simp] theorem State.modEntry_pw (s : State) (i : Nat) (f : Entry → Entry) : (s.modEntry i f).pw = s.pw := rfl
@[simp] theorem State.modEntry_tw (s : State) (i : Nat) (f : Entry → Entry) : (s.modEntry i f).tw = s.tw := rfl
@[simp] theorem State.modEntry_boot (s : State) (i : Nat) (f : Entry → Entry) : (s.modEntry i f).boot = s.boot := rfl
@[simp] theorem State.modEntry_bus (s : State) (i : Nat) (f : Entry → Entry) : (s.modEntry i f).bus = s.bus := rfl
@[simp] theorem State.modEntry_made (s : State) (i : Nat) (f : Entry → Entry) : (s.modEntry i f).made = s.made := rfl
@[simp] theorem State.modEntry_id (s : State) (i : Nat) (f : Entry → Entry) : (s.modEntry i f).id = s.id := rfl

@[simp] theorem State.setLanding_pending (s : State) (g : Nat) (l : Landing) : (s.setLanding g l).pending = s.pending := rfl
@[simp] theorem State.setLanding_free (s : State) (g : Nat) (l : Landing) : (s.setLanding g l).free = s.free := rfl
@[simp] theorem State.setLanding_tiles (s : State) (g : Nat) (l : Landing) : (s.setLanding g l).tiles = s.tiles := rfl
@[simp] theorem State.setLanding_dies (s : State) (g : Nat) (l : Landing) : (s.setLanding g l).dies = s.dies := rfl
@[simp] theorem State.setLanding_mem (s : State) (g : Nat) (l : Landing) : (s.setLanding g l).mem = s.mem := rfl
@[simp] theorem State.setLanding_img (s : State) (g : Nat) (l : Landing) : (s.setLanding g l).img = s.img := rfl
@[simp] theorem State.setLanding_er (s : State) (g : Nat) (l : Landing) : (s.setLanding g l).er = s.er := rfl
@[simp] theorem State.setLanding_ce (s : State) (g : Nat) (l : Landing) : (s.setLanding g l).ce = s.ce := rfl
@[simp] theorem State.setLanding_fw (s : State) (g : Nat) (l : Landing) : (s.setLanding g l).fw = s.fw := rfl
@[simp] theorem State.setLanding_dbg (s : State) (g : Nat) (l : Landing) : (s.setLanding g l).dbg = s.dbg := rfl
@[simp] theorem State.setLanding_net (s : State) (g : Nat) (l : Landing) : (s.setLanding g l).net = s.net := rfl
@[simp] theorem State.setLanding_fab (s : State) (g : Nat) (l : Landing) : (s.setLanding g l).fab = s.fab := rfl
@[simp] theorem State.setLanding_pages (s : State) (g : Nat) (l : Landing) : (s.setLanding g l).pages = s.pages := rfl
@[simp] theorem State.setLanding_tm (s : State) (g : Nat) (l : Landing) : (s.setLanding g l).tm = s.tm := rfl
@[simp] theorem State.setLanding_groups (s : State) (g : Nat) (l : Landing) : (s.setLanding g l).groups = s.groups := rfl
@[simp] theorem State.setLanding_ck (s : State) (g : Nat) (l : Landing) : (s.setLanding g l).ck = s.ck := rfl
@[simp] theorem State.setLanding_pw (s : State) (g : Nat) (l : Landing) : (s.setLanding g l).pw = s.pw := rfl
@[simp] theorem State.setLanding_sv (s : State) (g : Nat) (l : Landing) : (s.setLanding g l).sv = s.sv := rfl
@[simp] theorem State.setLanding_boot (s : State) (g : Nat) (l : Landing) : (s.setLanding g l).boot = s.boot := rfl
@[simp] theorem State.setLanding_bus (s : State) (g : Nat) (l : Landing) : (s.setLanding g l).bus = s.bus := rfl
@[simp] theorem State.setLanding_made (s : State) (g : Nat) (l : Landing) : (s.setLanding g l).made = s.made := rfl
@[simp] theorem State.setLanding_id (s : State) (g : Nat) (l : Landing) : (s.setLanding g l).id = s.id := rfl

@[simp] theorem State.setTxn_pending (s : State) (t : Txn) : (s.setTxn t).pending = s.pending := rfl
@[simp] theorem State.setTxn_free (s : State) (t : Txn) : (s.setTxn t).free = s.free := rfl
@[simp] theorem State.setTxn_tiles (s : State) (t : Txn) : (s.setTxn t).tiles = s.tiles := rfl
@[simp] theorem State.setTxn_dies (s : State) (t : Txn) : (s.setTxn t).dies = s.dies := rfl
@[simp] theorem State.setTxn_mem (s : State) (t : Txn) : (s.setTxn t).mem = s.mem := rfl
@[simp] theorem State.setTxn_img (s : State) (t : Txn) : (s.setTxn t).img = s.img := rfl
@[simp] theorem State.setTxn_er (s : State) (t : Txn) : (s.setTxn t).er = s.er := rfl
@[simp] theorem State.setTxn_ce (s : State) (t : Txn) : (s.setTxn t).ce = s.ce := rfl
@[simp] theorem State.setTxn_fw (s : State) (t : Txn) : (s.setTxn t).fw = s.fw := rfl
@[simp] theorem State.setTxn_dbg (s : State) (t : Txn) : (s.setTxn t).dbg = s.dbg := rfl
@[simp] theorem State.setTxn_fab (s : State) (t : Txn) : (s.setTxn t).fab = s.fab := rfl
@[simp] theorem State.setTxn_pages (s : State) (t : Txn) : (s.setTxn t).pages = s.pages := rfl
@[simp] theorem State.setTxn_tm (s : State) (t : Txn) : (s.setTxn t).tm = s.tm := rfl
@[simp] theorem State.setTxn_groups (s : State) (t : Txn) : (s.setTxn t).groups = s.groups := rfl
@[simp] theorem State.setTxn_ck (s : State) (t : Txn) : (s.setTxn t).ck = s.ck := rfl
@[simp] theorem State.setTxn_pw (s : State) (t : Txn) : (s.setTxn t).pw = s.pw := rfl
@[simp] theorem State.setTxn_sv (s : State) (t : Txn) : (s.setTxn t).sv = s.sv := rfl
@[simp] theorem State.setTxn_tw (s : State) (t : Txn) : (s.setTxn t).tw = s.tw := rfl
@[simp] theorem State.setTxn_boot (s : State) (t : Txn) : (s.setTxn t).boot = s.boot := rfl
@[simp] theorem State.setTxn_bus (s : State) (t : Txn) : (s.setTxn t).bus = s.bus := rfl
@[simp] theorem State.setTxn_made (s : State) (t : Txn) : (s.setTxn t).made = s.made := rfl
@[simp] theorem State.setTxn_id (s : State) (t : Txn) : (s.setTxn t).id = s.id := rfl

@[simp] theorem State.pass_pending (s : State) (x : Site) (sl : Slot) : (s.pass x sl).pending = s.pending := rfl
@[simp] theorem State.pass_free (s : State) (x : Site) (sl : Slot) : (s.pass x sl).free = s.free := rfl
@[simp] theorem State.pass_dies (s : State) (x : Site) (sl : Slot) : (s.pass x sl).dies = s.dies := rfl
@[simp] theorem State.pass_mem (s : State) (x : Site) (sl : Slot) : (s.pass x sl).mem = s.mem := rfl
@[simp] theorem State.pass_img (s : State) (x : Site) (sl : Slot) : (s.pass x sl).img = s.img := rfl
@[simp] theorem State.pass_er (s : State) (x : Site) (sl : Slot) : (s.pass x sl).er = s.er := rfl
@[simp] theorem State.pass_ce (s : State) (x : Site) (sl : Slot) : (s.pass x sl).ce = s.ce := rfl
@[simp] theorem State.pass_fw (s : State) (x : Site) (sl : Slot) : (s.pass x sl).fw = s.fw := rfl
@[simp] theorem State.pass_dbg (s : State) (x : Site) (sl : Slot) : (s.pass x sl).dbg = s.dbg := rfl
@[simp] theorem State.pass_net (s : State) (x : Site) (sl : Slot) : (s.pass x sl).net = s.net := rfl
@[simp] theorem State.pass_fab (s : State) (x : Site) (sl : Slot) : (s.pass x sl).fab = s.fab := rfl
@[simp] theorem State.pass_pages (s : State) (x : Site) (sl : Slot) : (s.pass x sl).pages = s.pages := rfl
@[simp] theorem State.pass_tm (s : State) (x : Site) (sl : Slot) : (s.pass x sl).tm = s.tm := rfl
@[simp] theorem State.pass_groups (s : State) (x : Site) (sl : Slot) : (s.pass x sl).groups = s.groups := rfl
@[simp] theorem State.pass_ck (s : State) (x : Site) (sl : Slot) : (s.pass x sl).ck = s.ck := rfl
@[simp] theorem State.pass_pw (s : State) (x : Site) (sl : Slot) : (s.pass x sl).pw = s.pw := rfl
@[simp] theorem State.pass_sv (s : State) (x : Site) (sl : Slot) : (s.pass x sl).sv = s.sv := rfl
@[simp] theorem State.pass_tw (s : State) (x : Site) (sl : Slot) : (s.pass x sl).tw = s.tw := rfl
@[simp] theorem State.pass_boot (s : State) (x : Site) (sl : Slot) : (s.pass x sl).boot = s.boot := rfl
@[simp] theorem State.pass_bus (s : State) (x : Site) (sl : Slot) : (s.pass x sl).bus = s.bus := rfl
@[simp] theorem State.pass_made (s : State) (x : Site) (sl : Slot) : (s.pass x sl).made = s.made := rfl
@[simp] theorem State.pass_id (s : State) (x : Site) (sl : Slot) : (s.pass x sl).id = s.id := rfl
@[simp] theorem State.pass_die (s : State) (x : Site) (sl : Slot) (d : Nat) : (s.pass x sl).die d = s.die d := rfl

@[simp] theorem State.useBanks_pending (s : State) (k : Nat) (l : List (Nat × Nat)) : (s.useBanks k l).pending = s.pending := by
  unfold State.useBanks; split <;> rfl
@[simp] theorem State.useBanks_free (s : State) (k : Nat) (l : List (Nat × Nat)) : (s.useBanks k l).free = s.free := by
  unfold State.useBanks; split <;> rfl
@[simp] theorem State.useBanks_dies (s : State) (k : Nat) (l : List (Nat × Nat)) : (s.useBanks k l).dies = s.dies := by
  unfold State.useBanks; split <;> rfl
@[simp] theorem State.useBanks_mem (s : State) (k : Nat) (l : List (Nat × Nat)) : (s.useBanks k l).mem = s.mem := by
  unfold State.useBanks; split <;> rfl
@[simp] theorem State.useBanks_img (s : State) (k : Nat) (l : List (Nat × Nat)) : (s.useBanks k l).img = s.img := by
  unfold State.useBanks; split <;> rfl
@[simp] theorem State.useBanks_er (s : State) (k : Nat) (l : List (Nat × Nat)) : (s.useBanks k l).er = s.er := by
  unfold State.useBanks; split <;> rfl
@[simp] theorem State.useBanks_ce (s : State) (k : Nat) (l : List (Nat × Nat)) : (s.useBanks k l).ce = s.ce := by
  unfold State.useBanks; split <;> rfl
@[simp] theorem State.useBanks_fw (s : State) (k : Nat) (l : List (Nat × Nat)) : (s.useBanks k l).fw = s.fw := by
  unfold State.useBanks; split <;> rfl
@[simp] theorem State.useBanks_dbg (s : State) (k : Nat) (l : List (Nat × Nat)) : (s.useBanks k l).dbg = s.dbg := by
  unfold State.useBanks; split <;> rfl
@[simp] theorem State.useBanks_net (s : State) (k : Nat) (l : List (Nat × Nat)) : (s.useBanks k l).net = s.net := by
  unfold State.useBanks; split <;> rfl
@[simp] theorem State.useBanks_fab (s : State) (k : Nat) (l : List (Nat × Nat)) : (s.useBanks k l).fab = s.fab := by
  unfold State.useBanks; split <;> rfl
@[simp] theorem State.useBanks_pages (s : State) (k : Nat) (l : List (Nat × Nat)) : (s.useBanks k l).pages = s.pages := by
  unfold State.useBanks; split <;> rfl
@[simp] theorem State.useBanks_tm (s : State) (k : Nat) (l : List (Nat × Nat)) : (s.useBanks k l).tm = s.tm := by
  unfold State.useBanks; split <;> rfl
@[simp] theorem State.useBanks_groups (s : State) (k : Nat) (l : List (Nat × Nat)) : (s.useBanks k l).groups = s.groups := by
  unfold State.useBanks; split <;> rfl
@[simp] theorem State.useBanks_ck (s : State) (k : Nat) (l : List (Nat × Nat)) : (s.useBanks k l).ck = s.ck := by
  unfold State.useBanks; split <;> rfl
@[simp] theorem State.useBanks_pw (s : State) (k : Nat) (l : List (Nat × Nat)) : (s.useBanks k l).pw = s.pw := by
  unfold State.useBanks; split <;> rfl
@[simp] theorem State.useBanks_sv (s : State) (k : Nat) (l : List (Nat × Nat)) : (s.useBanks k l).sv = s.sv := by
  unfold State.useBanks; split <;> rfl
@[simp] theorem State.useBanks_tw (s : State) (k : Nat) (l : List (Nat × Nat)) : (s.useBanks k l).tw = s.tw := by
  unfold State.useBanks; split <;> rfl
@[simp] theorem State.useBanks_boot (s : State) (k : Nat) (l : List (Nat × Nat)) : (s.useBanks k l).boot = s.boot := by
  unfold State.useBanks; split <;> rfl
@[simp] theorem State.useBanks_bus (s : State) (k : Nat) (l : List (Nat × Nat)) : (s.useBanks k l).bus = s.bus := by
  unfold State.useBanks; split <;> rfl
@[simp] theorem State.useBanks_made (s : State) (k : Nat) (l : List (Nat × Nat)) : (s.useBanks k l).made = s.made := by
  unfold State.useBanks; split <;> rfl
@[simp] theorem State.useBanks_id (s : State) (k : Nat) (l : List (Nat × Nat)) : (s.useBanks k l).id = s.id := by
  unfold State.useBanks; split <;> rfl

@[simp] theorem State.setCounts_pending (s : State) (r : Nat) (f : Counts → Counts) : (s.setCounts r f).pending = s.pending := by
  unfold State.setCounts; dsimp only; split <;> rfl
@[simp] theorem State.setCounts_free (s : State) (r : Nat) (f : Counts → Counts) : (s.setCounts r f).free = s.free := by
  unfold State.setCounts; dsimp only; split <;> rfl
@[simp] theorem State.setCounts_tiles (s : State) (r : Nat) (f : Counts → Counts) : (s.setCounts r f).tiles = s.tiles := by
  unfold State.setCounts; dsimp only; split <;> rfl
@[simp] theorem State.setCounts_dies (s : State) (r : Nat) (f : Counts → Counts) : (s.setCounts r f).dies = s.dies := by
  unfold State.setCounts; dsimp only; split <;> rfl
@[simp] theorem State.setCounts_mem (s : State) (r : Nat) (f : Counts → Counts) : (s.setCounts r f).mem = s.mem := by
  unfold State.setCounts; dsimp only; split <;> rfl
@[simp] theorem State.setCounts_img (s : State) (r : Nat) (f : Counts → Counts) : (s.setCounts r f).img = s.img := by
  unfold State.setCounts; dsimp only; split <;> rfl
@[simp] theorem State.setCounts_er (s : State) (r : Nat) (f : Counts → Counts) : (s.setCounts r f).er = s.er := by
  unfold State.setCounts; dsimp only; split <;> rfl
@[simp] theorem State.setCounts_ce (s : State) (r : Nat) (f : Counts → Counts) : (s.setCounts r f).ce = s.ce := by
  unfold State.setCounts; dsimp only; split <;> rfl
@[simp] theorem State.setCounts_fw (s : State) (r : Nat) (f : Counts → Counts) : (s.setCounts r f).fw = s.fw := by
  unfold State.setCounts; dsimp only; split <;> rfl
@[simp] theorem State.setCounts_dbg (s : State) (r : Nat) (f : Counts → Counts) : (s.setCounts r f).dbg = s.dbg := by
  unfold State.setCounts; dsimp only; split <;> rfl
@[simp] theorem State.setCounts_net (s : State) (r : Nat) (f : Counts → Counts) : (s.setCounts r f).net = s.net := by
  unfold State.setCounts; dsimp only; split <;> rfl
@[simp] theorem State.setCounts_fab (s : State) (r : Nat) (f : Counts → Counts) : (s.setCounts r f).fab = s.fab := by
  unfold State.setCounts; dsimp only; split <;> rfl
@[simp] theorem State.setCounts_tm (s : State) (r : Nat) (f : Counts → Counts) : (s.setCounts r f).tm = s.tm := by
  unfold State.setCounts; dsimp only; split <;> rfl
@[simp] theorem State.setCounts_groups (s : State) (r : Nat) (f : Counts → Counts) : (s.setCounts r f).groups = s.groups := by
  unfold State.setCounts; dsimp only; split <;> rfl
@[simp] theorem State.setCounts_ck (s : State) (r : Nat) (f : Counts → Counts) : (s.setCounts r f).ck = s.ck := by
  unfold State.setCounts; dsimp only; split <;> rfl
@[simp] theorem State.setCounts_pw (s : State) (r : Nat) (f : Counts → Counts) : (s.setCounts r f).pw = s.pw := by
  unfold State.setCounts; dsimp only; split <;> rfl
@[simp] theorem State.setCounts_sv (s : State) (r : Nat) (f : Counts → Counts) : (s.setCounts r f).sv = s.sv := by
  unfold State.setCounts; dsimp only; split <;> rfl
@[simp] theorem State.setCounts_tw (s : State) (r : Nat) (f : Counts → Counts) : (s.setCounts r f).tw = s.tw := by
  unfold State.setCounts; dsimp only; split <;> rfl
@[simp] theorem State.setCounts_boot (s : State) (r : Nat) (f : Counts → Counts) : (s.setCounts r f).boot = s.boot := by
  unfold State.setCounts; dsimp only; split <;> rfl
@[simp] theorem State.setCounts_bus (s : State) (r : Nat) (f : Counts → Counts) : (s.setCounts r f).bus = s.bus := by
  unfold State.setCounts; dsimp only; split <;> rfl
@[simp] theorem State.setCounts_made (s : State) (r : Nat) (f : Counts → Counts) : (s.setCounts r f).made = s.made := by
  unfold State.setCounts; dsimp only; split <;> rfl
@[simp] theorem State.setCounts_id (s : State) (r : Nat) (f : Counts → Counts) : (s.setCounts r f).id = s.id := by
  unfold State.setCounts; dsimp only; split <;> rfl

/-! Reading back what an update wrote. -/

theorem State.tile_setTile (s : State) (k j : Nat) (x : Tile) :
    (s.setTile k x).tile j = if j = k then x else s.tile j := by
  simp [State.tile, tget_tset]

theorem State.tile_modTile (s : State) (k j : Nat) (f : Tile → Tile) :
    (s.modTile k f).tile j = if j = k then f (s.tile k) else s.tile j := by
  simp [State.tile, tget_tset]

@[simp] theorem State.tile_modTile_same (s : State) (k : Nat) (f : Tile → Tile) : (s.modTile k f).tile k = f (s.tile k) := by
  simp [State.tile_modTile]

@[simp] theorem State.tile_setTile_same (s : State) (k : Nat) (x : Tile) : (s.setTile k x).tile k = x := by
  simp [State.tile_setTile]

theorem State.die_setDie (s : State) (d e : Nat) (x : Die) :
    (s.setDie d x).die e = if e = d then x else s.die e := by
  simp [State.die, tget_tset]

theorem State.die_modDie (s : State) (d e : Nat) (f : Die → Die) :
    (s.modDie d f).die e = if e = d then f (s.die d) else s.die e := by
  simp [State.die, tget_tset]

@[simp] theorem State.die_modDie_same (s : State) (d : Nat) (f : Die → Die) : (s.modDie d f).die d = f (s.die d) := by
  simp [State.die_modDie]

/-- A slot passes its tile's turn on and changes nothing else of it. -/
@[simp] theorem State.tile_pass_same (s : State) (x : Site) (sl : Slot) :
    (s.pass x sl).tile x.key = { s.tile x.key with passed := sl.rank + 1 } := by
  simp [State.pass]

theorem State.tile_pass_other (s : State) (x : Site) (sl : Slot) (j : Nat) (h : j ≠ x.key) :
    (s.pass x sl).tile j = s.tile j := by
  simp [State.pass, State.tile_modTile, h]

/-- The banks an access takes up in a cyc are all it changes of a tile. -/
theorem State.tile_useBanks (s : State) (k j : Nat) (l : List (Nat × Nat)) :
    (s.useBanks k l).tile j = { s.tile j with used := ((s.useBanks k l).tile j).used } := by
  unfold State.useBanks
  split
  · rw [State.tile_modTile]; split
    · rename_i h; subst h; rfl
    · rfl
  · rfl

@[simp] theorem State.tile_modDie (s : State) (d k : Nat) (f : Die → Die) : (s.modDie d f).tile k = s.tile k := rfl

@[simp] theorem State.die_modTile (s : State) (k d : Nat) (f : Tile → Tile) : (s.modTile k f).die d = s.die d := rfl

@[simp] theorem State.die_setTile (s : State) (k d : Nat) (x : Tile) : (s.setTile k x).die d = s.die d := rfl

theorem State.port_modPort (s : State) (p q : Nat) (f : Port → Port) :
    (s.modPort p f).port q = if q = p then f (s.port p) else s.port q := by
  simp [State.port, tget_tset]

@[simp] theorem State.port_modPort_same (s : State) (p : Nat) (f : Port → Port) : (s.modPort p f).port p = f (s.port p) := by
  simp [State.port_modPort]

/-! What raising an event and writing a log record leave. -/

@[simp] theorem raise_pending (s : State) (c u : Nat) (l : List Byte) : (raise s c u l).pending = s.pending := rfl
@[simp] theorem raise_free (s : State) (c u : Nat) (l : List Byte) : (raise s c u l).free = s.free := rfl
@[simp] theorem raise_tiles (s : State) (c u : Nat) (l : List Byte) : (raise s c u l).tiles = s.tiles := rfl
@[simp] theorem raise_dies (s : State) (c u : Nat) (l : List Byte) : (raise s c u l).dies = s.dies := rfl
@[simp] theorem raise_mem (s : State) (c u : Nat) (l : List Byte) : (raise s c u l).mem = s.mem := rfl
@[simp] theorem raise_img (s : State) (c u : Nat) (l : List Byte) : (raise s c u l).img = s.img := rfl
@[simp] theorem raise_er (s : State) (c u : Nat) (l : List Byte) : (raise s c u l).er = s.er := rfl
@[simp] theorem raise_fw (s : State) (c u : Nat) (l : List Byte) : (raise s c u l).fw = s.fw := rfl
@[simp] theorem raise_dbg (s : State) (c u : Nat) (l : List Byte) : (raise s c u l).dbg = s.dbg := rfl
@[simp] theorem raise_net (s : State) (c u : Nat) (l : List Byte) : (raise s c u l).net = s.net := rfl
@[simp] theorem raise_fab (s : State) (c u : Nat) (l : List Byte) : (raise s c u l).fab = s.fab := rfl
@[simp] theorem raise_pages (s : State) (c u : Nat) (l : List Byte) : (raise s c u l).pages = s.pages := rfl
@[simp] theorem raise_tm (s : State) (c u : Nat) (l : List Byte) : (raise s c u l).tm = s.tm := rfl
@[simp] theorem raise_groups (s : State) (c u : Nat) (l : List Byte) : (raise s c u l).groups = s.groups := rfl
@[simp] theorem raise_ck (s : State) (c u : Nat) (l : List Byte) : (raise s c u l).ck = s.ck := rfl
@[simp] theorem raise_pw (s : State) (c u : Nat) (l : List Byte) : (raise s c u l).pw = s.pw := rfl
@[simp] theorem raise_sv (s : State) (c u : Nat) (l : List Byte) : (raise s c u l).sv = s.sv := rfl
@[simp] theorem raise_tw (s : State) (c u : Nat) (l : List Byte) : (raise s c u l).tw = s.tw := rfl
@[simp] theorem raise_boot (s : State) (c u : Nat) (l : List Byte) : (raise s c u l).boot = s.boot := rfl
@[simp] theorem raise_bus (s : State) (c u : Nat) (l : List Byte) : (raise s c u l).bus = s.bus := rfl
@[simp] theorem raise_made (s : State) (c u : Nat) (l : List Byte) : (raise s c u l).made = s.made := rfl
@[simp] theorem raise_id (s : State) (c u : Nat) (l : List Byte) : (raise s c u l).id = s.id := rfl
@[simp] theorem raise_tile (s : State) (c u k : Nat) (l : List Byte) : (raise s c u l).tile k = s.tile k := rfl
@[simp] theorem raise_die (s : State) (c u d : Nat) (l : List Byte) : (raise s c u l).die d = s.die d := rfl
@[simp] theorem raise_ce_state (s : State) (c u : Nat) (l : List Byte) : (raise s c u l).ce.state = s.ce.state := rfl
@[simp] theorem raise_ce_strict (s : State) (c u : Nat) (l : List Byte) : (raise s c u l).ce.strict = s.ce.strict := rfl
@[simp] theorem raise_ce_sq (s : State) (c u : Nat) (l : List Byte) : (raise s c u l).ce.sq = s.ce.sq := rfl
@[simp] theorem raise_ce_cq (s : State) (c u : Nat) (l : List Byte) : (raise s c u l).ce.cq = s.ce.cq := rfl
@[simp] theorem raise_ce_held (s : State) (c u : Nat) (l : List Byte) : (raise s c u l).ce.held = s.ce.held := rfl
@[simp] theorem raise_ce_excl (s : State) (c u : Nat) (l : List Byte) : (raise s c u l).ce.excl = s.ce.excl := rfl
@[simp] theorem raise_ce_load (s : State) (c u : Nat) (l : List Byte) : (raise s c u l).ce.load = s.ce.load := rfl
@[simp] theorem raise_ce_turn (s : State) (c u : Nat) (l : List Byte) : (raise s c u l).ce.turn = s.ce.turn := rfl
@[simp] theorem raise_ce_msix (s : State) (c u : Nat) (l : List Byte) : (raise s c u l).ce.msix = s.ce.msix := rfl
@[simp] theorem raise_ce_msixPend (s : State) (c u : Nat) (l : List Byte) : (raise s c u l).ce.msixPend = s.ce.msixPend := rfl
@[simp] theorem raise_ce_irqs (s : State) (c u : Nat) (l : List Byte) : (raise s c u l).ce.irqs = s.ce.irqs := rfl
@[simp] theorem raise_ce_maps (s : State) (c u : Nat) (l : List Byte) : (raise s c u l).ce.maps = s.ce.maps := rfl
@[simp] theorem raise_ce_step (s : State) (c u : Nat) (l : List Byte) : (raise s c u l).ce.step = s.ce.step := rfl

@[simp] theorem logErr_pending (s : State) (r : LogRec) : (logErr s r).pending = s.pending := rfl
@[simp] theorem logErr_free (s : State) (r : LogRec) : (logErr s r).free = s.free := rfl
@[simp] theorem logErr_tiles (s : State) (r : LogRec) : (logErr s r).tiles = s.tiles := rfl
@[simp] theorem logErr_dies (s : State) (r : LogRec) : (logErr s r).dies = s.dies := rfl
@[simp] theorem logErr_mem (s : State) (r : LogRec) : (logErr s r).mem = s.mem := rfl
@[simp] theorem logErr_img (s : State) (r : LogRec) : (logErr s r).img = s.img := rfl
@[simp] theorem logErr_fw (s : State) (r : LogRec) : (logErr s r).fw = s.fw := rfl
@[simp] theorem logErr_dbg (s : State) (r : LogRec) : (logErr s r).dbg = s.dbg := rfl
@[simp] theorem logErr_net (s : State) (r : LogRec) : (logErr s r).net = s.net := rfl
@[simp] theorem logErr_fab (s : State) (r : LogRec) : (logErr s r).fab = s.fab := rfl
@[simp] theorem logErr_pages (s : State) (r : LogRec) : (logErr s r).pages = s.pages := rfl
@[simp] theorem logErr_tm (s : State) (r : LogRec) : (logErr s r).tm = s.tm := rfl
@[simp] theorem logErr_groups (s : State) (r : LogRec) : (logErr s r).groups = s.groups := rfl
@[simp] theorem logErr_ck (s : State) (r : LogRec) : (logErr s r).ck = s.ck := rfl
@[simp] theorem logErr_pw (s : State) (r : LogRec) : (logErr s r).pw = s.pw := rfl
@[simp] theorem logErr_sv (s : State) (r : LogRec) : (logErr s r).sv = s.sv := rfl
@[simp] theorem logErr_tw (s : State) (r : LogRec) : (logErr s r).tw = s.tw := rfl
@[simp] theorem logErr_boot (s : State) (r : LogRec) : (logErr s r).boot = s.boot := rfl
@[simp] theorem logErr_bus (s : State) (r : LogRec) : (logErr s r).bus = s.bus := rfl
@[simp] theorem logErr_made (s : State) (r : LogRec) : (logErr s r).made = s.made := rfl
@[simp] theorem logErr_id (s : State) (r : LogRec) : (logErr s r).id = s.id := rfl
@[simp] theorem logErr_ce (s : State) (r : LogRec) : (logErr s r).ce = s.ce := rfl
@[simp] theorem logErr_er_counters (s : State) (r : LogRec) : (logErr s r).er.counters = s.er.counters := rfl
@[simp] theorem logErr_er_retired (s : State) (r : LogRec) : (logErr s r).er.retired = s.er.retired := rfl
@[simp] theorem logErr_er_volatile_ (s : State) (r : LogRec) : (logErr s r).er.volatile_ = s.er.volatile_ := rfl
@[simp] theorem logErr_er_thresh (s : State) (r : LogRec) : (logErr s r).er.thresh = s.er.thresh := rfl
@[simp] theorem logErr_er_win (s : State) (r : LogRec) : (logErr s r).er.win = s.er.win := rfl
@[simp] theorem logErr_er_scrub (s : State) (r : LogRec) : (logErr s r).er.scrub = s.er.scrub := rfl
@[simp] theorem logErr_er_sel (s : State) (r : LogRec) : (logErr s r).er.sel = s.er.sel := rfl
@[simp] theorem logErr_er_captured (s : State) (r : LogRec) : (logErr s r).er.captured = s.er.captured := rfl
@[simp] theorem logErr_tile (s : State) (r : LogRec) (k : Nat) : (logErr s r).tile k = s.tile k := rfl
@[simp] theorem logErr_die (s : State) (r : LogRec) (d : Nat) : (logErr s r).die d = s.die d := rfl

end Sys2Proof.Machine
end

