-- ==== Sys2Proof/Laws/Ops.lean ====
section
/-! SUPPORT. For each shared operation, once, all that it can change. -/

namespace Sys2Proof.Machine

/-- What counting, logging and raising may change: the error records and the waiting events. -/
def Notes (s t : State) : Prop := ∃ er ev, t = { s with er := er, ce := { s.ce with ev := ev } }

theorem Notes.refl (s : State) : Notes s s := ⟨s.er, s.ce.ev, rfl⟩

theorem Notes.trans {s t u : State} (a : Notes s t) (b : Notes t u) : Notes s u := by
  obtain ⟨e, v, rfl⟩ := a; obtain ⟨e', v', rfl⟩ := b; exact ⟨e', v', rfl⟩

theorem raise_notes (s : State) (c u : Nat) (l : List Byte) : Notes s (raise s c u l) := ⟨s.er, _, rfl⟩

theorem logErr_notes (s : State) (r : LogRec) : Notes s (logErr s r) := ⟨_, s.ce.ev, rfl⟩

theorem retire_notes (s : State) (r c : Nat) : Notes s (retire s r c) := by
  unfold retire
  split
  · exact Notes.refl s
  · exact ⟨_, _, rfl⟩

theorem countErr_notes (s : State) (r n k a : Nat) : Notes s (countErr s r n k a) := by
  have step (x : State) (b : Bool) (h : Notes s x) : Notes s (if b then retire x r (if k = 2 then 2 else 1) else x) := by
    cases b
    · exact h
    · exact h.trans (retire_notes _ _ _)
  exact step _ _ ⟨_, s.ce.ev, rfl⟩

/-- What the checks of memory words may change beside `Notes`: the records of corrected errors. -/
def Checks (s t : State) : Prop :=
  ∃ er ev a b c d, t = { s with
    er := er
    ce := { s.ce with ev := ev }
    mem := { s.mem with spadCe := a, cavCe := b, lastCe := c, rewrite := d } }

theorem Checks.refl (s : State) : Checks s s := ⟨s.er, s.ce.ev, s.mem.spadCe, s.mem.cavCe, s.mem.lastCe, s.mem.rewrite, rfl⟩

theorem Checks.trans {s t u : State} (a : Checks s t) (b : Checks t u) : Checks s u := by
  obtain ⟨_, _, _, _, _, _, rfl⟩ := a; obtain ⟨_, _, _, _, _, _, rfl⟩ := b; exact ⟨_, _, _, _, _, _, rfl⟩

theorem Notes.checks {s t : State} (a : Notes s t) : Checks s t := by
  obtain ⟨_, _, rfl⟩ := a; exact ⟨_, _, s.mem.spadCe, s.mem.cavCe, s.mem.lastCe, s.mem.rewrite, rfl⟩

theorem checkSpWord_checks (s : State) (k w : Nat) : Checks s (checkSpWord s k w).1 := by
  unfold checkSpWord
  simp only
  split
  · exact Checks.refl s
  · split
    · exact (countErr_notes _ _ _ _ _).checks
    · split
      · exact Checks.refl s
      · exact Checks.trans ⟨s.er, s.ce.ev, _, s.mem.cavCe, s.mem.lastCe, s.mem.rewrite, rfl⟩ (countErr_notes _ _ _ _ _).checks

theorem checkCvWord_checks (s : State) (d w : Nat) : Checks s (checkCvWord s d w).1 := by
  unfold checkCvWord
  simp only
  split
  · exact Checks.refl s
  · split
    · exact (countErr_notes _ _ _ _ _).checks
    · split
      · exact ⟨s.er, s.ce.ev, s.mem.spadCe, s.mem.cavCe, _, _, rfl⟩
      · exact Checks.trans ⟨s.er, s.ce.ev, s.mem.spadCe, _, _, _, rfl⟩ (countErr_notes _ _ _ _ _).checks

/-- A relation that every pass of a fold keeps holds from end to end. -/
theorem foldl_keeps {σ β : Type} (R : σ → σ → Prop) (refl : ∀ s, R s s) (trans : ∀ s t u, R s t → R t u → R s u)
    (f : σ → β → σ) (h : ∀ s b, R s (f s b)) (l : List β) (s : σ) : R s (l.foldl f s) := by
  induction l generalizing s with
  | nil => exact refl s
  | cons b l ih => exact trans _ _ _ (h s b) (ih _)

theorem checkSp_checks (s : State) (k : Nat) (l : List (Nat × Nat)) : Checks s (checkSp s k l).1 := by
  unfold checkSp
  split
  · exact Checks.refl s
  · refine foldl_keeps (fun p q : State × Bool => Checks p.1 q.1) (fun p => Checks.refl p.1)
      (fun _ _ _ => Checks.trans) _ ?_ l (s, false)
    intro p r
    refine foldl_keeps (fun p q : State × Bool => Checks p.1 q.1) (fun p => Checks.refl p.1)
      (fun _ _ _ => Checks.trans) _ ?_ _ p
    intro q i
    exact checkSpWord_checks _ _ _

theorem checkCv_checks (s : State) (d : Nat) (l : List (Nat × Nat)) : Checks s (checkCv s d l).1 := by
  unfold checkCv
  split
  · exact Checks.refl s
  · refine foldl_keeps (fun p q : State × Bool => Checks p.1 q.1) (fun p => Checks.refl p.1)
      (fun _ _ _ => Checks.trans) _ ?_ l (s, false)
    intro p r
    refine foldl_keeps (fun p q : State × Bool => Checks p.1 q.1) (fun p => Checks.refl p.1)
      (fun _ _ _ => Checks.trans) _ ?_ _ p
    intro q i
    exact checkCvWord_checks _ _ _

/-! ### Tiles and dies that only record a fault or a halt -/

/-- The fault and watchpoint fields are all that differ between two states of a tile. -/
def TileNotes (a b : Tile) : Prop :=
  b = { a with faultNow := b.faultNow, faults := b.faults, wp := b.wp, wphit := b.wphit }

/-- The stop fields and the halt cause are all that differ between two states of a die. -/
def DieNotes (a b : Die) : Prop := b = { a with stop := b.stop, dbgCause := b.dbgCause }

/-- What a fault of tile `k` or a check of its accesses may change. -/
def Marks (k : Nat) (s t : State) : Prop :=
  (∃ er ev a b c d tiles dies, t = { s with
    er := er
    ce := { s.ce with ev := ev }
    tiles := tiles
    dies := dies
    mem := { s.mem with spadCe := a, cavCe := b, lastCe := c, rewrite := d } }) ∧
  (TileNotes (s.tile k) (t.tile k) ∧ ∀ j, j ≠ k → t.tile j = s.tile j) ∧
  DieNotes (s.die (k / 256)) (t.die (k / 256)) ∧ ∀ d, d ≠ k / 256 → t.die d = s.die d

theorem TileNotes.trans {a b c : Tile} (h : TileNotes a b) (g : TileNotes b c) : TileNotes a c := by
  unfold TileNotes at *; rw [g, h]

theorem DieNotes.trans {a b c : Die} (h : DieNotes a b) (g : DieNotes b c) : DieNotes a c := by
  unfold DieNotes at *; rw [g, h]

theorem Marks.trans {k : Nat} {s t u : State} (a : Marks k s t) (b : Marks k t u) : Marks k s u := by
  obtain ⟨⟨_, _, _, _, _, _, _, _, h⟩, ⟨a2, a3⟩, a4, a5⟩ := a
  obtain ⟨⟨_, _, _, _, _, _, _, _, h'⟩, ⟨b2, b3⟩, b4, b5⟩ := b
  refine ⟨?_, ⟨a2.trans b2, fun j n => (b3 j n).trans (a3 j n)⟩, a4.trans b4, fun d n => (b5 d n).trans (a5 d n)⟩
  rw [h', h]
  exact ⟨_, _, _, _, _, _, _, _, rfl⟩

theorem Checks.marks {s t : State} (k : Nat) (a : Checks s t) : Marks k s t := by
  obtain ⟨_, _, _, _, _, _, rfl⟩ := a
  exact ⟨⟨_, _, _, _, _, _, s.tiles, s.dies, rfl⟩, ⟨rfl, fun _ _ => rfl⟩, rfl, fun _ _ => rfl⟩

theorem Marks.refl (k : Nat) (s : State) : Marks k s s := (Checks.refl s).marks k

theorem Notes.marks {s t : State} (k : Nat) (a : Notes s t) : Marks k s t := a.checks.marks k

theorem marks_setTile (s : State) (k : Nat) (x : Tile) (h : TileNotes (s.tile k) x) : Marks k s (s.setTile k x) := by
  refine ⟨⟨s.er, s.ce.ev, s.mem.spadCe, s.mem.cavCe, s.mem.lastCe, s.mem.rewrite, _, s.dies, rfl⟩, ⟨?_, ?_⟩, rfl,
    fun _ _ => rfl⟩
  · simpa using h
  · intro j n
    simp [State.tile_setTile, n]

theorem marks_modTile (s : State) (k : Nat) (f : Tile → Tile) (h : TileNotes (s.tile k) (f (s.tile k))) :
    Marks k s (s.modTile k f) := marks_setTile s k _ h

theorem marks_modDie (s : State) (k : Nat) (f : Die → Die) (h : DieNotes (s.die (k / 256)) (f (s.die (k / 256)))) :
    Marks k s (s.modDie (k / 256) f) := by
  refine ⟨⟨s.er, s.ce.ev, s.mem.spadCe, s.mem.cavCe, s.mem.lastCe, s.mem.rewrite, s.tiles, _, rfl⟩,
    ⟨rfl, fun _ _ => rfl⟩, ?_, ?_⟩
  · simpa using h
  · intro j n
    simp [State.die_modDie, n]

theorem faultAt_marks (s : State) (k b : Nat) (l : Slot) (c : Cause) (ga : Nat) : Marks k s (faultAt s k b l c ga) := by
  unfold faultAt
  simp only
  split
  · exact (logErr_notes _ _).marks k
  · exact (marks_setTile s k _ (by exact rfl)).trans (marks_modDie _ k _ (by exact rfl))

theorem tileFault_marks (s : State) (k : Nat) (l : Slot) (c : Cause) (ga : Nat) : Marks k s (tileFault s k l c ga) :=
  faultAt_marks _ _ _ _ _ _

theorem haltAfter_marks (s : State) (k c v b : Nat) : Marks k s (haltAfter s (k / 256) c v b) := by
  unfold haltAfter
  split
  · exact marks_modDie _ _ _ rfl
  · exact marks_modDie _ _ _ rfl

theorem watchOne_marks (s : State) (k : Nat) (a : Acc) (o n : Nat) : Marks k s (watchOne s k a o n) := by
  unfold watchOne
  split
  · exact Marks.refl k s
  · refine foldl_keeps (Marks k) (Marks.refl k) (fun _ _ _ => Marks.trans) _ ?_ _ s
    intro s i
    simp only
    repeat' split
    all_goals first
      | exact Marks.refl k _
      | exact marks_modTile _ _ _ (by exact rfl)
      | exact Marks.trans (marks_modTile _ _ _ (by exact rfl)) (haltAfter_marks _ _ _ _ _)

theorem watch_marks (s : State) (k : Nat) (a : Acc) (l : List (Nat × Nat)) : Marks k s (watch s k a l) := by
  unfold watch
  split
  · exact Marks.refl k s
  · refine foldl_keeps (Marks k) (Marks.refl k) (fun _ _ _ => Marks.trans) _ ?_ l s
    intro s r
    exact watchOne_marks s k a r.1 r.2

/-- Scheduled reads change nothing but error records, events, fault marks and watchpoints. -/
theorem readAcc_marks (s : State) (k b : Nat) (l : Slot) (rs : List (Nat × Nat)) : Marks k s (readAcc s k b l rs).1 := by
  unfold readAcc
  simp only
  have one (u : State) (p : Bool) (c : Cause) : Marks k u (if p then faultAt u k b l c else u) := by
    cases p
    · exact Marks.refl k u
    · exact faultAt_marks _ _ _ _ _ _
  exact (one _ _ _).trans (((checkSp_checks _ _ _).marks k).trans ((watch_marks _ _ _ _).trans (one _ _ _)))

/-- A read of words without error, in banks that are on, where nothing watches, changes nothing. -/
theorem readAcc_calm (s : State) (k b : Nat) (l : Slot) (rs : List (Nat × Nat)) (e : s.mem.spadErr = [])
    (w : (s.tile k).wp = []) (on : ∀ r ∈ rs, s.bankOn k r.1 = true) : readAcc s k b l rs = (s, true) := by
  have f : rs.filter (fun r => s.bankOn k r.1) = rs := List.filter_eq_self.mpr on
  simp [readAcc, f, checkSp, watch, e, w]

/-! ### Writes -/

theorem narrowCe_checks (s : State) (k o n : Nat) : Checks s (narrowCe s k o n) := by
  unfold narrowCe
  split
  · exact Checks.refl s
  · refine foldl_keeps Checks Checks.refl (fun _ _ _ => Checks.trans) _ ?_ _ s
    intro s i
    simp only
    repeat' split
    all_goals first
      | exact Checks.refl _
      | exact checkSpWord_checks _ _ _

/-- A store in a tile's scratchpad changes its bytes, word statuses and the error records. -/
theorem spPut_writes (s : State) (k o : Nat) (bs : List Byte) (p : Bool) :
    ∃ u, Checks s u ∧ spPut s k o bs p = { u with mem := { u.mem with
      spad := mputs s.mem.spad (spKey k o) bs, spadErr := errWrite s.mem.spadErr (spKey k o) bs.length p } } := by
  have h := narrowCe_checks s k (o % 2 ^ 20) bs.length
  refine ⟨narrowCe s k (o % 2 ^ 20) bs.length, h, ?_⟩
  obtain ⟨_, _, _, _, _, _, e⟩ := h
  unfold spPut
  simp only [e]

theorem spPut_mem_spad (s : State) (k o : Nat) (bs : List Byte) (p : Bool) :
    (spPut s k o bs p).mem.spad = mputs s.mem.spad (spKey k o) bs := by
  obtain ⟨u, -, e⟩ := spPut_writes s k o bs p; rw [e]

theorem spPut_tile (s : State) (k o j : Nat) (bs : List Byte) (p : Bool) : (spPut s k o bs p).tile j = s.tile j := by
  obtain ⟨u, ⟨_, _, _, _, _, _, rfl⟩, e⟩ := spPut_writes s k o bs p; rw [e]; rfl

theorem Marks.spad {k : Nat} {s t : State} (h : Marks k s t) : t.mem.spad = s.mem.spad := by
  obtain ⟨⟨_, _, _, _, _, _, _, _, e⟩, -⟩ := h; rw [e]

theorem Marks.cav {k : Nat} {s t : State} (h : Marks k s t) : t.mem.cav = s.mem.cav := by
  obtain ⟨⟨_, _, _, _, _, _, _, _, e⟩, -⟩ := h; rw [e]

/-- A store keeps the canonical form of the scratchpad. -/
theorem spPut_wf (s : State) (k o : Nat) (bs : List Byte) (p : Bool) (w : Memory.wf s.mem.spad = true) :
    Memory.wf (spPut s k o bs p).mem.spad = true := by
  rw [spPut_mem_spad]; exact Memory.wf_mputs _ _ _ w

theorem narrowCv_checks (s : State) (d o n : Nat) : Checks s (narrowCv s d o n) := by
  unfold narrowCv
  split
  · exact Checks.refl s
  · refine foldl_keeps Checks Checks.refl (fun _ _ _ => Checks.trans) _ ?_ _ s
    intro s i
    simp only
    repeat' split
    all_goals first
      | exact Checks.refl _
      | exact checkCvWord_checks _ _ _

/-- A store in a die's Cavern changes its bytes, word statuses and the error records. -/
theorem cvPut_writes (s : State) (d o : Nat) (bs : List Byte) (p : Bool) :
    ∃ u, Checks s u ∧ cvPut s d o bs p = { u with mem := { u.mem with
      cav := mputs s.mem.cav (cvKey d o) bs, cavErr := errWrite s.mem.cavErr (cvKey d o) bs.length p } } := by
  have h := narrowCv_checks s d (o % 2 ^ 32) bs.length
  refine ⟨narrowCv s d (o % 2 ^ 32) bs.length, h, ?_⟩
  obtain ⟨_, _, _, _, _, _, e⟩ := h
  unfold cvPut
  simp only [e]

theorem cvPut_mem_cav (s : State) (d o : Nat) (bs : List Byte) (p : Bool) :
    (cvPut s d o bs p).mem.cav = mputs s.mem.cav (cvKey d o) bs := by
  obtain ⟨u, -, e⟩ := cvPut_writes s d o bs p; rw [e]

theorem cvPut_tile (s : State) (d o k : Nat) (bs : List Byte) (p : Bool) : (cvPut s d o bs p).tile k = s.tile k := by
  obtain ⟨u, ⟨_, _, _, _, _, _, rfl⟩, e⟩ := cvPut_writes s d o bs p; rw [e]; rfl

/-- A store keeps the canonical form of the Cavern. -/
theorem cvPut_wf (s : State) (d o : Nat) (bs : List Byte) (p : Bool) (w : Memory.wf s.mem.cav = true) :
    Memory.wf (cvPut s d o bs p).mem.cav = true := by
  rw [cvPut_mem_cav]; exact Memory.wf_mputs _ _ _ w

/-! ### Checks and the issue of an instruction -/

/-- No cause applies exactly where every check passes. -/
theorem causesOf_nil (l : List (Bool × Cause)) : causesOf l = [] ↔ ∀ e ∈ l, e.1 = false := by
  simp [causesOf, List.filter_eq_nil_iff]

theorem causesOf_append (l m : List (Bool × Cause)) : causesOf (l ++ m) = causesOf l ++ causesOf m := by
  simp [causesOf]

theorem checked_none (s : State) (k : Nat) (sl : Slot) (l : List (Bool × Cause)) (act : State → State)
    (h : causesOf l = []) : checked s k sl l act = act s := by
  simp [checked, h]

/-- Where a check fails, nothing but the marks of the tile's faults changes. -/
theorem checked_marks (s : State) (k : Nat) (sl : Slot) (l : List (Bool × Cause)) (act : State → State)
    (h : causesOf l ≠ []) : Marks k s (checked s k sl l act) := by
  unfold checked
  split
  · contradiction
  · exact foldl_keeps (Marks k) (Marks.refl k) (fun _ _ _ => Marks.trans) _ (fun _ _ => tileFault_marks _ _ _ _ _) _ s

/-- Work that passes every check is done. -/
theorem checkedWork_work (s : State) (k : Nat) (sl : Slot) (pre l : List (Bool × Cause)) (act : State → State)
    (h : causesOf pre = []) (g : causesOf l = []) : checkedWork s k sl pre true l act = act s := by
  simp [checkedWork, checked, causesOf_append, h, g]

/-- An instruction that requests no work, and passes the checks that do not depend on it, does nothing. -/
theorem checkedWork_idle (s : State) (k : Nat) (sl : Slot) (pre l : List (Bool × Cause)) (act : State → State)
    (h : causesOf pre = []) : checkedWork s k sl pre false l act = s := by
  simp [checkedWork, checked, h]

theorem issue_of (x : Site) (sl : Slot) (s : State) (f : State → State) (h : s.canIssue x sl = true) :
    issue x sl s f = f (s.pass x sl) := by
  simp [issue, h]

theorem issue_not (x : Site) (sl : Slot) (s : State) (f : State → State) (h : s.canIssue x sl = false) :
    issue x sl s f = s := by
  simp [issue, h]


/-- A fault of a tile that has not faulted in an earlier cyc: its mark, and the stop of its die. -/
theorem faultAt_first (s : State) (k b : Nat) (l : Slot) (c : Cause) (ga : Nat) (g : (s.tile k).seq ≠ .faulted) :
    ((faultAt s k b l c ga).tile k).faultNow = true ∧ (∃ f ∈ ((faultAt s k b l c ga).tile k).faults, f.cause = c) ∧
    ((faultAt s k b l c ga).die (k / 256)).stop.atEnd = true := by
  unfold faultAt
  simp only [g, if_false]
  refine ⟨by simp, ?_, by simp⟩
  simp only [State.tile_modDie, State.tile_setTile, if_true]
  split
  · rename_i h
    obtain ⟨f, hf, e⟩ := List.any_eq_true.mp h
    simp only [Bool.and_eq_true, beq_iff_eq] at e
    exact ⟨f, hf, e.1.2⟩
  · exact ⟨⟨l, c, b, ga⟩, by simp, rfl⟩

end Sys2Proof.Machine
end

