-- ==== Sys2Proof/Laws/Mem.lean ====
section
/-! SUPPORT. What the stores of an instruction change, and what reads find afterwards. -/

namespace Sys2Proof.Machine

/-- What an instruction of tile `k` may change that stores only to scratchpad bytes of the set `K`, beside the marks of
the tile and its die. -/
def Stores (k : Nat) (K : Nat → Prop) (s t : State) : Prop :=
  (∃ er ev a b c d sp se tiles dies, t = { s with
    er := er
    ce := { s.ce with ev := ev }
    tiles := tiles
    dies := dies
    mem := { s.mem with spad := sp, spadErr := se, spadCe := a, cavCe := b, lastCe := c, rewrite := d } }) ∧
  (TileNotes (s.tile k) (t.tile k) ∧ ∀ j, j ≠ k → t.tile j = s.tile j) ∧
  (DieNotes (s.die (k / 256)) (t.die (k / 256)) ∧ ∀ d, d ≠ k / 256 → t.die d = s.die d) ∧
  (∀ a, ¬ K a → mget t.mem.spad a = mget s.mem.spad a) ∧
  (Memory.wf s.mem.spad = true → Memory.wf t.mem.spad = true)

theorem Stores.trans {k : Nat} {K : Nat → Prop} {s t u : State} (a : Stores k K s t) (b : Stores k K t u) : Stores k K s u := by
  obtain ⟨⟨_, _, _, _, _, _, _, _, _, _, h⟩, ⟨a2, a3⟩, ⟨a4, a5⟩, a6, a7⟩ := a
  obtain ⟨⟨_, _, _, _, _, _, _, _, _, _, h'⟩, ⟨b2, b3⟩, ⟨b4, b5⟩, b6, b7⟩ := b
  refine ⟨?_, ⟨a2.trans b2, fun j n => (b3 j n).trans (a3 j n)⟩, ⟨a4.trans b4, fun d n => (b5 d n).trans (a5 d n)⟩,
    fun x n => (b6 x n).trans (a6 x n), fun w => b7 (a7 w)⟩
  rw [h', h]
  exact ⟨_, _, _, _, _, _, _, _, _, _, rfl⟩

theorem Marks.stores {k : Nat} {s t : State} (K : Nat → Prop) (a : Marks k s t) : Stores k K s t := by
  have e := a.spad
  obtain ⟨⟨_, _, _, _, _, _, _, _, h⟩, h2, h3, h4⟩ := a
  refine ⟨?_, h2, ⟨h3, h4⟩, fun x _ => by rw [e], fun w => by rw [e]; exact w⟩
  rw [h]
  exact ⟨_, _, _, _, _, _, s.mem.spad, s.mem.spadErr, _, _, rfl⟩

theorem Stores.refl (k : Nat) (K : Nat → Prop) (s : State) : Stores k K s s := (Marks.refl k s).stores K

theorem Stores.mono {k : Nat} {K L : Nat → Prop} {s t : State} (h : ∀ a, K a → L a) (a : Stores k K s t) : Stores k L s t :=
  ⟨a.1, a.2.1, a.2.2.1, fun x n => a.2.2.2.1 x (fun q => n (h x q)), a.2.2.2.2⟩

/-- The keys of `n` bytes from a scratchpad offset of a tile. -/
def Spans (k o n : Nat) (a : Nat) : Prop := spKey k o ≤ a ∧ a < spKey k o + n

theorem spPut_stores (s : State) (k o : Nat) (bs : List Byte) (p : Bool) : Stores k (Spans k o bs.length) s (spPut s k o bs p) := by
  have m := spPut_mem_spad s k o bs p
  obtain ⟨u, ⟨_, _, _, _, _, _, rfl⟩, e⟩ := spPut_writes s k o bs p
  refine ⟨?_, ⟨?_, ?_⟩, ⟨?_, ?_⟩, ?_, ?_⟩
  · rw [e]; exact ⟨_, _, _, _, _, _, _, _, s.tiles, s.dies, rfl⟩
  · rw [e]; exact rfl
  · intro j _; rw [e]; rfl
  · rw [e]; exact rfl
  · intro j _; rw [e]; rfl
  · intro a n
    rw [m]
    apply mget_mputs_outside
    unfold Spans at n
    omega
  · exact fun w => spPut_wf s k o bs p w

/-- The pieces of a range lie in it, one after the other. -/
theorem pageCuts_inside (o : Nat) (bs : List Byte) : ∀ p ∈ pageCuts o bs, o ≤ p.1 ∧
    (p.2.length = 0 ∨ p.1 + p.2.length ≤ o + bs.length) := by
  intro p h
  simp only [pageCuts, List.mem_map, List.mem_range] at h
  obtain ⟨i, -, rfl⟩ := h
  simp only [List.length_take, List.length_drop]
  omega

/-- A range within one page is one piece. -/
theorem pageCuts_one (o : Nat) (bs : List Byte) (n : bs ≠ []) (h : o % 4096 + bs.length ≤ 4096) :
    pageCuts o bs = [(o, bs)] := by
  have l : 0 < bs.length := List.length_pos_iff.mpr n
  have one : (o % 4096 + bs.length + 4095) / 4096 = 1 := by omega
  have lo : max o (o / 4096 * 4096) = o := by omega
  have all : bs.length ≤ (o / 4096 + 1) * 4096 - o := by omega
  simp [pageCuts, one, lo, List.take_of_length_le all]

/-- The keys of a piece that does not wrap lie in those of the whole. -/
theorem spans_piece (k o n lo m a : Nat) (hw : o % 2 ^ 20 + n ≤ 2 ^ 20) (hl : o ≤ lo) (hm : m = 0 ∨ lo + m ≤ o + n)
    (h : Spans k lo m a) : Spans k o n a := by
  unfold Spans spKey at *
  have : lo % 2 ^ 20 = o % 2 ^ 20 + (lo - o) := by omega
  omega

theorem putPieces_stores (K : Nat → Prop) (s : State) (k : Nat) (a : Acc) (l : List (Nat × List Byte)) (p : Bool)
    (h : ∀ q ∈ l, ∀ x, Spans k q.1 q.2.length x → K x) : Stores k K s (putPieces s k a l p) := by
  unfold putPieces
  induction l generalizing s with
  | nil => exact Stores.refl _ _ s
  | cons q l ih =>
    refine Stores.trans ?_ (ih _ (fun r hr => h r (by simp [hr])))
    exact ((spPut_stores s k q.1 q.2 p).mono (h q (by simp))).trans ((watchOne_marks _ _ _ _ _).stores _)

/-- Faults after a store are part of it. -/
theorem Stores.fault {k : Nat} {K : Nat → Prop} {s t : State} (h : Stores k K s t) (c : Bool) (b : Nat) (l : Slot) (d : Cause) :
    Stores k K s (if c then faultAt t k b l d else t) ∧ Stores k K s (if c then t else faultAt t k b l d) := by
  have f := h.trans ((faultAt_marks t k b l d 0).stores K)
  cases c <;> exact ⟨by assumption, by assumption⟩

theorem writeAcc_within (K : Nat → Prop) (s : State) (k b : Nat) (l : Slot) (o : Nat) (bs : List Byte) (p : Bool)
    (h : ∀ q ∈ pageCuts o bs, ∀ x, Spans k q.1 q.2.length x → K x) : Stores k K s (writeAcc s k b l o bs p) := by
  have pieces := putPieces_stores K s k .write (((pageCuts o bs).filter (fun q => s.bankOn k q.1)).filter
    (fun q => !s.inCode k q.1)) p (fun q hq => h q (List.mem_filter.mp (List.mem_filter.mp hq).1).1)
  unfold writeAcc
  exact ((pieces.fault _ b l .bankOff).2.fault _ b l .codeWrite).1

/-- A write of own scratchpad that does not wrap stores to its own bytes only, whether or not some are discarded. -/
theorem writeAcc_stores (s : State) (k b : Nat) (l : Slot) (o : Nat) (bs : List Byte) (p : Bool)
    (hw : o % 2 ^ 20 + bs.length ≤ 2 ^ 20) : Stores k (Spans k o bs.length) s (writeAcc s k b l o bs p) :=
  writeAcc_within _ s k b l o bs p fun q hq x hx =>
    spans_piece k o bs.length q.1 q.2.length x hw (pageCuts_inside o bs q hq).1 (pageCuts_inside o bs q hq).2 hx

/-- Any write of own scratchpad stores to scratchpad alone. -/
theorem writeAcc_any (s : State) (k b : Nat) (l : Slot) (o : Nat) (bs : List Byte) (p : Bool) :
    Stores k (fun _ => True) s (writeAcc s k b l o bs p) :=
  writeAcc_within _ s k b l o bs p fun _ _ _ _ => trivial

/-- Within one page, in a bank that is on and outside the code region, a write puts its bytes. -/
theorem writeAcc_spad (s : State) (k b : Nat) (l : Slot) (o : Nat) (bs : List Byte) (p : Bool) (on : s.bankOn k o = true)
    (n : bs ≠ []) (page : o % 4096 + bs.length ≤ 4096) (code : s.inCode k o = false) :
    (writeAcc s k b l o bs p).mem.spad = mputs s.mem.spad (spKey k o) bs := by
  unfold writeAcc
  simp only [pageCuts_one o bs n page, List.filter_cons, List.filter_nil, on, code, if_true, Bool.not_false, List.all_cons,
    List.all_nil, Bool.and_self, List.any_cons, List.any_nil, Bool.or_self, Bool.false_eq_true, if_false, putPieces,
    List.foldl_cons, List.foldl_nil]
  rw [(watchOne_marks _ _ _ _ _).spad, spPut_mem_spad]

/-- A write of a job, whether or not its claim is lost. -/
theorem jobWrite_any (s : State) (k : Nat) (j : Job) (lost : List Nat) (o : Nat) (bs : List Byte) (p : Bool) :
    Stores k (fun _ => True) s (jobWrite s k j lost o bs p) := by
  unfold jobWrite
  split
  · exact Stores.refl _ _ _
  · exact writeAcc_any _ _ _ _ _ _ _

theorem jobWrite_stores (s : State) (k : Nat) (j : Job) (lost : List Nat) (o : Nat) (bs : List Byte) (p : Bool)
    (hw : o % 2 ^ 20 + bs.length ≤ 2 ^ 20) : Stores k (Spans k o bs.length) s (jobWrite s k j lost o bs p) := by
  unfold jobWrite
  split
  · exact Stores.refl _ _ _
  · exact writeAcc_stores _ _ _ _ _ _ _ hw

/-- A Cavern store changes its own bytes only. -/
theorem cvPut_outside (s : State) (d o a : Nat) (bs : List Byte) (p : Bool)
    (h : a < cvKey d o ∨ cvKey d o + bs.length ≤ a) : mget (cvPut s d o bs p).mem.cav a = mget s.mem.cav a := by
  rw [cvPut_mem_cav]; exact mget_mputs_outside bs s.mem.cav _ a h

/-! ### Slots of Cavern and banks that unscheduled accesses take -/

/-- Only the beats of the die differ. -/
def BeatsOf (d : Nat) (s t : State) : Prop := ∃ l, t = s.modDie d fun x => { x with beats := l }

theorem BeatsOf.mem {d : Nat} {s t : State} (h : BeatsOf d s t) : t.mem = s.mem := by obtain ⟨_, rfl⟩ := h; rfl

theorem BeatsOf.tile {d : Nat} {s t : State} (h : BeatsOf d s t) (k : Nat) : t.tile k = s.tile k := by
  obtain ⟨_, rfl⟩ := h; rfl

theorem admitBeat_beats {s t : State} {k off : Nat} {wr : Bool} (h : admitBeat s k off wr = some t) : BeatsOf (k / 256) s t := by
  unfold admitBeat at h
  dsimp only at h
  split at h
  · cases h
  · cases h; exact ⟨_, rfl⟩

/-- A beat outside the schedule that finds a slot takes it, or, on a die that does not run, none. -/
theorem spareBeat_beats {s t : State} {d off : Nat} {wr : Bool} (h : spareBeat s d off wr = some t) :
    t = s ∨ BeatsOf d s t := by
  unfold spareBeat at h
  dsimp only at h
  split at h
  · cases h; exact .inl rfl
  split at h
  · cases h
  · cases h; exact .inr ⟨_, rfl⟩

/-- What reads of memory depend on. -/
theorem spByte_congr {s t : State} (h : t.mem.spad = s.mem.spad) (k o : Nat) : t.spByte k o = s.spByte k o := by
  simp [State.spByte, h]

theorem spBytes_congr {s t : State} (h : t.mem.spad = s.mem.spad) (k o n : Nat) : t.spBytes k o n = s.spBytes k o n := by
  induction n generalizing o with
  | zero => rfl
  | succ n ih => simp [State.spBytes, spByte_congr h, ih]

theorem spBytes_length (s : State) (k o n : Nat) : (s.spBytes k o n).length = n := by
  induction n generalizing o with
  | zero => rfl
  | succ n ih => simp [State.spBytes, ih]

theorem spBytes_get (s : State) (k o n i : Nat) (h : i < n) :
    (s.spBytes k o n)[i]? = some (s.spByte k (o + i)) := by
  induction n generalizing o i with
  | zero => omega
  | succ n ih =>
    cases i with
    | zero => simp [State.spBytes]
    | succ i => simp only [State.spBytes, List.getElem?_cons_succ]; rw [ih (o + 1) i (by omega)]; congr 2; omega

theorem cvBytes_length (s : State) (d o n : Nat) : (s.cvBytes d o n).length = n := by
  induction n generalizing o with
  | zero => rfl
  | succ n ih => simp [State.cvBytes, ih]

end Sys2Proof.Machine
end

