-- ==== Sys2Proof/Laws/PerInstr.lean ====
section
/-! SUPPORT. The family `Fits`, one lemma per command: a slot word fits its slot, and the command that has one names a tile. -/

namespace Sys2Proof.Laws

open Machine

/-- A command that has a slot word names a tile, and the word fits the slot. -/
def Fits.Statement (i : Instr) : Prop :=
  ∀ sl w, encodeSlot i = some (sl, w) → w < 2 ^ sl.width ∧ i.site?.isSome = true

/-- A command without a slot word fits. -/
theorem Fits.of_none {i : Instr} (h : encodeSlot i = none) : Fits.Statement i := by
  intro sl w e
  rw [h] at e
  cases e

/-- A command with a slot word fits when its word does. -/
theorem Fits.of_some {i : Instr} {sl : Slot} {w : Nat} (h : encodeSlot i = some (sl, w)) (hw : w < 2 ^ sl.width)
    (hs : i.site?.isSome = true) : Fits.Statement i := by
  intro sl' w' e
  rw [h] at e
  cases e
  exact ⟨hw, hs⟩

theorem Fits.cnop (x : Site) : Fits.Statement (.cnop x) := Fits.of_some rfl (by decide) rfl

theorem Fits.cset (x : Site) (cnt : BitVec 4) (imm : BitVec 20) : Fits.Statement (.cset x cnt imm) :=
  Fits.of_some rfl (by
    have := cnt.isLt
    have := imm.isLt
    simp only [Slot.width]; omega) rfl

theorem Fits.cjmp (x : Site) (tgt : BitVec 13) : Fits.Statement (.cjmp x tgt) :=
  Fits.of_some rfl (by
    have := tgt.isLt
    simp only [Slot.width]; omega) rfl

theorem Fits.cloop (x : Site) (cnt : BitVec 4) (tgt : BitVec 13) : Fits.Statement (.cloop x cnt tgt) :=
  Fits.of_some rfl (by
    have := cnt.isLt
    have := tgt.isLt
    simp only [Slot.width]; omega) rfl

theorem Fits.cwait (x : Site) (n : BitVec 16) : Fits.Statement (.cwait x n) :=
  Fits.of_some rfl (by
    have := n.isLt
    simp only [Slot.width]; omega) rfl

theorem Fits.cwaitExpiry (x : Site) : Fits.Statement (.cwaitExpiry x) := Fits.of_none rfl

theorem Fits.skipidle (x : Site) (midx : BitVec 10) (tgt : BitVec 13) : Fits.Statement (.skipidle x midx tgt) :=
  Fits.of_some rfl (by
    have := midx.isLt
    have := tgt.isLt
    simp only [Slot.width]; omega) rfl

theorem Fits.stepb (x : Site) (tgt : BitVec 13) : Fits.Statement (.stepb x tgt) :=
  Fits.of_some rfl (by
    have := tgt.isLt
    simp only [Slot.width]; omega) rfl

theorem Fits.cend (x : Site) : Fits.Statement (.cend x) := Fits.of_some rfl (by decide) rfl

theorem Fits.dnop (x : Site) : Fits.Statement (.dnop x) := Fits.of_some rfl (by decide) rfl

theorem Fits.dset (x : Site) (md : BitVec 5) (sel : BitVec 3) (imm : BitVec 32) :
    Fits.Statement (.dset x md sel imm) :=
  Fits.of_some rfl (by
    have := md.isLt
    have := sel.isLt
    have := imm.isLt
    simp only [Slot.width]; omega) rfl

theorem Fits.dreg (x : Site) (region : BitVec 4) (rop : BitVec 2) (base size : BitVec 14) :
    Fits.Statement (.dreg x region rop base size) :=
  Fits.of_some rfl (by
    have := region.isLt
    have := rop.isLt
    have := base.isLt
    have := size.isLt
    simp only [Slot.width]; omega) rfl

theorem Fits.dmov (x : Site) (src dst : BitVec 5) (rowlen : BitVec 11) (rows : BitVec 12)
    (sinc dinc : BitVec 1) (pace : BitVec 6) :
    Fits.Statement (.dmov x src dst rowlen rows sinc dinc pace) :=
  Fits.of_some rfl (by
    have := src.isLt
    have := dst.isLt
    have := rowlen.isLt
    have := rows.isLt
    have := sinc.isLt
    have := dinc.isLt
    have := pace.isLt
    simp only [Slot.width]; omega) rfl

theorem Fits.dmovx (x : Site) (src dst : BitVec 5) (rowlen : BitVec 11) (rows : BitVec 12)
    (sinc dinc : BitVec 1) (pace : BitVec 6) (gcnt : BitVec 5) :
    Fits.Statement (.dmovx x src dst rowlen rows sinc dinc pace gcnt) :=
  Fits.of_some rfl (by
    have := src.isLt
    have := dst.isLt
    have := rowlen.isLt
    have := rows.isLt
    have := sinc.isLt
    have := dinc.isLt
    have := pace.isLt
    have := gcnt.isLt
    simp only [Slot.width]; omega) rfl

theorem Fits.dtrn (x : Site) (src dst : BitVec 5) (hw : BitVec 1) (blocks : BitVec 12) (sinc dinc : BitVec 1) :
    Fits.Statement (.dtrn x src dst hw blocks sinc dinc) :=
  Fits.of_some rfl (by
    have := src.isLt
    have := dst.isLt
    have := hw.isLt
    have := blocks.isLt
    have := sinc.isLt
    have := dinc.isLt
    simp only [Slot.width]; omega) rfl

theorem Fits.dgath (x : Site) (dop : BitVec 2) (kind : BitVec 1) (md hd : BitVec 5) (layer : BitVec 6)
    (ntok : BitVec 9) (pace : BitVec 6) (gcnt : BitVec 5) (pin rinc stripe : BitVec 1) :
    Fits.Statement (.dgath x dop kind md hd layer ntok pace gcnt pin rinc stripe) :=
  Fits.of_some rfl (by
    have := dop.isLt
    have := kind.isLt
    have := md.isLt
    have := hd.isLt
    have := layer.isLt
    have := ntok.isLt
    have := pace.isLt
    have := gcnt.isLt
    have := pin.isLt
    have := rinc.isLt
    have := stripe.isLt
    simp only [Slot.width]; omega) rfl

theorem Fits.mnop (x : Site) : Fits.Statement (.mnop x) := Fits.of_some rfl (by decide) rfl

theorem Fits.mload (x : Site) (kind : BitVec 2) (fmt : BitVec 1) (cb : BitVec 2) (cseg : BitVec 4)
    (ren : BitVec 1) (src : BitVec 14) (vlast : BitVec 5) (zb : BitVec 2) :
    Fits.Statement (.mload x kind fmt cb cseg ren src vlast zb) :=
  Fits.of_some rfl (by
    have := kind.isLt
    have := fmt.isLt
    have := cb.isLt
    have := cseg.isLt
    have := ren.isLt
    have := src.isLt
    have := vlast.isLt
    have := zb.isLt
    simp only [Slot.width]; omega) rfl

theorem Fits.mswap (x : Site) : Fits.Statement (.mswap x) := Fits.of_some rfl (by decide) rfl

theorem Fits.mstream (x : Site) (abank acc ren : BitVec 1) (rows : BitVec 20) (src : BitVec 14) :
    Fits.Statement (.mstream x abank acc ren rows src) :=
  Fits.of_some rfl (by
    have := abank.isLt
    have := acc.isLt
    have := ren.isLt
    have := rows.isLt
    have := src.isLt
    simp only [Slot.width]; omega) rfl

theorem Fits.mgemv (x : Site) (abank acc : BitVec 1) (nout : BitVec 7) (cb : BitVec 2)
    (cseg bank0 : BitVec 4) (loff : BitVec 10) :
    Fits.Statement (.mgemv x abank acc nout cb cseg bank0 loff) :=
  Fits.of_some rfl (by
    have := abank.isLt
    have := acc.isLt
    have := nout.isLt
    have := cb.isLt
    have := cseg.isLt
    have := bank0.isLt
    have := loff.isLt
    simp only [Slot.width]; omega) rfl

theorem Fits.mdrain (x : Site) (bank : BitVec 1) (dest : BitVec 2) (zc : BitVec 1) (rlast : BitVec 5)
    (qpt : BitVec 6) (csline dline : BitVec 14) :
    Fits.Statement (.mdrain x bank dest zc rlast qpt csline dline) :=
  Fits.of_some rfl (by
    have := bank.isLt
    have := dest.isLt
    have := zc.isLt
    have := rlast.isLt
    have := qpt.isLt
    have := csline.isLt
    have := dline.isLt
    simp only [Slot.width]; omega) rfl

theorem Fits.mclr (x : Site) (banks : BitVec 2) : Fits.Statement (.mclr x banks) :=
  Fits.of_some rfl (by
    have := banks.isLt
    simp only [Slot.width]; omega) rfl

theorem Fits.mcbload (x : Site) (cb : BitVec 2) (seg0 : BitVec 4) (nseg : BitVec 5) (src : BitVec 14) :
    Fits.Statement (.mcbload x cb seg0 nseg src) :=
  Fits.of_some rfl (by
    have := cb.isLt
    have := seg0.isLt
    have := nseg.isLt
    have := src.isLt
    simp only [Slot.width]; omega) rfl

theorem Fits.vnop (x : Site) : Fits.Statement (.vnop x) := Fits.of_some rfl (by decide) rfl

theorem Fits.vcfg (x : Site) (cfg : BitVec 4) (src : BitVec 14) : Fits.Statement (.vcfg x cfg src) :=
  Fits.of_some rfl (by
    have := cfg.isLt
    have := src.isLt
    simp only [Slot.width]; omega) rfl

theorem Fits.vlut (x : Site) (seg0 : BitVec 4) (nseg : BitVec 5) (src : BitVec 14) :
    Fits.Statement (.vlut x seg0 nseg src) :=
  Fits.of_some rfl (by
    have := seg0.isLt
    have := nseg.isLt
    have := src.isLt
    simp only [Slot.width]; omega) rfl

theorem Fits.vrun (x : Site) (cfg : BitVec 4) (rows : BitVec 11) (mkeep : BitVec 1) (aoff boff doff : BitVec 14) :
    Fits.Statement (.vrun x cfg rows mkeep aoff boff doff) :=
  Fits.of_some rfl (by
    have := cfg.isLt
    have := rows.isLt
    have := mkeep.isLt
    have := aoff.isLt
    have := boff.isLt
    have := doff.isLt
    simp only [Slot.width]; omega) rfl

theorem Fits.nnop (x : Site) : Fits.Statement (.nnop x) := Fits.of_some rfl (by decide) rfl

theorem Fits.nsend (x : Site) (rd : BitVec 4) (ch : BitVec 3) (ren : BitVec 1) (src : BitVec 14)
    (nl : BitVec 11) (scnt : BitVec 5) :
    Fits.Statement (.nsend x rd ch ren src nl scnt) :=
  Fits.of_some rfl (by
    have := rd.isLt
    have := ch.isLt
    have := ren.isLt
    have := src.isLt
    have := nl.isLt
    have := scnt.isLt
    simp only [Slot.width]; omega) rfl

theorem Fits.nmcast (x : Site) (rd : BitVec 4) (ch : BitVec 3) (ren : BitVec 1) (src : BitVec 14)
    (nl : BitVec 11) (scnt : BitVec 5) :
    Fits.Statement (.nmcast x rd ch ren src nl scnt) :=
  Fits.of_some rfl (by
    have := rd.isLt
    have := ch.isLt
    have := ren.isLt
    have := src.isLt
    have := nl.isLt
    have := scnt.isLt
    simp only [Slot.width]; omega) rfl

theorem Fits.nred (x : Site) (rd : BitVec 4) (ch : BitVec 3) (ren : BitVec 1) (src : BitVec 14)
    (nl : BitVec 11) (scnt : BitVec 5) :
    Fits.Statement (.nred x rd ch ren src nl scnt) :=
  Fits.of_some rfl (by
    have := rd.isLt
    have := ch.isLt
    have := ren.isLt
    have := src.isLt
    have := nl.isLt
    have := scnt.isLt
    simp only [Slot.width]; omega) rfl

theorem Fits.nrecv (x : Site) (ch : BitVec 3) (ren : BitVec 1) (dst : BitVec 14) (nl : BitVec 11) (gcnt : BitVec 5) :
    Fits.Statement (.nrecv x ch ren dst nl gcnt) :=
  Fits.of_some rfl (by
    have := ch.isLt
    have := ren.isLt
    have := dst.isLt
    have := nl.isLt
    have := gcnt.isLt
    simp only [Slot.width]; omega) rfl

theorem Fits.ngate (x : Site) (cnt : BitVec 5) (val : BitVec 14) (timeout : BitVec 24) :
    Fits.Statement (.ngate x cnt val timeout) :=
  Fits.of_some rfl (by
    have := cnt.isLt
    have := val.isLt
    have := timeout.isLt
    simp only [Slot.width]; omega) rfl

theorem Fits.gateOpen (die : Fin 8) : Fits.Statement (.gateOpen die) := Fits.of_none rfl

theorem Fits.gateTimeout (die : Fin 8) : Fits.Statement (.gateTimeout die) := Fits.of_none rfl

theorem Fits.arrivalWrite (id b : Nat) : Fits.Statement (.arrivalWrite id b) := Fits.of_none rfl

theorem Fits.remoteAccess (id b : Nat) : Fits.Statement (.remoteAccess id b) := Fits.of_none rfl

theorem Fits.remoteResponse (id b : Nat) : Fits.Statement (.remoteResponse id b) := Fits.of_none rfl

theorem Fits.offdieSendRead (x : Site) (entry : Fin 8) : Fits.Statement (.offdieSendRead x entry) := Fits.of_none rfl

theorem Fits.lineArrival (k : Nat) : Fits.Statement (.lineArrival k) := Fits.of_none rfl

theorem Fits.sendAck (k : Nat) : Fits.Statement (.sendAck k) := Fits.of_none rfl

theorem Fits.reductionCombine (k : Nat) : Fits.Statement (.reductionCombine k) := Fits.of_none rfl

theorem Fits.pmRequest (die : Fin 8) (k : Nat) : Fits.Statement (.pmRequest die k) := Fits.of_none rfl

theorem Fits.pmGuestRelease (die : Fin 8) (k : Nat) : Fits.Statement (.pmGuestRelease die k) := Fits.of_none rfl

theorem Fits.patrolRead (die : Fin 8) (stack : Fin 4) : Fits.Statement (.patrolRead die stack) := Fits.of_none rfl

theorem Fits.sequencerFetch (x : Site) : Fits.Statement (.sequencerFetch x) := Fits.of_none rfl

theorem Fits.linkFrame (p : Fin 16) (frame : List Byte) (fec poison : Bool) :
    Fits.Statement (.linkFrame p frame fec poison) := Fits.of_none rfl

theorem Fits.linkNak (p : Fin 16) (seq : Fin 4096) : Fits.Statement (.linkNak p seq) := Fits.of_none rfl

theorem Fits.linkReplayTimer (p : Fin 16) : Fits.Statement (.linkReplayTimer p) := Fits.of_none rfl

theorem Fits.portRetrain (p : Fin 16) (lanes : Fin 5) : Fits.Statement (.portRetrain p lanes) := Fits.of_none rfl

theorem Fits.packetRoute (k : Nat) : Fits.Statement (.packetRoute k) := Fits.of_none rfl

theorem Fits.fabricInject (k : Nat) : Fits.Statement (.fabricInject k) := Fits.of_none rfl

theorem Fits.nack (k : Nat) : Fits.Statement (.nack k) := Fits.of_none rfl

theorem Fits.response (k : Nat) : Fits.Statement (.response k) := Fits.of_none rfl

theorem Fits.transactionTimeout (tag : Nat) : Fits.Statement (.transactionTimeout tag) := Fits.of_none rfl

theorem Fits.portTrained (p : Fin 16) (lanes : Fin 5) : Fits.Statement (.portTrained p lanes) := Fits.of_none rfl

theorem Fits.portSignalLost (p : Fin 16) : Fits.Statement (.portSignalLost p) := Fits.of_none rfl

theorem Fits.portTrainRetry (p : Fin 16) (lanes : Fin 5) :
    Fits.Statement (.portTrainRetry p lanes) := Fits.of_none rfl

theorem Fits.osfpInsert (twin : Bool) (lanes : Fin 5) : Fits.Statement (.osfpInsert twin lanes) := Fits.of_none rfl

theorem Fits.join (k : Nat) : Fits.Statement (.join k) := Fits.of_none rfl

theorem Fits.drainPoll : Fits.Statement (.drainPoll) := Fits.of_none rfl

theorem Fits.drainCountRequest (k : Nat) : Fits.Statement (.drainCountRequest k) := Fits.of_none rfl

theorem Fits.load (k : Nat) : Fits.Statement (.load k) := Fits.of_none rfl

theorem Fits.loaded (k : Nat) : Fits.Statement (.loaded k) := Fits.of_none rfl

theorem Fits.handshakeDone (k : Nat) : Fits.Statement (.handshakeDone k) := Fits.of_none rfl

theorem Fits.handshakeTimeout (mid : Nat) : Fits.Statement (.handshakeTimeout mid) := Fits.of_none rfl

theorem Fits.abort (k : Nat) : Fits.Statement (.abort k) := Fits.of_none rfl

theorem Fits.bridgeFrame (b : Fin 16) (dir : Fin 2) (res : Fin 3) (syms : List Nat) :
    Fits.Statement (.bridgeFrame b dir res syms) := Fits.of_none rfl

theorem Fits.bridgeReplayTimer (b : Fin 16) (dir : Fin 2) (syms : List Nat) :
    Fits.Statement (.bridgeReplayTimer b dir syms) := Fits.of_none rfl

theorem Fits.bridgeRetrain (b : Fin 16) (dir : Fin 2) (ok : Bool) :
    Fits.Statement (.bridgeRetrain b dir ok) := Fits.of_none rfl

theorem Fits.tickAdvance : Fits.Statement (.tickAdvance) := Fits.of_none rfl

theorem Fits.timeSend : Fits.Statement (.timeSend) := Fits.of_none rfl

theorem Fits.time (k : Nat) : Fits.Statement (.time k) := Fits.of_none rfl

theorem Fits.delayExchangeTimer (p : Fin 16) : Fits.Statement (.delayExchangeTimer p) := Fits.of_none rfl

theorem Fits.delayReq (k : Nat) : Fits.Statement (.delayReq k) := Fits.of_none rfl

theorem Fits.delayResp (k : Nat) : Fits.Statement (.delayResp k) := Fits.of_none rfl

theorem Fits.parentTimeout : Fits.Statement (.parentTimeout) := Fits.of_none rfl

theorem Fits.tsync : Fits.Statement (.tsync) := Fits.of_none rfl

theorem Fits.slanes (x : Site) (sel : BitVec 1) (midx : BitVec 10) (lane : BitVec 5) (dline : BitVec 14) :
    Fits.Statement (.slanes x sel midx lane dline) :=
  Fits.of_some rfl (by
    have := sel.isLt
    have := midx.isLt
    have := lane.isLt
    have := dline.isLt
    simp only [Slot.width]; omega) rfl

theorem Fits.semit (x : Site) (src : BitVec 14) (nl : BitVec 11) (pace : BitVec 6) :
    Fits.Statement (.semit x src nl pace) :=
  Fits.of_some rfl (by
    have := src.isLt
    have := nl.isLt
    have := pace.isLt
    simp only [Slot.width]; omega) rfl

theorem Fits.sstop (x : Site) (midx : BitVec 10) (lane : BitVec 5) (code : BitVec 8) :
    Fits.Statement (.sstop x midx lane code) :=
  Fits.of_some rfl (by
    have := midx.isLt
    have := lane.isLt
    have := code.isLt
    simp only [Slot.width]; omega) rfl

theorem Fits.semitSlice (k : Nat) : Fits.Statement (.semitSlice k) := Fits.of_none rfl

theorem Fits.gauntletFeed (midx : BitVec 10) (lane : BitVec 5) (pidx : BitVec 4) :
    Fits.Statement (.gauntletFeed midx lane pidx) := Fits.of_none rfl

theorem Fits.promptFetch (slot : Fin 65536) : Fits.Statement (.promptFetch slot) := Fits.of_none rfl

theorem Fits.promptFetchRetry (slot : Fin 65536) : Fits.Statement (.promptFetchRetry slot) := Fits.of_none rfl

theorem Fits.parkWriteoutDone (slot : Fin 65536) : Fits.Statement (.parkWriteoutDone slot) := Fits.of_none rfl

theorem Fits.restoreReadinDone (slot : Fin 65536) : Fits.Statement (.restoreReadinDone slot) := Fits.of_none rfl

theorem Fits.parkExpiryCheck : Fits.Statement (.parkExpiryCheck) := Fits.of_none rfl

theorem Fits.completionEntryWrite (q : Fin 64) : Fits.Statement (.completionEntryWrite q) := Fits.of_none rfl

theorem Fits.eventRecordWrite : Fits.Statement (.eventRecordWrite) := Fits.of_none rfl

theorem Fits.msixSignalTimer (ring : Fin 65) : Fits.Statement (.msixSignalTimer ring) := Fits.of_none rfl

theorem Fits.hostMemoryAccessError (kind : Fin 7) (index : Fin 65536) :
    Fits.Statement (.hostMemoryAccessError kind index) := Fits.of_none rfl

theorem Fits.localArrival (g : Fin 8) : Fits.Statement (.localArrival g) := Fits.of_none rfl

theorem Fits.arrive (k : Nat) : Fits.Statement (.arrive k) := Fits.of_none rfl

theorem Fits.cut (k : Nat) : Fits.Statement (.cut k) := Fits.of_none rfl

theorem Fits.frequencyChange (g : Fin 8) : Fits.Statement (.frequencyChange g) := Fits.of_none rfl

theorem Fits.done (k : Nat) : Fits.Statement (.done k) := Fits.of_none rfl

theorem Fits.arm (k : Nat) : Fits.Statement (.arm k) := Fits.of_none rfl

theorem Fits.echoRelease (g die : Fin 8) : Fits.Statement (.echoRelease g die) := Fits.of_none rfl

theorem Fits.echoSlowTimer (g : Fin 8) : Fits.Statement (.echoSlowTimer g) := Fits.of_none rfl

theorem Fits.refMonitor (ok : Bool) : Fits.Statement (.refMonitor ok) := Fits.of_none rfl

theorem Fits.crossingDetect (die : Fin 8) (xing : BitVec 16) (move : Nat) :
    Fits.Statement (.crossingDetect die xing move) := Fits.of_none rfl

theorem Fits.marginSample (region : Fin 24) (slacks : List (BitVec 8)) :
    Fits.Statement (.marginSample region slacks) := Fits.of_none rfl

theorem Fits.pllLockTimeout (die : Fin 8) : Fits.Statement (.pllLockTimeout die) := Fits.of_none rfl

theorem Fits.freqApplyIdle : Fits.Statement (.freqApplyIdle) := Fits.of_none rfl

theorem Fits.powerMeasure (pA pB vA vB : BitVec 16) : Fits.Statement (.powerMeasure pA pB vA vB) := Fits.of_none rfl

theorem Fits.capWindow : Fits.Statement (.capWindow) := Fits.of_none rfl

theorem Fits.thermalSample (readings : List (Nat × Nat × BitVec 16)) :
    Fits.Statement (.thermalSample readings) := Fits.of_none rfl

theorem Fits.thermalEase : Fits.Statement (.thermalEase) := Fits.of_none rfl

theorem Fits.coolantCheck (inlet outlet flow : BitVec 16) :
    Fits.Statement (.coolantCheck inlet outlet flow) := Fits.of_none rfl

theorem Fits.regAlert (src : Fin 12) : Fits.Statement (.regAlert src) := Fits.of_none rfl

theorem Fits.alertEase : Fits.Statement (.alertEase) := Fits.of_none rfl

theorem Fits.marginEase : Fits.Statement (.marginEase) := Fits.of_none rfl

theorem Fits.lockClear : Fits.Statement (.lockClear) := Fits.of_none rfl

theorem Fits.throttleAnnounce (g : Fin 8) : Fits.Statement (.throttleAnnounce g) := Fits.of_none rfl

theorem Fits.throttle (k : Nat) : Fits.Statement (.throttle k) := Fits.of_none rfl

theorem Fits.jobfreq (k : Nat) : Fits.Statement (.jobfreq k) := Fits.of_none rfl

theorem Fits.storageGateDelay : Fits.Statement (.storageGateDelay) := Fits.of_none rfl

theorem Fits.pair (k : Nat) : Fits.Statement (.pair k) := Fits.of_none rfl

theorem Fits.pairExchangeTimeout : Fits.Statement (.pairExchangeTimeout) := Fits.of_none rfl

theorem Fits.entry (k : Nat) : Fits.Statement (.entry k) := Fits.of_none rfl

theorem Fits.frame (k : Nat) : Fits.Statement (.frame k) := Fits.of_none rfl

theorem Fits.pointEnd (k : Nat) : Fits.Statement (.pointEnd k) := Fits.of_none rfl

theorem Fits.pointInstall (g : Fin 8) : Fits.Statement (.pointInstall g) := Fits.of_none rfl

theorem Fits.notice (k : Nat) : Fits.Statement (.notice k) := Fits.of_none rfl

theorem Fits.forward (k : Nat) : Fits.Statement (.forward k) := Fits.of_none rfl

theorem Fits.forwardReplyTimeout (n : Nat) : Fits.Statement (.forwardReplyTimeout n) := Fits.of_none rfl

theorem Fits.heartbeatSend : Fits.Statement (.heartbeatSend) := Fits.of_none rfl

theorem Fits.heartbeat (k : Nat) : Fits.Statement (.heartbeat k) := Fits.of_none rfl

theorem Fits.heartbeatMissed : Fits.Statement (.heartbeatMissed) := Fits.of_none rfl

theorem Fits.depart (k : Nat) : Fits.Statement (.depart k) := Fits.of_none rfl

theorem Fits.fence (k : Nat) : Fits.Statement (.fence k) := Fits.of_none rfl

theorem Fits.guestRelease (k : Nat) : Fits.Statement (.guestRelease k) := Fits.of_none rfl

theorem Fits.imageReq (k : Nat) (io : Bool) : Fits.Statement (.imageReq k io) := Fits.of_none rfl

theorem Fits.imageChunk (k : Nat) : Fits.Statement (.imageChunk k) := Fits.of_none rfl

theorem Fits.imageEnd (k : Nat) : Fits.Statement (.imageEnd k) := Fits.of_none rfl

theorem Fits.twinImageTimeout : Fits.Statement (.twinImageTimeout) := Fits.of_none rfl

theorem Fits.identify (q : Fin 64) : Fits.Statement (.identify q) := Fits.of_none rfl

theorem Fits.getConfig (q : Fin 64) (io : Bool) : Fits.Statement (.getConfig q io) := Fits.of_none rfl

theorem Fits.loadImage (q : Fin 64) (io : Bool) : Fits.Statement (.loadImage q io) := Fits.of_none rfl

theorem Fits.unloadImage (q : Fin 64) : Fits.Statement (.unloadImage q) := Fits.of_none rfl

theorem Fits.mapGrid (q : Fin 64) : Fits.Statement (.mapGrid q) := Fits.of_none rfl

theorem Fits.run (q : Fin 64) : Fits.Statement (.run q) := Fits.of_none rfl

theorem Fits.stop (q : Fin 64) : Fits.Statement (.stop q) := Fits.of_none rfl

theorem Fits.armEcho (q : Fin 64) : Fits.Statement (.armEcho q) := Fits.of_none rfl

theorem Fits.submit (q : Fin 64) : Fits.Statement (.submit q) := Fits.of_none rfl

theorem Fits.cancel (q : Fin 64) : Fits.Statement (.cancel q) := Fits.of_none rfl

theorem Fits.park (q : Fin 64) : Fits.Statement (.park q) := Fits.of_none rfl

theorem Fits.restore (q : Fin 64) : Fits.Statement (.restore q) := Fits.of_none rfl

theorem Fits.queryRequest (q : Fin 64) (io : Bool) : Fits.Statement (.queryRequest q io) := Fits.of_none rfl

theorem Fits.setPower (q : Fin 64) : Fits.Statement (.setPower q) := Fits.of_none rfl

theorem Fits.setJobFreq (q : Fin 64) : Fits.Statement (.setJobFreq q) := Fits.of_none rfl

theorem Fits.pagePoolCfg (q : Fin 64) : Fits.Statement (.pagePoolCfg q) := Fits.of_none rfl

theorem Fits.prefixPin (q : Fin 64) : Fits.Statement (.prefixPin q) := Fits.of_none rfl

theorem Fits.fabricPlan (q : Fin 64) (io : Bool) : Fits.Statement (.fabricPlan q io) := Fits.of_none rfl

theorem Fits.fabricStatus (q : Fin 64) (io : Bool) : Fits.Statement (.fabricStatus q io) := Fits.of_none rfl

theorem Fits.epochSwitch (q : Fin 64) : Fits.Statement (.epochSwitch q) := Fits.of_none rfl

theorem Fits.twinCfg (q : Fin 64) : Fits.Statement (.twinCfg q) := Fits.of_none rfl

theorem Fits.adopt (q : Fin 64) : Fits.Statement (.adopt q) := Fits.of_none rfl

theorem Fits.readMem (q : Fin 64) (io : Bool) : Fits.Statement (.readMem q io) := Fits.of_none rfl

theorem Fits.writeMem (q : Fin 64) (io : Bool) : Fits.Statement (.writeMem q io) := Fits.of_none rfl

theorem Fits.getStats (q : Fin 64) (io : Bool) : Fits.Statement (.getStats q io) := Fits.of_none rfl

theorem Fits.clearStats (q : Fin 64) : Fits.Statement (.clearStats q) := Fits.of_none rfl

theorem Fits.retire (q : Fin 64) : Fits.Statement (.retire q) := Fits.of_none rfl

theorem Fits.unretire (q : Fin 64) : Fits.Statement (.unretire q) := Fits.of_none rfl

theorem Fits.fwUpdate (q : Fin 64) (io : Bool) : Fits.Statement (.fwUpdate q io) := Fits.of_none rfl

theorem Fits.inputPresent (b : Bool) (slot board : Fin 8) :
    Fits.Statement (.inputPresent b slot board) := Fits.of_none rfl

theorem Fits.inputLost (b : Bool) : Fits.Statement (.inputLost b) := Fits.of_none rfl

theorem Fits.pwrOkAssert (slot board : Fin 8) : Fits.Statement (.pwrOkAssert slot board) := Fits.of_none rfl

theorem Fits.pwrOkDeassert : Fits.Statement (.pwrOkDeassert) := Fits.of_none rfl

theorem Fits.perstAssert : Fits.Statement (.perstAssert) := Fits.of_none rfl

theorem Fits.perstDeassert (slot board : Fin 8) : Fits.Statement (.perstDeassert slot board) := Fits.of_none rfl

theorem Fits.resetAssert : Fits.Statement (.resetAssert) := Fits.of_none rfl

theorem Fits.resetDeassert (slot board : Fin 8) : Fits.Statement (.resetDeassert slot board) := Fits.of_none rfl

theorem Fits.functionLevelReset : Fits.Statement (.functionLevelReset) := Fits.of_none rfl

theorem Fits.hotReset : Fits.Statement (.hotReset) := Fits.of_none rfl

theorem Fits.fwBootTimeout : Fits.Statement (.fwBootTimeout) := Fits.of_none rfl

theorem Fits.staggerEnd : Fits.Statement (.staggerEnd) := Fits.of_none rfl

theorem Fits.selfTestDone (fails : List Nat) (dies : BitVec 8) :
    Fits.Statement (.selfTestDone fails dies) := Fits.of_none rfl

theorem Fits.trainingBound : Fits.Statement (.trainingBound) := Fits.of_none rfl

theorem Fits.identBound (io : Bool) : Fits.Statement (.identBound io) := Fits.of_none rfl

theorem Fits.neighbourId (k : Nat) (io : Bool) : Fits.Statement (.neighbourId k io) := Fits.of_none rfl

theorem Fits.noIdTimer (p : Fin 16) (io : Bool) : Fits.Statement (.noIdTimer p io) := Fits.of_none rfl

theorem Fits.tickAlignmentTimeout : Fits.Statement (.tickAlignmentTimeout) := Fits.of_none rfl

theorem Fits.standbyPowerUp (slot : Fin 8) : Fits.Statement (.standbyPowerUp slot) := Fits.of_none rfl

theorem Fits.identity (w : Option (BitVec 8)) (pec : Bool) : Fits.Statement (.identity w pec) := Fits.of_none rfl

theorem Fits.debugEn (w : Option (BitVec 8)) (pec : Bool) : Fits.Statement (.debugEn w pec) := Fits.of_none rfl

theorem Fits.smbStatus : Fits.Statement (.smbStatus) := Fits.of_none rfl

theorem Fits.smbTemp : Fits.Statement (.smbTemp) := Fits.of_none rfl

theorem Fits.smbPower : Fits.Statement (.smbPower) := Fits.of_none rfl

theorem Fits.smbCoolant : Fits.Statement (.smbCoolant) := Fits.of_none rfl

theorem Fits.lastoff : Fits.Statement (.lastoff) := Fits.of_none rfl

theorem Fits.serial : Fits.Statement (.serial) := Fits.of_none rfl

theorem Fits.tapReset : Fits.Statement (.tapReset) := Fits.of_none rfl

theorem Fits.extest (v : Nat) : Fits.Statement (.extest v) := Fits.of_none rfl

theorem Fits.idcode : Fits.Statement (.idcode) := Fits.of_none rfl

theorem Fits.samplePreload (v : Nat) : Fits.Statement (.samplePreload v) := Fits.of_none rfl

theorem Fits.bypass : Fits.Statement (.bypass) := Fits.of_none rfl

theorem Fits.jreg (v : BitVec 50) : Fits.Statement (.jreg v) := Fits.of_none rfl

theorem Fits.jaddr (v : BitVec 64) : Fits.Statement (.jaddr v) := Fits.of_none rfl

theorem Fits.jdata (v : BitVec 72) : Fits.Statement (.jdata v) := Fits.of_none rfl

theorem Fits.debugAccess : Fits.Statement (.debugAccess) := Fits.of_none rfl

theorem Fits.halt (scope : Fin 4) (die : Fin 8) (vtile : Fin 256) :
    Fits.Statement (.halt scope die vtile) := Fits.of_none rfl

theorem Fits.resume (scope : Fin 4) (die : Fin 8) (vtile : Fin 256) :
    Fits.Statement (.resume scope die vtile) := Fits.of_none rfl

theorem Fits.step (scope : Fin 4) (die : Fin 8) (vtile : Fin 256) :
    Fits.Statement (.step scope die vtile) := Fits.of_none rfl

theorem Fits.stepComplete (die : Fin 8) : Fits.Statement (.stepComplete die) := Fits.of_none rfl

theorem Fits.ceMode (p : Part) (data : BitVec 64) : Fits.Statement (.ceMode p data) := Fits.of_none rfl

theorem Fits.ceSqCfg (n : Fin 64) (p : Part) (data : BitVec 64) :
    Fits.Statement (.ceSqCfg n p data) := Fits.of_none rfl

theorem Fits.ceCqCfg (n : Fin 64) (p : Part) (data : BitVec 64) :
    Fits.Statement (.ceCqCfg n p data) := Fits.of_none rfl

theorem Fits.ceEvCfg (p : Part) (data : BitVec 64) : Fits.Statement (.ceEvCfg p data) := Fits.of_none rfl

theorem Fits.ceSqTail (n : Fin 64) (p : Part) (data : BitVec 64) :
    Fits.Statement (.ceSqTail n p data) := Fits.of_none rfl

theorem Fits.ceCqHead (n : Fin 64) (p : Part) (data : BitVec 64) :
    Fits.Statement (.ceCqHead n p data) := Fits.of_none rfl

theorem Fits.ceEvHead (p : Part) (data : BitVec 64) : Fits.Statement (.ceEvHead p data) := Fits.of_none rfl

theorem Fits.hcTblData (p : Part) (data : Option (BitVec 64)) : Fits.Statement (.hcTblData p data) := Fits.of_none rfl

theorem Fits.hcTblCommit (p : Part) (data : BitVec 64) : Fits.Statement (.hcTblCommit p data) := Fits.of_none rfl

theorem Fits.hcGtData (p : Part) (data : Option (BitVec 64)) : Fits.Statement (.hcGtData p data) := Fits.of_none rfl

theorem Fits.hcGtCommit (p : Part) (data : BitVec 64) : Fits.Statement (.hcGtCommit p data) := Fits.of_none rfl

theorem Fits.fbStageData (p : Part) (data : Option (BitVec 64)) :
    Fits.Statement (.fbStageData p data) := Fits.of_none rfl

theorem Fits.tmTickLo : Fits.Statement (.tmTickLo) := Fits.of_none rfl

theorem Fits.registerHalfRead (word : Fin 131072) (p : Part) :
    Fits.Statement (.registerHalfRead word p) := Fits.of_none rfl

theorem Fits.ckMarginMin (m : Fin 3) (p : Part) : Fits.Statement (.ckMarginMin m p) := Fits.of_none rfl

theorem Fits.ckRegionMode (p : Part) (data : BitVec 64) : Fits.Statement (.ckRegionMode p data) := Fits.of_none rfl

theorem Fits.pwCeil (p : Part) (data : BitVec 64) : Fits.Statement (.pwCeil p data) := Fits.of_none rfl

theorem Fits.pwCap (p : Part) (data : BitVec 64) : Fits.Statement (.pwCap p data) := Fits.of_none rfl

theorem Fits.pwTherm (p : Part) (data : BitVec 64) : Fits.Statement (.pwTherm p data) := Fits.of_none rfl

theorem Fits.pwDieOff (p : Part) (data : BitVec 64) : Fits.Statement (.pwDieOff p data) := Fits.of_none rfl

theorem Fits.erLogSel (p : Part) (data : BitVec 64) : Fits.Statement (.erLogSel p data) := Fits.of_none rfl

theorem Fits.erLogData (w : Fin 4) (p : Part) : Fits.Statement (.erLogData w p) := Fits.of_none rfl

theorem Fits.registerWrite (word : Fin 131072) (p : Part) (data : BitVec 64) :
    Fits.Statement (.registerWrite word p data) := Fits.of_none rfl

end Sys2Proof.Laws
end

