-- ==== Sys2Proof/Laws/Vector.lean ====
section
/-! SUPPORT. All that the run of a VRUN can change while its rows go by. -/

namespace Sys2Proof.Machine

/-- What a VRUN of tile `k` may change: scratchpad bytes, the tile's fault marks, watchpoints and quantisation points,
its die's stop, error records and events. -/
def Runs (k : Nat) (s t : State) : Prop :=
  (∃ er ev a b c d sp se tiles dies, t = { s with
    er := er
    ce := { s.ce with ev := ev }
    tiles := tiles
    dies := dies
    mem := { s.mem with spad := sp, spadErr := se, spadCe := a, cavCe := b, lastCe := c, rewrite := d } }) ∧
  (∃ f c w h q, t.tile k = { s.tile k with faultNow := f, faults := c, wp := w, wphit := h, qp := q }) ∧
  (∀ j, j ≠ k → t.tile j = s.tile j) ∧
  (DieNotes (s.die (k / 256)) (t.die (k / 256)) ∧ ∀ d, d ≠ k / 256 → t.die d = s.die d) ∧
  (Memory.wf s.mem.spad = true → Memory.wf t.mem.spad = true)

theorem Runs.trans {k : Nat} {s t u : State} (a : Runs k s t) (b : Runs k t u) : Runs k s u := by
  obtain ⟨⟨_, _, _, _, _, _, _, _, _, _, h⟩, ⟨_, _, _, _, _, a2⟩, a3, ⟨a4, a5⟩, a7⟩ := a
  obtain ⟨⟨_, _, _, _, _, _, _, _, _, _, h'⟩, ⟨_, _, _, _, _, b2⟩, b3, ⟨b4, b5⟩, b7⟩ := b
  refine ⟨?_, ⟨_, _, _, _, _, by rw [b2, a2]⟩, fun j n => (b3 j n).trans (a3 j n),
    ⟨a4.trans b4, fun d n => (b5 d n).trans (a5 d n)⟩, fun w => b7 (a7 w)⟩
  rw [h', h]
  exact ⟨_, _, _, _, _, _, _, _, _, _, rfl⟩

theorem Stores.runs {k : Nat} {K : Nat → Prop} {s t : State} (a : Stores k K s t) : Runs k s t :=
  ⟨a.1, ⟨_, _, _, _, (s.tile k).qp, a.2.1.1⟩, a.2.1.2, a.2.2.1, a.2.2.2.2⟩

theorem Marks.runs {k : Nat} {s t : State} (a : Marks k s t) : Runs k s t := (a.stores (fun _ => False)).runs

theorem Runs.refl (k : Nat) (s : State) : Runs k s s := (Marks.refl k s).runs

theorem countQ_runs (s : State) (k p n c : Nat) : Runs k s (countQ s k p n c) := by
  refine ⟨⟨s.er, s.ce.ev, s.mem.spadCe, s.mem.cavCe, s.mem.lastCe, s.mem.rewrite, s.mem.spad, s.mem.spadErr, _, s.dies, rfl⟩,
    ⟨(s.tile k).faultNow, (s.tile k).faults, (s.tile k).wp, (s.tile k).wphit, _, by simp [countQ]; rfl⟩, ?_,
    ⟨rfl, fun _ _ => rfl⟩, id⟩
  intro j n
  simp [countQ, State.tile_modTile, n]

/-- A state that is chosen by a condition satisfies what both choices satisfy. -/
theorem Runs.ite {k : Nat} {s a b : State} (c : Prop) [Decidable c] (ha : Runs k s a) (hb : Runs k s b) :
    Runs k s (if c then a else b) := by
  split
  · exact ha
  · exact hb

theorem faultAt_runs (s : State) (k b : Nat) (l : Slot) (c : Cause) (ga : Nat) : Runs k s (faultAt s k b l c ga) :=
  (faultAt_marks _ _ _ _ _ _).runs

theorem jobWrite_runs (s : State) (k : Nat) (j : Job) (lost : List Nat) (o : Nat) (bs : List Byte) (p : Bool) :
    Runs k s (jobWrite s k j lost o bs p) := (jobWrite_any _ _ _ _ _ _ _).runs

/-- A fold whose every pass runs. -/
theorem Runs.fold {β : Type} (k : Nat) (f : State → β → State) (h : ∀ s b, Runs k s (f s b)) (l : List β) (s : State) :
    Runs k s (l.foldl f s) := foldl_keeps (Runs k) (Runs.refl k) (fun _ _ _ => Runs.trans) f h l s

theorem putVec_runs (w : RunJob) (s : State) (k : Nat) (j : Job) (lost : List Nat) (i : Nat) (pair : F32 × Int)
    (els : List (F32 × Bool)) (old : List F32) (n : w.txn = none) : Runs k s (w.putVec s k j lost i pair els old) := by
  unfold RunJob.putVec
  refine Runs.ite _ (Runs.refl _ _) (Runs.ite _ (faultAt_runs _ _ _ _ _ _) ?_)
  simp only [n]
  exact Runs.fold k _ (fun _ _ => jobWrite_runs _ _ _ _ _ _ _) _ _

theorem rowOut_runs (w : RunJob) (s : State) (k : Nat) (j : Job) (lost : List Nat) (v : VRow) :
    Runs k s (w.rowOut s k j lost v) := by
  unfold RunJob.rowOut
  dsimp only
  refine Runs.trans ?_ (countQ_runs _ _ _ _ _)
  have first : Runs k s (if !w.c.owr then s else if w.c.o.rowAddr v.r % 32 ≠ 0 then faultAt s k j.bundle j.slot .address
      else
        let t := jobWrite s k j lost (w.c.o.rowAddr v.r)
          (leBytes 4 (v.pair.getD (w.c.fs, w.c.fz)).1.toNat ++ leBytes 1 (unsignedOf 8 (v.pair.getD (w.c.fs, w.c.fz)).2))
        if w.c.o.fmt = 1 then jobWrite t k j lost (w.c.splitOff v.r) (leBytes 1 (unsignedOf 8 (v.pair.getD (w.c.fs, w.c.fz)).2))
        else t) := by
    refine Runs.ite _ (Runs.refl _ _) (Runs.ite _ (faultAt_runs _ _ _ _ _ _) ?_)
    exact Runs.ite _ ((jobWrite_runs _ _ _ _ _ _ _).trans (jobWrite_runs _ _ _ _ _ _ _)) (jobWrite_runs _ _ _ _ _ _ _)
  split
  · exact first.trans (jobWrite_runs _ _ _ _ _ _ _)
  · exact first

theorem redOut_runs (w : RunJob) (s : State) (k : Nat) (j : Job) (lost : List Nat) (p : Nat × BitVec 32) :
    Runs k s (w.redOut s k j lost p) := by
  unfold RunJob.redOut
  exact Runs.ite _ (faultAt_runs _ _ _ _ _ _) (jobWrite_runs _ _ _ _ _ _ _)

theorem partOut_runs (w : RunJob) (s : State) (k : Nat) (j : Job) (lost : List Nat) (dt : Nat) (n : w.txn = none) :
    Runs k s (w.partOut s k j lost dt) := by
  unfold RunJob.partOut
  dsimp only
  have h := Runs.fold k (fun s c => w.putVec s k j lost c (Fp.one, 0)
    (((w.out.drop (32 * c)).take 32).map (fun x => (x, false))) []) (fun _ _ => putVec_runs _ _ _ _ _ _ _ _ _ n)
    (w.partNow s.tp2 dt) s
  refine Runs.ite _ (h.trans ?_) h
  exact Runs.ite _ (faultAt_runs _ _ _ _ _ _) (jobWrite_runs _ _ _ _ _ _ _)

theorem dWrite_runs (w : RunJob) (s : State) (k : Nat) (j : Job) (lost : List Nat) (e : VEls) (n : w.txn = none) :
    Runs k s (w.dWrite s k j lost e).1 ∧ (w.dWrite s k j lost e).2.txn = none := by
  refine ⟨?_, by simpa [RunJob.dWrite] using n⟩
  unfold RunJob.dWrite
  dsimp only
  exact Runs.ite _ (putVec_runs _ _ _ _ _ _ _ _ _ (by simpa using n)) (Runs.refl _ _)

/-- What a VRUN that is no ATOMADD may change at the end of a cyc. -/
theorem runWrite_runs (s : State) (k : Nat) (j : Job) (w : RunJob) (c : Nat) (lost : List Nat) (n : w.txn = none) :
    Runs k s (RunJob.write s k j w c lost).1 := by
  unfold RunJob.write
  dsimp only
  generalize hz : List.foldl _ _ (w.writeNow s.tp2 (c - j.t0)) = z
  have hq : Runs k s z.1 ∧ z.2.txn = none := by
    rw [← hz]
    have key : ∀ (l : List VEls) (a : State × RunJob), Runs k s a.1 → a.2.txn = none →
        Runs k s (l.foldl (fun (a : State × RunJob) e => a.2.dWrite a.1 k j lost e) a).1 ∧
        (l.foldl (fun (a : State × RunJob) e => a.2.dWrite a.1 k j lost e) a).2.txn = none := by
      intro l
      induction l with
      | nil => exact fun a h m => ⟨h, m⟩
      | cons e l ih =>
        intro a h m
        have d := dWrite_runs a.2 a.1 k j lost e m
        exact ih _ (h.trans d.1) d.2
    exact key _ (s, w) (Runs.refl _ _) n
  have one := Runs.fold k (fun s v => z.2.rowOut s k j lost v) (fun _ _ => rowOut_runs _ _ _ _ _ _)
  have two := Runs.fold k (fun s p => z.2.redOut s k j lost p) (fun _ _ => redOut_runs _ _ _ _ _ _)
  split
  · rename_i h
    rw [hq.2] at h
    cases h
  · exact hq.1.trans ((one _ _).trans ((two _ _).trans (partOut_runs _ _ _ _ _ _ hq.2)))

end Sys2Proof.Machine
end

