-- ==== Sys2Proof/Tests/Slice0.lean ====
section
/-! SUPPORT. Tests: ill-formed commands, slot words of the encoding tables, one-step tests, and for every statement with
hypotheses a theorem that shows states and operands which meet them (`witness_…`, one conjunct or group of conjuncts for each
clause). -/

namespace Sys2Proof.Tests

-- The kernel's checks go one after another: in parallel each would hold a thread that waits for the ones before it.
set_option Elab.async false

open Sys2Proof Sys2Proof.Machine

/-! ### Small states -/

/-- Tile (0, 0) of die 0. -/
def x0 : Site := ⟨0, 0⟩

/-- An image of one standard die: code in the first page of tile (0, 0), its banks and the die's first sub-array on. -/
def img0 : Image :=
  { loaded := true, grid := [(0, 2)], codeBase := [(0, 1)], codeLen := [(0, 1)], banks := [(0, 0xFFFF), (1, 0xFFFF)]
    subs := [(0, 1)] }

/-- A module that is on, with its buses up, and one image. -/
def on0 : State :=
  { img := img0, pw := { off := false, pA := true }, boot := { pcie := true, standby := true, started := true, phase := 7, pwrOk := true }
    ce := { state := .loaded, ev := { opened := true } } }

/-- The same with one tile record. -/
def one (t : Tile) : State := { on0 with tiles := [(0, t)] }

/-- A tile that issues. -/
def t0 : Tile := { seq := .issuing }

/-- The field of a next state. -/
def got {α : Type} (i : Instr) (s : State) (f : State → α) : Option α :=
  match exec i s with
  | .next t => some (f t)
  | _ => none

/-- The table, or the memory from an address on, that holds the listed bytes. -/
def bytesAt (a : Nat) (l : List Byte) : List (Nat × Byte) := (l.mapIdx fun i b => (a + i, b)).filter fun e => e.2 != 0

/-- A packet of a type and kind that ends here. -/
def pk (type kind : Nat) : Packet := { path := 0x1E, dst := 0, vc := if type = 0x0E then 3 else 1, type := type, len := 16, aux := kind, data := List.replicate 16 0 }
def at1 (p : Packet) : AtRouter := { pkt := p, port := some 3, at_ := 0, node := 8 }

/-- A module with port 3 in service, a plan whose leader it is, and one more module present. -/
def sfab (f : Fab → Fab) : State :=
  { on0 with fab := f { ports := [(3, { svc := .up, lanes := 4 })], plan := { have_ := true, leader := 0, present := [0, 5] } } }

/-- The field of the state once the job that a command leaves at tile (0, 0) has run by itself. -/
def ran {α : Type} (i : Instr) (s : State) (f : State → α) : Option α :=
  got i s fun t => f ((t.tile 0).jobs.foldl (fun u j => j.run 0 u) t)

/-- Every bank of a tile whose mask sets all 16 is on. -/
theorem banks_on {s : State} {k : Nat} (h : tget 0 s.img.banks k = 0xFFFF) (p : s.pw.spadOff = false) (o : Nat) :
    s.bankOn k o = true := by
  have all : ∀ i, i < 16 → bit 0xFFFF i = true := by decide
  simp only [State.bankOn, h, p, Bool.not_false, Bool.true_and]
  exact all _ (by omega)

/-! ### Ill-formed commands: one for each check -/

theorem test_wf_tile : (Instr.cnop ⟨0, 240⟩).wf = false := by decide
theorem test_wf_dset_sel : (Instr.dset x0 0 5 0).wf = false := by decide
theorem test_wf_dset_high_bits :
    (Instr.dset x0 0 1 0x10000).wf = false ∧ (Instr.dset x0 0 2 0x1000000).wf = false ∧ (Instr.dset x0 0 3 64).wf = false := by
  decide
theorem test_wf_dreg : (Instr.dreg x0 0 3 0 0).wf = false ∧ (Instr.dreg x0 0 1 1 0).wf = false := by decide
theorem test_wf_pace :
    (Instr.dmov x0 0 0 0 0 0 0 33).wf = false ∧ (Instr.dmovx x0 0 0 0 0 0 0 33 0).wf = false := by decide
theorem test_wf_dgath :
    (Instr.dgath x0 3 0 0 0 0 0 0 0 0 0 0).wf = false ∧ (Instr.dgath x0 2 1 0 0 0 0 0 0 0 0 0).wf = false ∧
      (Instr.dgath x0 0 0 0 0 0 0 33 0 0 0 0).wf = false := by decide
theorem test_wf_sends :
    (Instr.nsend x0 0 0 1 16 0 0).wf = false ∧ (Instr.nmcast x0 0 0 1 16 0 0).wf = false ∧
      (Instr.nred x0 0 0 1 16 0 0).wf = false ∧ (Instr.nrecv x0 0 1 16 0 0).wf = false := by decide
theorem test_wf_gate : (Instr.ngate x0 0 1 1).wf = false := by decide
theorem test_wf_serving : (Instr.slanes x0 0 0 1 0).wf = false ∧ (Instr.semit x0 0 0 17).wf = false := by decide
theorem test_wf_mload :
    (Instr.mload x0 3 0 0 0 0 0 0 0).wf = false ∧ (Instr.mload x0 2 1 0 0 0 0 0 1).wf = false ∧
      (Instr.mload x0 1 0 1 0 0 0 0 0).wf = false ∧ (Instr.mload x0 0 0 0 1 0 0 0 0).wf = false ∧
      (Instr.mload x0 0 0 0 0 1 16 0 0).wf = false ∧ (Instr.mload x0 0 0 0 0 0 0 1 0).wf = false ∧
      (Instr.mload x0 2 0 0 0 0 0 0 0).wf = false ∧ (Instr.mload x0 0 0 0 0 0 0 0 1).wf = false := by decide
theorem test_wf_mstream : (Instr.mstream x0 0 0 1 0 16).wf = false := by decide
theorem test_wf_mdrain :
    (Instr.mdrain x0 0 3 0 0 0 0 0).wf = false ∧ (Instr.mdrain x0 0 0 0 0 0 1 0).wf = false ∧
      (Instr.mdrain x0 0 0 0 0 0 0 1).wf = false := by decide
theorem test_wf_lanes :
    (Instr.portTrained 0 3).wf = false ∧ (Instr.portRetrain 0 3).wf = false ∧ (Instr.portTrainRetry 0 3).wf = false ∧
      (Instr.osfpInsert true 3).wf = false := by decide
theorem test_wf_symbols :
    (Instr.bridgeFrame 0 0 0 []).wf = false ∧ (Instr.bridgeReplayTimer 0 0 []).wf = false := by decide
theorem test_wf_sensors :
    (Instr.marginSample 0 []).wf = false ∧ (Instr.crossingDetect 0 0 65).wf = false ∧
      (Instr.thermalSample [(0, 100, 0)]).wf = false ∧ (Instr.regAlert 0).wf = false := by decide
theorem test_wf_ranges :
    (Instr.transactionTimeout 65536).wf = false ∧ (Instr.handshakeTimeout 1024).wf = false ∧
      (Instr.selfTestDone [0xFFFFFFFF] 0).wf = false := by decide
theorem test_wf_part :
    (Instr.pwCeil (.bytes 1 true) 0).wf = false ∧ (Instr.registerHalfRead 0 (.bytes 3 true)).wf = false ∧
      (Instr.hcTblData (.bytes 5 true) none).wf = false := by decide
theorem test_wf_good : (Instr.dmov x0 1 2 3 4 1 1 32).wf = true ∧ (Instr.portTrained 0 4).wf = true := by decide

/-! ### Slot words, written out from the encoding tables -/

/-- Tables 4-9, 4-10: CSET CNT 3, IMM 0x12345; CLOOP CNT 15, TGT 0x1FFE; SKIPIDLE MIDX 1023, TGT 2. -/
theorem test_words_ct :
    decodeSlot x0 .ct 0x09812345 = some (.cset x0 3 0x12345) ∧ decodeSlot x0 .ct 0x1F801FFE = some (.cloop x0 15 0x1FFE) ∧
      decodeSlot x0 .ct 0x2FFE0002 = some (.skipidle x0 1023 2) ∧ decodeSlot x0 .ct 0x2000FFFF = some (.cwait x0 0xFFFF) ∧
      decodeSlot x0 .ct 0x40000000 = none := by decide

/-- Tables 3-8 to 3-13: opcode in [63:59]. DSET MD 31, SEL 4, IMM 7; DREG R 1, ROP 0, BASE 3, SIZE 5; DMOV SRC 1, DST 2, ROWLEN 3,
ROWS 4, SINC 1, DINC 0, PACE 32. -/
theorem test_words_mv :
    decodeSlot x0 .mv 0x0FE0000000000007 = some (.dset x0 31 4 7) ∧
      decodeSlot x0 .mv (2 * 2 ^ 59 + 1 * 2 ^ 55 + 3 * 2 ^ 39 + 5 * 2 ^ 25) = some (.dreg x0 1 0 3 5) ∧
      decodeSlot x0 .mv (3 * 2 ^ 59 + 1 * 2 ^ 54 + 2 * 2 ^ 49 + 3 * 2 ^ 38 + 4 * 2 ^ 26 + 2 ^ 25 + 32 * 2 ^ 18) =
        some (.dmov x0 1 2 3 4 1 0 32) ∧ decodeSlot x0 .mv (7 * 2 ^ 59) = none := by decide

/-- Tables 11-5 to 11-7 and 9-7: NSEND RD 1, CH 2, REN 0, SRC 6, NL 8, SCNT 5; NGATE CNT 31, VAL 1, TIMEOUT 0xFFFFFF; SSTOP. -/
theorem test_words_nx :
    decodeSlot x0 .nx 0x08A000C020A0 = some (.nsend x0 1 2 0 6 8 5) ∧
      decodeSlot x0 .nx 0x1FC001FFFFFF = some (.ngate x0 31 1 0xFFFFFF) ∧
      decodeSlot x0 .nx (26 * 2 ^ 43 + 5 * 2 ^ 33 + 6 * 2 ^ 28 + 7 * 2 ^ 20) = some (.sstop x0 5 6 7) ∧
      decodeSlot x0 .nx (6 * 2 ^ 43) = none := by decide

/-- Tables 5-6 to 5-11: MSWAP; MCLR BANKS 3; MSTREAM ABANK 1, ACC 1, REN 0, ROWS 32, SRC 1. -/
theorem test_words_mx :
    decodeSlot x0 .mx 0x200000000000 = some (.mswap x0) ∧ decodeSlot x0 .mx 0x6C0000000000 = some (.mclr x0 3) ∧
      decodeSlot x0 .mx 0x3C0004000080 = some (.mstream x0 1 1 0 32 1) ∧ decodeSlot x0 .mx 0x800000000000 = none := by decide

/-- Tables 7-11 to 7-13: VCFG CFG 15, SRC 1; VRUN CFG 1, ROWS 2; VLUT SEG0 1, NSEG 16, SRC 0. -/
theorem test_words_vx :
    decodeSlot x0 .vx 0x1F00040000000000 = some (.vcfg x0 15 1) ∧ decodeSlot x0 .vx 0x2100400000000000 = some (.vrun x0 1 2 0 0 0 0) ∧
      decodeSlot x0 .vx 0x3180000000000000 = some (.vlut x0 1 16 0) ∧ decodeSlot x0 .vx 0x4000000000000000 = none := by decide

/-- A reserved bit of a slot word is refused by the loader (R16). -/
theorem test_reserved_bit : slotLegal .ct 0x00000001 = false ∧ slotLegal .ct 0x09812345 = true := by decide

/-! ### Control slot -/

theorem witness_ControlTransfersAreTaken :
    (one t0).canIssue x0 .ct = true ∧ ((one t0).tile 0).inDelay = false ∧ ((one t0).tile 0).pc % 2 = 0 ∧
      (one t0).badTarget 0 126 = false ∧ (one t0).badTarget 0 127 = true ∧ (one t0).badTarget 0 128 = true := by decide

theorem witness_SequencerGoesOn :
    (one t0).canIssue x0 .ct = true ∧ ((one t0).tile 0).inDelay = false ∧ (one t0).badTarget 0 0 = false ∧
      ({ t0 with pend := .branch 2 } : Tile).faultNow = false ∧ t0.pend = .none ∧ t0.branchTo = none ∧
      (one { t0 with seq := .waiting 0 }).bound 0 0 = true ∧ ((one t0).die 0).runs = true ∧
      ((one { t0 with seq := .waiting 0 }).tile 0).seq = .waiting 0 ∧ (((one t0).die 0).cyc - ((one t0).tile 0).origin) % 2 = 0 ∧
      ((one { t0 with fetch := true }).tile 0).fetch = true ∧
      ((one { t0 with fetch := true }).tile 0).fetchIndex / 2 * 2 < (one { t0 with fetch := true }).bundles 0 ∧
      (checkSp (one { t0 with fetch := true }) 0 [(64, 64)]).2 = false ∧
      ({ t0 with nextLine := some (2, []) } : Tile).nextLine ≠ none := by decide

theorem witness_InstructionsOutOfPlace :
    (one { t0 with branchTo := some 4 }).canIssue x0 .ct = true ∧ ((one { t0 with branchTo := some 4 }).tile 0).inDelay = true ∧
      ((one { t0 with pc := 1 }).tile 0).pc % 2 = 1 ∧ (one t0).badTarget 0 1 = true ∧
      (Instr.cset x0 0 0).site? = some x0 ∧ (one {}).canIssue x0 .ct = false := by decide

/-- R134, R135: CLOOP with counter 1 falls through and leaves 0; with 2 it goes round again. -/
theorem test_cloop :
    got (.cloop x0 3 4) (one { t0 with ctr := [(3, 1)] }) (fun t => ((t.tile 0).ctr, (t.tile 0).pend)) = some ([], .none) ∧
      got (.cloop x0 3 4) (one { t0 with ctr := [(3, 2)] }) (fun t => ((t.tile 0).ctr, (t.tile 0).pend)) =
        some ([(3, 1)], .branch 4) := by decide

/-- R136: CWAIT N waits for N bundle pairs, and its bundle counts as issued. -/
theorem test_cwait : got (.cwait x0 5) (one t0) (fun t => (t.tile 0).pend) = some (.wait 5) := by decide

/-- R137: SKIPIDLE follows the idle mask of its die. -/
theorem test_skipidle :
    got (.skipidle x0 9 2) { one t0 with dies := [(0, { idle := 2 ^ 9 })] } (fun t => (t.tile 0).pend) = some (.branch 2) ∧
      got (.skipidle x0 8 2) { one t0 with dies := [(0, { idle := 2 ^ 9 })] } (fun t => (t.tile 0).pend) = some .none := by decide

/-- R139: after CEND the tile has ended. -/
theorem test_cend : got (.cend x0) (one t0) (fun t => (t.tile 0).endBundle.seq) = some .ended := by decide

/-- R104: a control transfer in an odd bundle faults with FETCH, and the die stops at the end of the cyc. -/
theorem test_odd_transfer :
    got (.cjmp x0 2) (one { t0 with pc := 1 }) (fun t => ((t.tile 0).faults.map (·.cause), (t.die 0).stop.atEnd)) =
      some ([.fetch], true) := by decide

/-! ### Data movement -/

/-- A tile with descriptors 1 (own scratchpad at 0x2000) and 2 (own scratchpad at 0x3000), 3 (Cavern of the die at 0x100),
4 (Cavern of die 1), 5 (region 2), each with a stride of one word. -/
def tmd : Tile :=
  { t0 with
    md := [(1, { addr := 0x2000, stride := 1 }), (2, { addr := 0x3000, stride := 1 }), (3, { addr := 0x10000000100, stride := 1 }),
      (4, { addr := 0x50000000100, stride := 1 }), (5, { addr := 0, stride := 1, rctl := 0x22 })]
    regions := [(2, { en := true, base := 0x4000, size := 0x1000 })] }

/-- It holds 8 bytes at 0x2000. -/
def smd : State := { one tmd with mem := { spad := (leBytes 8 0x1122334455667788).mapIdx (fun i b => (0x2000 + i, b)) } }

theorem witness_DsetWritesOneField :
    (one t0).canIssue x0 .mv = true ∧ (4 : BitVec 3).toNat ≤ 4 ∧ 4 < (5 : BitVec 3).toNat := by decide

theorem witness_DregSetsOneRegion :
    (one t0).canIssue x0 .mv = true ∧ (16383 : BitVec 14).toNat + (1 : BitVec 14).toNat ≤ 16384 ∧
      16384 < (16383 : BitVec 14).toNat + (2 : BitVec 14).toNat := by decide

/-- Scratchpad to Cavern, and region pushes: both meet the conditions of a DMOV; a state in which the first one's job runs. -/
theorem witness_DmovCopiesWords :
    smd.canIssue x0 .mv = true ∧
      DmovFree smd 0 (tget {} (smd.tile 0).md 1) (tget {} (smd.tile 0).md 3) 2 1 ∧
      DmovFree smd 0 (tget {} (smd.tile 0).md 1) (tget {} (smd.tile 0).md 5) 1 1 ∧
      Calm 0 smd ∧ (∀ o, smd.bankOn 0 o = true) ∧ paceOf 16 false ≤ 16 ∧ (smd.die 0).beats = [] ∧ smd.mem.cavErr = [] ∧
      MvApart smd 0 (endOf smd 0 (tget {} (smd.tile 0).md 1) false 2 1) (endOf smd 0 (tget {} (smd.tile 0).md 3) true 2 1) ∧
      MvApart smd 0 (endOf smd 0 (tget {} (smd.tile 0).md 1) false 1 1) (endOf smd 0 (tget {} (smd.tile 0).md 5) true 1 1) :=
  ⟨by decide, ⟨by decide, by decide, by decide, by decide, by decide, by decide, by decide, by decide, by decide, by decide⟩,
    ⟨by decide, by decide, by decide, by decide, by decide, by decide, by decide, by decide, by decide, by decide⟩,
    ⟨rfl, rfl⟩, banks_on (by decide) (by decide), by decide, by decide, by decide,
    ⟨by decide, by decide, by decide, by decide, by decide⟩, ⟨by decide, by decide, by decide, by decide, by decide⟩⟩

/-- One block of halfwords between rows of 32 B apart. -/
theorem witness_DtrnTransposes :
    let s := one { t0 with md := [(1, { addr := 0x2000, stride := 4 }), (2, { addr := 0x3000, stride := 4 })] }
    let w := trnJob (tget {} (s.tile 0).md 1) (tget {} (s.tile 0).md 2) 16 1
    s.canIssue x0 .mv = true ∧ DtrnFree s 0 (tget {} (s.tile 0).md 1) (tget {} (s.tile 0).md 2) w ∧ Calm 0 s ∧
      (∀ o, s.bankOn 0 o = true) ∧ w.Apart s 0 := by
  intro s w
  have hw : w = { src := 0x2000, dst := 0x3000, srcS := 32, dstS := 32, m := 16, blocks := 1 } := by decide
  have hd : ∀ b r x, b < 1 → r < 16 → x < 32 → w.dstByte b r x = 0x3000 + 32 * r + x := by
    intro b r x hb hr hx
    obtain rfl : b = 0 := by omega
    have : w.dstOff 0 r = 0x3000 + 32 * r := by
      rw [hw]
      show ((((0x3000 : Nat) : Int) + ((16 * 0 + r : Nat) : Int) * 32) % ((2 ^ 20 : Nat) : Int)).toNat = _
      omega
    simp only [TrnJob.dstByte, this]; omega
  have hs : ∀ b r x, b < 1 → r < 16 → x < 32 → w.srcByte b r x = 0x2000 + 32 * r + x := by
    intro b r x hb hr hx
    obtain rfl : b = 0 := by omega
    have : w.srcOff 0 r = 0x2000 + 32 * r := by
      rw [hw]
      show ((((0x2000 + 32 * 0 : Nat) : Int) + (r : Int) * 32) % ((2 ^ 20 : Nat) : Int)).toNat = _
      omega
    simp only [TrnJob.srcByte, this]; omega
  have on : ∀ o, s.bankOn 0 o = true := banks_on (by decide) (by decide)
  refine ⟨by decide, ⟨by decide, by decide, by decide, by decide, by decide, by decide, by decide, fun _ _ _ _ p _ => on p.1⟩,
    ⟨rfl, rfl⟩, on, ⟨?_, ?_, ?_⟩⟩
  · intro b r x b' r' x' hb hr hx hb' hr' hx' h
    rw [hd b r x hb hr hx, hd b' r' x' hb' hr' hx'] at h
    have hb1 : b < 1 := hb
    have hb2 : b' < 1 := hb'
    omega
  · intro b r x b' r' x' hb hr hx hb' hr' hx' h
    have hr1 : r' < 16 := hr'
    rw [hd b r x hb hr hx, hs b' r' x' hb' hr' hx'] at h
    omega
  · intro b r x hb hr hx
    rw [hd b r x hb hr hx]
    have hr1 : r < 16 := hr
    have : s.codeRegion 0 = (0, 4096) := by decide
    simp only [State.inCode, this, decide_eq_false_iff_not]
    omega

theorem witness_DmovxStartsTransaction :
    let s : State := { smd with img := { img0 with subs := [(0, 1), (512, 1)] } }
    let u : Txn := { id := 0, from_ := .tile x0, node := 0, bundle := 0, beats := [], landCnt := none, ackCnt := 0, more := true }
    s.canIssue x0 .mv = true ∧
      DmovxFree s 0 (tget {} (s.tile 0).md 4) (tget {} (s.tile 0).md 1) 1 1 true ∧
      DmovxFree s 0 (tget {} (s.tile 0).md 1) (tget {} (s.tile 0).md 4) 1 1 false ∧
      Calm 0 s ∧ (∀ o, s.bankOn 0 o = true) ∧ ({ s with net := { txns := [u] } } : State).txn? 0 = some u ∧
      gaSlot (tget {} (s.tile 0).md 4).addr.toNat = s.id.slot :=
  ⟨by decide, ⟨by decide, by decide, by decide, by decide, by decide, by decide, by decide, by decide, by decide, by decide, by decide, by decide⟩,
    ⟨by decide, by decide, by decide, by decide, by decide, by decide, by decide, by decide, by decide, by decide, by decide, by decide⟩,
    ⟨rfl, rfl⟩, banks_on (by decide) (by decide), by decide, by decide⟩

/-- A write of 8 B to tile (0, 1) and one to Cavern, on their way; a read and a write whose answers return. -/
def beatW : Beat := { op := .write, ga := 0x100002000, loc := 0, len := 8, data := leBytes 8 7, poison := false, st := .out }
def sbeat (b : List Beat) : State :=
  { one { t0 with outst := 1 } with net := { txns := [{ id := 0, from_ := .tile x0, node := 0, bundle := 0, beats := b, landCnt := none, ackCnt := 0 }] } }

/-- The bridges of a route are down. -/
def broken (a b : Nat) : State := (dieRoute a b).foldl (fun s p => s.modBridge p.1 p.2 fun x => { x with down := true }) (sbeat [beatW])

theorem witness_BeatsLandAndReturn :
    (sbeat [beatW]).txn? 0 = some { id := 0, from_ := .tile x0, node := 0, bundle := 0, beats := [beatW], landCnt := none, ackCnt := 0 } ∧
      gaSlot beatW.ga = 0 ∧ gaSpace beatW.ga = 0 ∧ (sbeat [beatW]).bound 0 1 = true ∧ (sbeat [beatW]).bankOn 1 0x2000 = true ∧
      (sbeat [beatW]).inCode 1 0x2000 = false ∧ gaOff beatW.ga + 8 ≤ 2 ^ 20 ∧ (sbeat [beatW]).rangeTaken 1 0x2000 8 = false ∧
      (sbeat [beatW]).pathUp 0 1 = true ∧ (broken 0 1).pathUp 0 1 = false ∧
      ({ id := 0, from_ := .tile x0, node := 0, bundle := 0, beats := [beatW, beatW], landCnt := none, ackCnt := 0 } : Txn).waitsFor 0 beatW = false ∧
      ({ id := 0, from_ := .tile x0, node := 0, bundle := 0, beats := [beatW, beatW], landCnt := none, ackCnt := 0 } : Txn).waitsFor 1 beatW = true ∧
      gaSpace 0x10000000100 = 1 ∧ (sbeat []).subNamed 0 0x100 = true ∧ (sbeat []).subOn 0 0x100 = true ∧
      (spareBeat (sbeat []) 0 0x100 true).isSome = true ∧ (spareBeat (sbeat []) 0 0x100 false).isSome = true ∧
      spareBeat { sbeat [] with dies := [(0, { beats := [⟨0, 0, false, 0, false, false⟩] })] } 0 0x100 true = none ∧
      (checkCv (sbeat []) 0 [(0x100, 64)]).2 = false ∧ (sbeat []).bankOn 0 0x2000 = true ∧ (sbeat []).inCode 0 0x2000 = false ∧
      (checkSp (sbeat []) 1 [(0x2000, 64)]).2 = false ∧
      ({ sbeat [] with tiles := [(1, { fetch := true, seq := .issuing })],
                       img := { img0 with codeBase := [(1, 3)], codeLen := [(1, 2)] } } : State).rangeTaken 1 0x2000 8 = true := by
  decide

/-- Answers on their way back: of a read with a beat still open, and of the write that is the last. -/
theorem witness_BeatsLandAndReturn_answers :
    let r : Beat := { beatW with op := .read, loc := 0x2000, st := .back 0 }
    let u : Txn := { id := 0, from_ := .tile x0, node := 0, bundle := 0, beats := [{ beatW with st := .back 0 }], landCnt := none, ackCnt := 0 }
    (sbeat [r, r]).txn? 0 = some { u with beats := [r, r] } ∧ r.st ≠ .done ∧ (sbeat [r, r]).rangeTaken 0 r.loc 8 = false ∧
      (sbeat [r, r]).bankOn 0 r.loc = true ∧ (sbeat [r, r]).inCode 0 r.loc = false ∧ (sbeat [r, r]).farNode r.ga = 0 ∧
      (sbeat [r, r]).pathUp ((sbeat [r, r]).farNode 0x40000002000) 0 = true ∧
      (broken 1 0).pathUp (gaDie 0x40000002000) 0 = false ∧
      (sbeat u.beats).txn? 0 = some u ∧ u.more = false ∧ (∀ j y, j ≠ 0 → u.beats[j]? = some y → y.st = .done) ∧
      (sbeat u.beats).pathUp ((sbeat u.beats).farNode beatW.ga) 0 = true ∧ (sbeat u.beats).tooSoon x0 u = false := by
  refine ⟨by decide, by decide, by decide, by decide, by decide, by decide, by decide, by decide, by decide, by decide, ?_,
    by decide, by decide⟩
  intro j y n h
  cases j with
  | zero => exact absurd rfl n
  | succ j => simp at h

/-- R69: the beat lands at its tile. -/
theorem test_arrival_write :
    got (.arrivalWrite 0 0) (sbeat [beatW]) (fun t => (t.spByte 1 0x2000, (t.txn? 0).map (fun u => u.beats.map (·.st)))) =
      some (7, some [.back 0]) := by decide +kernel

/-- R98: the last acknowledgement ends the transaction. -/
theorem test_remote_response :
    got (.remoteResponse 0 0) (sbeat [{ beatW with st := .back 0 }]) (fun t => (t.net.txns, (t.tile 0).outst)) = some ([], 0) := by decide

theorem witness_PatrolReadsOn :
    let s (e : WordErr) : State := { on0 with mem := { cavErr := [(0, e)] } }
    (s .single).subOn 0 0 = true ∧ (s .single).cavErrAt 0 = some .single ∧ (s .double).cavErrAt 0 = some .double ∧
      (s .double).ce.ev.opened = true ∧ tget 0 (s .double).mem.patrol 0 = 0 := by decide

/-- R92, R94: SEL 4 adds a sign-extended immediate to the address. -/
theorem test_dset : got (.dset x0 1 4 0xFFFFFFF8) smd (fun t => (tget {} (t.tile 0).md 1).addr) = some 0x1FF8 := by decide

/-- R73: DREG at the last line with size 1 is legal, and size 2 faults with ADDRESS. -/
theorem test_dreg :
    ran (.dreg x0 2 0 16383 1) (one t0) (fun t => ((tget {} (t.tile 0).regions 2).base, (t.tile 0).faultNow)) = some (0xFFFC0, false) ∧
      ran (.dreg x0 2 0 16383 2) (one t0) (fun t => ((t.tile 0).regions, (t.tile 0).faults.map (·.cause))) = some ([], [.address]) := by decide

/-- R97: a DMOV to Cavern copies the word, and the source moves on by its stride. -/
theorem test_dmov :
    ran (.dmov x0 1 3 1 1 1 0 0) smd (fun t => (t.cvBytes 0 0x100 8, (tget {} (t.tile 0).md 1).addr)) =
      some (leBytes 8 0x1122334455667788, 0x2008) := by decide +kernel

/-- R82: a code or reserved space faults with ADDRESS and moves nothing. -/
theorem test_dmov_address :
    got (.dmov x0 1 2 1 1 0 0 0) (one { tmd with md := [(1, { addr := 0x20000000000 }), (2, { addr := 0x3000 })] })
      (fun t => ((t.tile 0).faults.map (·.cause), (t.tile 0).jobs)) = some ([.address], []) := by decide

/-- R98: a DMOVX to another die starts one transaction, and its beat names the far word. -/
theorem test_dmovx :
    ran (.dmovx x0 1 4 1 1 0 0 0 7) { smd with img := { img0 with subs := [(0, 1), (512, 1)] } }
      (fun t => (t.net.txns.map (fun u => (u.ackCnt, u.beats.map (·.ga))), (t.tile 0).outst)) =
      some ([(7, [0x50000000100])], 1) := by decide +kernel

/-- R99: DTRN with HW 1 moves the halfword of row 0, column 1 to row 1, column 0. -/
theorem test_dtrn :
    ran (.dtrn x0 1 2 1 1 0 0) { smd with tiles := [(0, { t0 with md := [(1, { addr := 0x2000, stride := 4 }), (2, { addr := 0x3000, stride := 4 })] })] }
      (fun t => (t.spNat 0 0x3000 2, t.spNat 0 0x3020 2)) = some (0x7788, 0x5566) := by decide +kernel

/-! ### Matrix engine -/

theorem witness_MloadFillsShadow :
    let s := one { t0 with regions := [(3, { en := true, base := 0x4000, size := 0x1000, fill := 0x1000 })] }
    s.canIssue x0 .mx = true ∧ s.busyRes 0 .mxLoad = false ∧ SrcReady s 0 false 0x80 (mloadLines 0 1 * 64) ∧
      SrcReady s 0 true 3 (mloadLines 1 1 * 64) ∧ SrcReady s 0 false 16383 (mloadLines 2 0 * 64) ∧ Calm 0 s ∧
      ∀ o, s.bankOn 0 o = true :=
  ⟨by decide, by decide, ⟨by decide, by decide, by decide⟩, ⟨by decide, by decide, by decide⟩,
    ⟨by decide, by decide, by decide⟩, ⟨rfl, rfl⟩, banks_on (by decide) (by decide)⟩

theorem witness_MatrixStateIsLoadedAndSwapped :
    (one t0).canIssue x0 .mx = true ∧ (one t0).busyRes 0 .mxRead = false ∧ (one t0).busyRes 0 .mxLoad = false ∧ Calm 0 (one t0) ∧
      ∀ o, (one t0).bankOn 0 o = true :=
  ⟨by decide, by decide, by decide, ⟨rfl, rfl⟩, banks_on (by decide) (by decide)⟩

theorem witness_MatrixPassesAccumulate :
    let s := one t0
    let a := one { t0 with mx := { active := { kind := true, vlast := 31 } } }
    s.canIssue x0 .mx = true ∧ s.busyRes 0 .mxEntry = false ∧ (s.tile 0).mx.active.kind = false ∧
      SrcReady s 0 false 0x80 (2 * 32) ∧ a.canIssue x0 .mx = true ∧ a.busyRes 0 .mxEntry = false ∧
      (a.tile 0).mx.active.kind = true ∧ (a.tile 0).mx.active.fmt = false ∧ srcReserved true 15 = false ∧
      Calm 0 s ∧ Calm 0 a ∧ (∀ o, s.bankOn 0 o = true) ∧ ∀ o, a.bankOn 0 o = true :=
  ⟨by decide, by decide, by decide, ⟨by decide, by decide, by decide⟩, by decide, by decide, by decide, by decide,
    by decide, ⟨rfl, rfl⟩, ⟨rfl, rfl⟩, banks_on (by decide) (by decide), banks_on (by decide) (by decide)⟩

/-- A gang of side 2 at the die's corner: tile (0, 0) is its reducer. -/
def gang2 : State := { one t0 with img := { img0 with g2 := [(0, 1)] } }

theorem witness_MdrainDelivers :
    (one t0).canIssue x0 .mx = true ∧ (one t0).busyRes 0 .mxRead = false ∧ Calm 0 (one t0) ∧ (∀ o, (one t0).bankOn 0 o = true) ∧
      (∀ i, i < 64 → ∀ y, y < 64 → (one t0).inCode 0 ((0x100 + i) % 16384 * 64 + y) = false) ∧
      gang2.canIssue x0 .mx = true ∧ gang2.busyRes 0 .gangLink = false ∧ (gang2.gang 0).1 ≠ 1 ∧
      (gang2.tile (gang2.reducer 0)).ftqOver = false ∧ (gang2.tile (gang2.reducer 0)).ftqReserved < 4 :=
  ⟨by decide, by decide, ⟨rfl, rfl⟩, banks_on (by decide) (by decide), by
    intro i hi y hy
    have : (one t0).codeRegion 0 = (0, 4096) := by decide
    simp only [State.inCode, this, decide_eq_false_iff_not]
    omega, by decide, by decide, by decide, by decide, by decide⟩

/-- R165: MSWAP exchanges the planes with their tags. -/
theorem test_mswap :
    ran (.mswap x0) (one { t0 with mx := { shadow := { kind := true, vlast := 5 } } })
      (fun t => ((t.tile 0).mx.active.vlast, (t.tile 0).mx.shadow.vlast)) = some (5, 0) := by decide

/-- R166: MCLR of bank 1 keeps bank 0. -/
theorem test_mclr :
    ran (.mclr x0 2) (one { t0 with mx := { acc := [(5, 7), (1029, 8)] } }) (fun t => (t.tile 0).mx.acc) = some [(5, 7)] := by decide

/-- R143, R162: row (2, 3, 0, …) times a column (5, −7, …) is 2·5 + 3·(−7) = −11, added to 100 under ACC. -/
theorem test_mstream :
    ran (.mstream x0 0 1 0 1 0x80)
      { one { t0 with mx := { active := { w := [(4, 5), (36, -7)] }, acc := [(4, 100)] } } with
        mem := { spad := bytesAt 0x2000 [2, 3] } } (fun t => tget 0 (t.tile 0).mx.acc 4) = some 89 := by decide +kernel

/-- R163: the first output of one vector (2, 3) and the record (5, −7) is −11. -/
theorem test_mgemv :
    ran (.mgemv x0 0 0 1 0 0 1 0)
      { one { t0 with mx := { active := { kind := true, set := [(0, 2), (1, 3)] }, cb := [(5, 5), (0xF9, 0x3F9)] } } with
        mem := { spad := bytesAt 0x10000 [5, 0xF9] } } (fun t => tget 0 (t.tile 0).mx.acc 0) = some (-11) := by decide +kernel

/-- R164: MDRAIN to the bank saturates to 32 bits, and leaves the rows above RLAST. -/
theorem test_mdrain :
    ran (.mdrain x0 0 0 0 0 0 0 0) (one { t0 with mx := { acc := [(0, 2 ^ 35), (1, -5), (32, 9)] } })
      (fun t => (tget 0 (t.tile 0).mx.acc 0, tget 0 (t.tile 0).mx.acc 1, tget 0 (t.tile 0).mx.acc 32)) =
      some (2 ^ 31 - 1, -5, 9) := by decide +kernel

/-- R161: one codebook segment is 16 entries of 10 bits, from halfwords. -/
theorem test_mcbload :
    ran (.mcbload x0 1 2 1 0x80) { one t0 with mem := { spad := bytesAt 0x2000 [0xFF, 0x03, 0x01] } }
      (fun t => (tget 0 (t.tile 0).mx.cb 288, tget 0 (t.tile 0).mx.cb 289)) = some (0x3FF, 1) := by decide +kernel

/-- R160: MLOAD of zero points. -/
theorem test_mload_zp :
    ran (.mload x0 2 0 0 0 0 0x80 0 2) { one t0 with mem := { spad := bytesAt 0x2000 [9, 8] } }
      (fun t => (tget 0 (t.tile 0).mx.zp 32, tget 0 (t.tile 0).mx.zp 33, tget 0 (t.tile 0).mx.zp 0)) = some (9, 8, 0) := by
  decide +kernel

/-! ### Vector engine -/

def cfg1 : Tbl Byte :=
  bytesAt 128 (leBytes 32 (2 ^ 63) ++ leBytes 16 (0x80 + 2 ^ 14 + 2 * 2 ^ 28) ++ List.replicate 48 0 ++ leBytes 16 (0xC0 + 2 * 2 ^ 28)) ++
  bytesAt 256 (leBytes 32 (2 ^ 63) ++ leBytes 16 (0x80 + 2 * 2 ^ 28 + 64 * 2 ^ 95) ++ List.replicate 48 0 ++
    leBytes 16 (0xC0 + 2 * 2 ^ 28 + 64 * 2 ^ 95))

def svx : State := { one { t0 with vxcfg := cfg1 } with mem := { spad := bytesAt 0x2000 (leBytes 4 0x3F800000 ++ leBytes 4 0xC0400000) } }

theorem witness_VectorTablesLoad :
    (one t0).canIssue x0 .vx = true ∧ (one t0).busyRes 0 .vxCfg = false ∧ (one t0).busyRes 0 .vxTab = false ∧ Calm 0 (one t0) ∧
      ∀ o, (one t0).bankOn 0 o = true :=
  ⟨by decide, by decide, by decide, ⟨rfl, rfl⟩, banks_on (by decide) (by decide)⟩

theorem witness_VrunRunsRows :
    let c := VCfg.ofBytes ((svx.tile 0).cfgBytes 2 0 128)
    let w : RunJob := { c := c, mkeep := false, aoff := 0, boff := 0, doff := 0, rows := 1, ra := {}, rb := {}, rd := {}, la := [] }
    svx.canIssue x0 .vx = true ∧ svx.busyRes 0 .vxChain = false ∧ VrunFree svx 0 (VCfg.ofBytes ((svx.tile 0).cfgBytes 1 0 128)) 1 ∧
      VrunFree svx 0 c 1 ∧ c.Simple ∧ Calm 0 svx ∧ w.Apart svx 0 := by
  intro c w
  have hD : w.c.d.spans (w.piecesD 0) = [(0x3000, 64), (0x3040, 64)] := by decide +kernel
  have hA : w.c.a.spans (w.piecesA 0) = [(0x2000, 64), (0x2040, 64)] := by decide +kernel
  have hB : w.c.b.spans (w.piecesB 0) = [] := by decide +kernel
  have hW : w.c.w.spans (w.piecesW 0) = [] := by decide +kernel
  have hn : w.rows * w.c.cols = 1 := by decide +kernel
  have at0 : ∀ j, j < w.rows * w.c.cols → j = 0 := fun j h => by omega
  have inD : ∀ o, w.c.d.covers (w.piecesD 0) o → 0x3000 ≤ o ∧ o < 0x3080 := by
    intro o ⟨p, hp, h1, h2⟩
    rw [hD] at hp
    simp only [List.mem_cons, List.not_mem_nil, or_false] at hp
    rcases hp with rfl | rfl <;> (dsimp only at h1 h2; omega)
  have inA : ∀ o, w.c.a.covers (w.piecesA 0) o → 0x2000 ≤ o ∧ o < 0x2080 := by
    intro o ⟨p, hp, h1, h2⟩
    rw [hA] at hp
    simp only [List.mem_cons, List.not_mem_nil, or_false] at hp
    rcases hp with rfl | rfl <;> (dsimp only at h1 h2; omega)
  refine ⟨by decide, by decide, ?_, ?_, ⟨by decide +kernel, by decide +kernel, by decide +kernel⟩, ⟨rfl, rfl⟩, ?_⟩
  · constructor
    case popA => exact fun h => absurd h (by decide +kernel)
    all_goals decide +kernel
  · constructor
    case popA => exact fun h => absurd h (by decide +kernel)
    all_goals decide +kernel
  · constructor
    case lines => intro j h; obtain rfl := at0 j h; decide +kernel
    case banks => exact banks_on (by decide) (by decide)
    case code =>
      intro j o h ho
      obtain rfl := at0 j h
      have := inD o ho
      have hc : svx.codeRegion 0 = (0, 4096) := by decide
      simp only [State.inCode, hc, decide_eq_false_iff_not]
      omega
    case outs => intro i j o hi hj _ _; rw [at0 i hi, at0 j hj]
    case halves => intro _; decide +kernel
    case ins =>
      intro i j o hi hj ho
      obtain rfl := at0 i hi
      obtain rfl := at0 j hj
      have := inD o ho
      refine ⟨fun ha => ?_, fun ⟨p, hp, _⟩ => ?_, fun ⟨p, hp, _⟩ => ?_⟩
      · have := inA o ha; omega
      · rw [hB] at hp; cases hp
      · rw [hW] at hp; cases hp

/-- R233, R236: the chain that passes A through writes it to D, and A's base steps by INC. -/
theorem test_vrun :
    ran (.vrun x0 1 1 0 0 0 0) svx (fun t => (t.spNat 0 0x3000 8, fieldAt ((t.tile 0).cfgBytes 1 32 2) 0 2)) =
      some (0xC04000003F800000, 0x4081) := by decide +kernel

/-- R234: VCFG loads 128 bytes as they stand. -/
theorem test_vcfg :
    ran (.vcfg x0 3 0x80) svx (fun t => fieldAt ((t.tile 0).cfgBytes 3 0 128) 0 8) = some 0xC04000003F800000 := by decide +kernel

/-- R235: VLUT segment 2 takes 16 words. -/
theorem test_vlut :
    ran (.vlut x0 2 1 0x80) svx (fun t => (tget 0 (t.tile 0).lut 32, tget 0 (t.tile 0).lut 33)) =
      some (0x3F800000, 0xC0400000) := by decide +kernel

/-! ### Package network -/

/-- Two dies in use. -/
def img2 : Image := { img0 with grid := [(0, 2), (1, 2)], banks := [(0, 0xFFFF), (1, 0xFFFF), (261, 0xFFFF)] }

/-- Route descriptors: 1 to tile 1 of the own die, 2 to tile 5 of die 1, 4 a multicast to die 1, 5 a reduction. -/
def rds : Tbl Nat :=
  [(1, 2 ^ 120 + 2 ^ 87), (2, 5 * 2 ^ 120 + 2 ^ 93 + 2 ^ 87), (3, 3 * 2 ^ 160 + 3 * 2 ^ 87), (6, 2 ^ 90 + 2 * 2 ^ 87), (4, 9 * 2 ^ 148 + 2 * 2 ^ 96 + 4 * 2 ^ 87),
    (5, 7 * 2 ^ 148 + 4095 * 2 ^ 134 + 5 * 2 ^ 87)]

/-- Slot 1 of the board behind port 3, tile 0 with the routes and a full region 3, and tile 1 with channel 2 posted for one line at line 0x40. -/
def snx : State :=
  { on0 with
    img := img2
    fab := { ports := [(3, { svc := .up, lanes := 4 })], plan := { have_ := true, present := [0, 1], peers := [(3, 256)] } }
    tiles := [(0, { t0 with rd := rds, regions := [(3, { en := true, base := 0x4000, size := 0x1000, fill := 0x1000 })] }), (1, { ch := [(2, { en := true, base := 0x40, left := 1, nl := 1 })] })]
    mem := { spad := bytesAt 0x2000 [0xAB] } }

/-- An entry of its send queue. -/
def send1 : Send := { id := 3, ch := 2, src := 0x80, nl := 1, scnt := 6, dests := [.tile ⟨1, 5⟩], nread := 0, due := 1, bundle := 0, dlv := 9 }

/-- A line on its way to tile 1. -/
def line1 : NxLine := { dst := ⟨0, 1⟩, ch := 2, k := 0, nl := 1, data := [0xCD], poison := false, dlv := 9, send := none, req := none, node := 0 }

/-- Byte addresses that one page holds, in a bank that is on and outside the code region. -/
theorem takesAt {s : State} {k : Nat} {l : List Nat} (on : ∀ o, s.bankOn k o = true) (code : (s.codeRegion k).1 + (s.codeRegion k).2 ≤ 4096)
    (h : ∀ o ∈ l, 4096 ≤ o ∧ o < 2 ^ 20) : TakesAt s k l := by
  intro o m
  have := h o m
  refine ⟨this.2, on o, ?_⟩
  simp only [State.inCode, decide_eq_false_iff_not]
  omega

/-- A send within the die, sends off it, and a line that lands. -/
theorem witness_SendsLeaveTheTile :
    snx.canIssue x0 .nx = true ∧ snx.busyRes 0 .nxSend = false ∧ SendFree snx 0 (routeOf (tget 0 (snx.tile 0).rd 1)) false 0x80 1 ∧
      SendFree snx 0 (routeOf (tget 0 (snx.tile 0).rd 1)) true 3 2 ∧
      (routeOf (tget 0 (snx.tile 0).rd 1)).kind = 1 ∧ (routeOf (tget 0 (snx.tile 0).rd 1)).die = 0 ∧ snx.bound 0 1 = true ∧
      Calm 0 snx ∧ (∀ o, snx.bankOn 0 o = true) ∧ (snx.tile 0).sendq.length < 8 ∧
      (∀ i ∈ [2, 3, 4, 5, 6], SendFree snx 0 (routeOf (tget 0 (snx.tile 0).rd i)) false 0x80 2) ∧
      snx.bound 1 5 = true ∧ bit (routeOf (tget 0 (snx.tile 0).rd 4)).dies 0 = false ∧ snx.ce.strict = false ∧
      [2, 3, 4, 5, 6].map (fun i => (routeOf (tget 0 (snx.tile 0).rd i)).kind) = [1, 3, 4, 5, 2] ∧
      (routeOf (tget 0 (snx.tile 0).rd 3)).dst ≠ snx.id.mid ∧ (routeOf (tget 0 (snx.tile 0).rd 4)).mgrp ≠ 0 ∧
      (routeOf (tget 0 (snx.tile 0).rd 6)).slot ≠ snx.id.slot ∧ snx.noPeer (routeOf (tget 0 (snx.tile 0).rd 6)).slot = false ∧
      ((snx.tile 1).chan 2).en = true ∧ ((snx.tile 1).chan 2).nl = 1 ∧ ((snx.tile 1).chan 2).dlv = none ∧
      TakesAt snx 1 (rangeAddrs (chanRanges snx 1 ((snx.tile 1).chan 2) 0)) := by
  refine ⟨by decide, by decide, ⟨by decide, by decide, by decide, by decide, by decide⟩,
    ⟨by decide, by decide, by decide, by decide, by decide⟩, by decide, by decide, by decide, ⟨rfl, rfl⟩,
    banks_on (by decide) (by decide), by decide, ?_, by decide, by decide, by decide, by decide, by decide, by decide, by decide,
    by decide, by decide, by decide, by decide, ?_⟩
  · intro i h
    simp only [List.mem_cons, List.not_mem_nil, or_false] at h
    rcases h with rfl | rfl | rfl | rfl | rfl <;> exact ⟨by decide, by decide, by decide, by decide, by decide⟩
  · exact takesAt (banks_on (by decide) (by decide)) (by decide) (by decide +kernel)

theorem witness_NrecvPostsChannel :
    let s := one { t0 with regions := [(15, { en := true, base := 0x4000, size := 0x1000 })] }
    s.canIssue x0 .nx = true ∧ s.busyRes 0 .nxChan = false ∧ ((s.tile 0).chan 7).en = false ∧ Calm 0 s ∧
      (tget {} (s.tile 0).regions 15).en = true ∧ (s.tile 0).pushFails 15 (64 * 64) = false :=
  ⟨by decide, by decide, by decide, ⟨rfl, rfl⟩, by decide, by decide⟩

theorem witness_GatesHoldAndOpen :
    let g : Gate := { vt := 0, cnt := 31, val := 2, timeout := 5, count := 5, bundle := 0 }
    let s (v : BitVec 16) : State := { one { t0 with ac := [(31, v)] } with dies := [(0, { gates := [g], held := true })] }
    (one { t0 with ac := [(31, 2)] }).canIssue x0 .nx = true ∧ ((one t0).die 0).gates = [] ∧
      (2 : BitVec 14).toNat ≤ (tget 0 ((one { t0 with ac := [(31, 2)] }).tile 0).ac 31).toNat ∧
      (s 2).gateOk 0 g = true ∧ (s 1).gateOk 0 g = false ∧ ((s 1).die 0).gates = [g] := by decide

theorem witness_QueuedSendsTravel :
    let s := { snx with
      tiles := [(0, { t0 with sendq := [send1] }), (1, { ch := [(2, { en := true, base := 0x40, left := 1, nl := 1 })] })]
      net := { lines := [line1], acks := [(0, 3, 1)] } }
    let late : State := { s with tiles := [(0, { t0 with sendq := [{ send1 with readAt := 5 }] })] }
    let shut : State := { s with tiles := [] }
    let used : State := { s with tiles := [(1, { ch := [(2, { en := true, base := 0x40, left := 1, nl := 1 })], used := [0] })] }
    let cut : State := { s with net := { s.net with bridges := (List.range 32).map fun i => (i, { down := true }) } }
    (s.tile 0).sendq[0]? = some send1 ∧ send1.nread < send1.nl ∧ send1.readAt ≤ s.cycAt 0 ∧ s.bankTaken 0 (0x80 * 64) = false ∧
      s.bankOn 0 (0x80 * 64) = true ∧
      (late.die 0).runs = true ∧ late.cycAt 0 < 5 ∧ s.net.lines[0]? = some line1 ∧ (9, 1) ∉ s.net.dead ∧
      s.pathUp line1.node 0 = true ∧ cut.pathUp 1 0 = false ∧ (shut.tile 1).holding.length < 64 ∧ ((shut.tile 1).chan 2).en = false ∧
      ((s.tile 1).chan 2).en = true ∧ ((s.tile 1).chan 2).nl = line1.nl ∧ ((s.tile 1).chan 2).dlv = none ∧ (s.tile 1).holding = [] ∧
      s.rangesTaken 1 (s.lineRanges line1) = false ∧ TakesAt s 1 (rangeAddrs (s.lineRanges line1)) ∧
      used.rangesTaken 1 (used.lineRanges line1) = true ∧ s.net.acks[0]? = some (0, 3, 1) ∧ s.pathUp 1 0 = true ∧
      (s.tile 0).sendq.find? (fun e => e.id == 3) = some send1 := by
  refine ⟨by decide, by decide, by decide, by decide, by decide, by decide, by decide, by decide, by decide, by decide, by decide,
    by decide, by decide, by decide, by decide, by decide, by decide, by decide, ?_, by decide, by decide, by decide, by decide⟩
  exact takesAt (banks_on (by decide) (by decide)) (by decide) (by decide +kernel)

theorem witness_BridgesReplayAndRetrain :
    let s (v : BridgeDir) : State := { on0 with net := { bridges := [(31, v)] } }
    (on0.bridge 15 1).carries = true ∧ (on0.bridge 15 1).resend = [] ∧ (on0.bridge 15 1).failing = none ∧
      (on0.bridge 15 1).rxSeq = (on0.bridge 15 1).txSeq ∧
      (let v : BridgeDir := { unacked := [2, 3], txSeq := 4, rxSeq := 4 }
       v.carries = true ∧ v.rxSeq = v.txSeq ∧ ∀ f ∈ v.unacked, f ≤ v.txSeq) ∧
      ({ unacked := [2, 3], txSeq := 4, rxSeq := 2 } : BridgeDir).rxSeq < 4 ∧
      ((s { unacked := [4], failing := some 4, replays := 15 }).bridge 15 1).unacked = [4] ∧
      ((s { unacked := [4], failing := some 4, replays := 15 }).bridge 15 1).carries = true ∧
      ((s { retrain := true }).bridge 15 1).retrain = true ∧ ((s { down := true }).bridge 15 1).carries = false := by decide

/-- A tile whose DGATH has descriptors 1 (rows), 2 (scales) and 3 (head record at 0x2000), and a model of one layer. -/
def sgath : State :=
  { one { t0 with md := [(1, { addr := 0x3000, stride := 4 }), (2, { addr := 0x4000 }), (3, { addr := 0x2000 })] } with
    sv := { models := [(0, { kvgeo := 0x700 })] } }

/-- A request of one token of tile (0, 0), of model 0 with one layer. -/
def gath1 (dop : Nat) : Gath :=
  { tile := 0, bundle := 0, dop := dop, kind := 0, layer := 0, ntok := 1, pin := false, head := 2 ^ 31 + 1, pos0 := 0, limit := 5, spos := 0
    midx := 0, rows := [[(0x3000, 32)]], scls := [0x4000], rowData := [(List.replicate 32 1, false)]
    sclData := [(List.replicate 4 2, false)], txn := 4, gcnt := 0 }

/-- The page manager of die 0 holds it: its page table has root frame 1, table frame 2, code frame 3 and scale frame 4. -/
def spm (dop : Nat) : State :=
  { on0 with
    mem := { cav := bytesAt 0x10000 (leBytes 4 (2 ^ 31 + 2)) ++ bytesAt 0x20000 (leBytes 4 (2 ^ 31 + 3) ++ leBytes 4 (2 ^ 31 + 4)) }
    pages := { pms := [(0, { reqs := [.gath (gath1 dop)], frames := 8,
                             table := [1, 2, 3, 4].map fun f => (f, { state := 1, loc := 1, off := 0x10000 * f, ref := 1 }) })] }
    sv := { models := [(0, { kvgeo := 0x400 })] }
    net := { txns := [{ id := 4, from_ := .tile x0, node := 0, bundle := 0, beats := [], landCnt := none, ackCnt := 0 }] } }
theorem tokenReady (dop : Nat) (h : dop < 2) : TokenReady (spm dop) (gath1 dop) (2 ^ 31 + 3) (2 ^ 31 + 4) := by
  have l (r : Nat) (h : r = 3 ∨ r = 4) (dop : Nat) (g : dop < 2) (b : Bool) : LiveFrame (spm dop) (2 ^ 31 + r) b := by
    obtain rfl | rfl := h <;> obtain rfl | rfl : dop = 0 ∨ dop = 1 := by omega
    all_goals cases b <;> exact ⟨by decide, by decide, by decide, by decide⟩
  obtain rfl | rfl : dop = 0 ∨ dop = 1 := by omega
  · exact ⟨by decide, by decide, by decide, by decide, by decide +kernel, by decide +kernel, l 3 (by decide) 0 (by decide) _, l 4 (by decide) 0 (by decide) _⟩
  · exact ⟨by decide, by decide, by decide, by decide, by decide +kernel, by decide +kernel, l 3 (by decide) 1 (by decide) _, l 4 (by decide) 1 (by decide) _⟩

theorem witness_PageManagersServe :
    sgath.canIssue x0 .mv = true ∧
      DgathFree sgath 0 0 0 0 (tget {} (sgath.tile 0).md 1) (tget {} (sgath.tile 0).md 2) (tget {} (sgath.tile 0).md 3) 0 1 ∧
      (let v : State := { on0 with img := { img0 with codeBase := [] } }
       Calm 0 v ∧ ∀ o, v.bankOn 0 o = true ∧ v.inCode 0 o = false) := by
  refine ⟨by decide, ?_, ⟨⟨rfl, rfl⟩, fun o => ⟨banks_on (by decide) (by decide) o, ?_⟩⟩⟩
  · constructor
    case resident => exact ⟨_, List.mem_cons_self, by decide⟩
    all_goals decide
  · simp [State.inCode, State.codeRegion, tget]

/-- A GATHER and a PUT of one token into live frames, and a PUT for no sequence. -/
theorem witness_PageManagersServe_tokens :
    ((spm 0).pm 0).reqs[0]? = some (.gath (gath1 0)) ∧ ((spm 1).pm 0).reqs[0]? = some (.gath (gath1 1)) ∧
      ((spm 0).txn? 4).isSome = true ∧ TokenReady (spm 0) (gath1 0) (2 ^ 31 + 3) (2 ^ 31 + 4) ∧
      TokenReady (spm 1) (gath1 1) (2 ^ 31 + 3) (2 ^ 31 + 4) ∧ ((spm 1).counts (2 ^ 31 + 3)).ref ≤ 1 ∧
      ((spm 1).counts (2 ^ 31 + 4)).ref ≤ 1 ∧ ((gath1 1).at_ 0x400 0).co + 32 ≤ 8192 ∧ ((gath1 1).at_ 0x400 0).so + 4 ≤ 8192 ∧
      refV ({ gath1 1 with head := 0 } : Gath).head = false :=
  ⟨by decide, by decide, by decide, tokenReady 0 (by decide), tokenReady 1 (by decide), by decide, by decide, by decide, by decide,
    by decide⟩

/-- A peer's messages: reads and writes of a live frame, a request for a guest frame, and its release. -/
theorem witness_PageManagersServe_messages :
    let m (op : Nat) : Packet := { src := 3, data := leBytes 4 op ++ leBytes 4 (2 ^ 31 + 5) ++ leBytes 12 0 ++ [0xEE] }
    let s (op : Nat) : State :=
      { on0 with pages := { pms := [(0, { reqs := [.msg (m op)], frames := 8, guest0 := 5, table := [(5, { state := 2, loc := 1, off := 0x20000 })] })] } }
    let r := fieldAt (m 2).data 4 4
    [1, 2, 3, 4].map (fun op => fieldAt (m op).data 0 4) = [1, 2, 3, 4] ∧ ((s 4).pm 0).reqs[0]? = some (.msg (m 4)) ∧
      LiveFrame (s 1) r false ∧ LiveFrame (s 2) r true ∧ (m 2).data.drop 20 ≠ [] ∧ fieldAt (m 2).data 8 4 + 1 ≤ 8192 ∧
      (s 4).frameBusy r true = false ∧ 6 < ((s 4).pm 0).frames ∧ ((s 4).pm 0).guest0 ≤ 6 ∧ ((s 4).frame 0 6).state = 0 ∧
      (∀ e, ((s 4).pm 0).guest0 ≤ e → e < 6 → ((s 4).frame 0 e).state ≠ 0) ∧
      (s 3).refLocal r = true ∧ refDie r = 0 ∧ (s 3).refStale r = false ∧ ((s 3).frame 0 (refFrame r)).state = 2 := by
  refine ⟨by decide, by decide, ⟨by decide, by decide, by decide, by decide⟩, ⟨by decide, by decide, by decide, by decide⟩,
    by decide, by decide, by decide, by decide, by decide, by decide, ?_, by decide, by decide, by decide, by decide⟩
  intro e h g
  have h : 5 ≤ e := h
  obtain rfl : e = 5 := by omega
  decide

/-- R318, R337: NSEND within the die puts its line on the mesh, bound for its tile. -/
theorem test_nsend :
    ran (.nsend x0 1 2 0 0x80 1 0) snx (fun t => (t.die 0).mesh.map (fun m => (m.data.headD 0, m.dests, m.at_))) =
      some [(0xAB, [1], 0)] := by decide +kernel

/-- R337, R338: NMCAST and NRED off the die join the send queue. -/
theorem test_nmcast_nred :
    got (.nmcast x0 4 0 0 0x80 2 0) snx (fun t => (t.tile 0).sendq.map (fun e => (e.nl, e.nread))) = some [(2, 0)] ∧
      got (.nred x0 5 0 0 0x80 2 0) snx (fun t => (t.tile 0).sendq.map (fun e => (e.due, e.npart))) = some [(1, 4095)] := by decide +kernel

/-- R339: NRECV posts the channel. -/
theorem test_nrecv :
    ran (.nrecv x0 7 0 0x99 3 2) (one t0) (fun t => ((t.tile 0).chan 7).base) = some 0x99 := by decide

/-- R340: NGATE subtracts its value at once when the counter has reached it, and else waits. -/
theorem test_ngate :
    got (.ngate x0 31 2 0) (one { t0 with ac := [(31, 5)] }) (fun t => (tget 0 (t.tile 0).ac 31, (t.die 0).gates)) = some (3, []) ∧
      got (.ngate x0 31 6 0) (one { t0 with ac := [(31, 5)] }) (fun t => (tget 0 (t.tile 0).ac 31, (t.die 0).gates.length)) =
        some (5, 1) := by decide

/-- R330: the line lands, and the channel closes. -/
theorem test_line_arrival :
    got (.lineArrival 0) { snx with net := { lines := [line1] } } (fun t => (t.spByte 1 0x1000, ((t.tile 1).chan 2).en, t.net.lines.length)) =
      some (0xCD, false, 0) := by decide +kernel

/-- R333: the last acknowledgement frees the entry and counts SCNT. -/
theorem test_send_ack :
    got (.sendAck 0) { one { t0 with sendq := [send1], outst := 1 } with net := { acks := [(0, 3, 1)] } }
      (fun t => ((t.tile 0).sendq.length, (t.tile 0).outst, tget 0 (t.tile 0).ac 6)) = some (0, 0, 1) := by decide

/-- R327: the 16th replay in succession calls for a retrain. -/
theorem test_bridge_replay :
    got (.bridgeReplayTimer 15 1 []) { on0 with net := { bridges := [(31, { unacked := [4], failing := some 4, replays := 15 })] } }
      (fun t => (t.bridge 15 1).retrain) = some true := by decide

/-! ### Oliene fabric -/

/-- The same with every bridge down. -/
def cutOff (s : State) : State := { s with net := { s.net with bridges := (List.range 32).map fun i => (i, { down := true }) } }

theorem witness_PacketRouteHandlesOne :
    let r (p : Packet) : State := sfab fun f => { f with router := [at1 p] }
    let j := pk 0x0E ctlJoin
    let far : Packet := { j with path := 3 }
    (r j).fab.router[0]? = some (at1 j) ∧ (r j).mayRoute (at1 j) = true ∧ (r far).mayRoute (at1 far) = true ∧
      (cutOff (r far)).mayRoute { at1 far with node := 0 } = false ∧ { j with len := 2049 }.malformed = true ∧
      (r j).mayRoute (at1 { j with len := 2049 }) = true ∧ j.malformed = false ∧ far.malformed = false ∧ far.code 0 = 3 ∧
      (r j).portOk 3 = true ∧ (r j).portOk 15 = false ∧ { pk 0x03 0 with path := 15, len := 0, data := [] }.malformed = false ∧
      { pk 0x03 0 with path := 15, len := 0, data := [] }.code 0 = 15 ∧ (pk 0x03 0).isRequest = false ∧ j.code 0 = 0x1E ∧
      (r j).isMine j = true ∧ j.known = true ∧ (r j).isMine { pk 0x03 0 with dst := 9, len := 0, data := [] } = false ∧
      { pk 0x03 0 with dst := 9, len := 0, data := [] }.malformed = false := by
  decide

theorem witness_RequestsAreInjectedAndAnswered :
    let r : Req := { why := .echo, pkt := pk 0x0E ctlJoin, pinned := 3 }
    let o : Req := { why := .echo, pkt := { pk 0x0E ctlJoin with tag := 9, tgen := 255 }, pinned := 3, due := 2 }
    let s := sfab fun f => { f with waiting := [r], out := [o] }
    let got (p : Packet) : State := sfab fun f => { f with out := [o], inbox := [at1 p] }
    let c (q : Req) : State := sfab fun f => { f with out := [q] }
    s.fab.waiting[0]? = some r ∧ r.last = false ∧ r.pinned ≠ 0x1F ∧ s.reqPath r = some 3 ∧
      freeTag (s.fab.out.map (·.pkt.tag)) 65536 0 = some 0 ∧ r.pkt.pmFollows o.pkt = false ∧
      s.storeUsed (iodOf 3) + 32 + r.pkt.len ≤ 8 * 2 ^ 20 ∧ s.reqOf 9 255 = some o ∧ s.reqOf 8 0 = none ∧ 2 ≤ o.due ∧
      [{ pk 0x03 0 with tag := 9, tgen := 255 }, { pk 0x03 0 with tag := 8 }, { pk 0x0B 0 with aux := 9 * 2 ^ 16 + 16, tgen := 255 }].all
        (fun p => (got p).inboxAt 0 == some (at1 p)) = true ∧
      s.reaches (at1 { pk 0x03 0 with tag := 9, tgen := 255 }) 9 = true ∧ s.reaches (at1 { pk 0x03 0 with tag := 8 }) 8 = true ∧
      bits (9 * 2 ^ 16 + 16) 31 16 = 9 ∧ s.reaches (at1 { pk 0x0B 0 with aux := 9 * 2 ^ 16 + 16, tgen := 255 }) 9 = true ∧
      (c { o with due := 1 }).reqOf 9 255 = some { o with due := 1 } ∧ ({ o with due := 1 } : Req).due < 2 ∧ (pk 0x03 0).src ∉ o.acked ∧
      ({ o with pinned := 0x1F } : Req).copies = true ∧ o.copies = false ∧ ({ o with board := true } : Req).board = true ∧
      o.board = false ∧ s.fab.ep.cur = (pk 0x0B 0).epoch ∧ s.fab.out.find? (fun r => r.pkt.tag == 9) = some o := by decide

/-- A multicast request to a group of three members, this module among them. -/
theorem witness_RequestsAreInjectedAndAnswered_multicast :
    let r : Req := { why := .send 0 0, pkt := { pk 0x06 0 with mgrp := 7 }, pinned := 0x1F }
    let s := sfab fun f => { f with waiting := [r], mcast := [(7, BitVec.ofNat 64 (2 ^ 63 + 2 ^ 62 + 3 * 2 ^ 45 + 8))] }
    let e := s.mcEntry s.fab.ep.cur r.pkt.mgrp
    s.fab.waiting[0]? = some r ∧ r.last = false ∧ r.pinned = 0x1F ∧ mcValid e = true ∧ mcLocal e = true ∧ mcMembers e - 1 = 2 ∧
      freeTag (s.fab.out.map (·.pkt.tag)) 65536 0 = some 0 ∧ s.storeUsed 3 + 32 + r.pkt.len ≤ 8 * 2 ^ 20 := by decide

theorem witness_ReductionCombineAdds :
    let c : Contrib := { mgrp := 4095, nl := 1, ch := 0, lines := [leBytes 4 0x3F800000 ++ List.replicate 60 0], count := 1, local_ := some (0, 1), npart := 2, port := none, acks := [] }
    let y : Comb := { nl := 1, lines := [leBytes 4 0x40000000 ++ List.replicate 60 0], count := 1, locals_ := 1, npart := 2, tiles := [(1, 0)] }
    let s (e : Nat) (l : List Comb) : State := sfab fun f =>
      { f with contribs := [c], mcast := [(4095, BitVec.ofNat 64 e)], combs := [(4095, l)] }
    let x (e : Nat) (l : List Comb) : Comb := (combTake c (mcLcnt e) l).1.getD (combTake c (mcLcnt e) l).2 {}
    let root := 2 ^ 63 + 2 ^ 61 + 2 * 2 ^ 34
    (s 0 []).fab.contribs[0]? = some c ∧ (s 0 []).pathUp c.node twinDie = true ∧ (cutOff (s 0 [])).pathUp c.node twinDie = false ∧
      mcValid ((s 0 []).mcEntry 0 4095) = false ∧ mcValid ((s root [y]).mcEntry 0 4095) = true ∧ (s root [y]).mcEntry 0 4095 = root ∧
      tget [] (s root [y]).fab.combs 4095 = [y] ∧ y.lacks c (mcLcnt root) = true ∧ y.lines ≠ [] ∧ c.nl = y.nl ∧
      (x root []).whole root = false ∧ (x root [y]).whole root = true ∧ mcRoot root = true ∧ (x root [y]).bad = false ∧
      (x root [y]).count = (x root [y]).npart ∧ (0, 0) ∈ (x root [y]).tiles ∧ (x root [y]).lines[0]? = some (leBytes 4 0x40400000 ++ List.replicate 60 0) ∧
      mcRoot (2 ^ 63 + 2 * 2 ^ 34) = false := by decide +kernel

/-- A frame of one cell with a sequence number, and its CRC (R347). -/
def frame1 (seq : Nat) : List Byte :=
  let b := leBytes 8 (2 ^ 16 + seq * 2 ^ 52) ++ List.replicate 64 0
  b ++ leBytes 4 (crc32 b).toNat

/-- A frame without cells that returns 5 credits of pool 3 and acknowledges frame 7. -/
def frame0 : List Byte :=
  let b := leBytes 8 (7 * 2 ^ 40 + 2 ^ 39 + 3 * 2 ^ 35 + 5 * 2 ^ 23)
  b ++ leBytes 4 (crc32 b).toNat

theorem witness_LinksAcceptAndReplay :
    let f : Frame := { seq := 7, vc := 0, ph := 0, cells := [] }
    let s := sfab fun f' => { f' with ports := [(3, { svc := .up, lanes := 4, rxSeq := 4095, unacked := [f] })] }
    (s.port 3).lanes ≠ 0 ∧ (s.port 3).retrain = false ∧ (frame1 4095).length = 12 + 64 * bits (fieldAt (frame1 4095) 0 8) 19 16 ∧
      fieldAt (frame1 4095) 72 4 = (crc32 ((frame1 4095).take 72)).toNat ∧ bits (fieldAt (frame1 4095) 0 8) 63 52 = (s.port 3).rxSeq ∧
      bits (fieldAt (frame1 0) 0 8) 63 52 ≠ (s.port 3).rxSeq ∧ bits (fieldAt (frame1 0) 0 8) 19 16 = 1 ∧
      fieldAt (frame1 0) 72 4 = (crc32 ((frame1 0).take 72)).toNat ∧ frame0.length = 12 ∧ bits (fieldAt frame0 0 8) 19 16 = 0 ∧
      fieldAt frame0 8 4 = (crc32 (frame0.take 8)).toNat ∧ bit (fieldAt frame0 0 8) 39 = true ∧ bit (fieldAt frame0 0 8) 38 = false ∧
      (s.port 3).unacked = [f] ∧ f.seq = 7 := by decide +kernel

theorem witness_PortsTrainAndGoDown :
    let s (x : Port) : State := sfab fun f => { f with ports := [(3, x)], plan := { f.plan with peers := [(3, 5 * 256)] } }
    lanesOk 1 = true ∧ lanesOk 0 = false ∧ (s {}).boot.started = true ∧ ((s {}).port 3).lanes = 0 ∧ 3 ≤ (s {}).boot.phase ∧
      ((s {}).peer 3).isSome = true ∧ ((s {}).port 3).failed = false ∧
      ((s {}).port 15).lanes = 0 ∧ ((s {}).port 14).lanes = 0 ∧ ((s { retrain := true, lanes := 4 }).port 3).retrain = true ∧
      ((s { lanes := 4 }).port 3).lanes ≠ 0 := by
  decide

theorem witness_EpochHandshakeAdvances :
    let m (kind : Nat) : AtRouter := at1 { pk 0x0E kind with src := 5 }
    let s (e : Epoch) : State :=
      { sfab (fun f => { f with ep := e, stPaths := [(5, 2 ^ 80 + 3)], inbox := [m ctlJoin, m ctlCount, m ctlLoad, m ctlLoaded, m ctlDone, m ctlAbort] })
        with ce := { state := .running, ev := { opened := true } } }
    let one (kind : Nat) (e : Epoch) : State := { s e with fab := { (s e).fab with inbox := [m kind] } }
    [ctlJoin, ctlCount, ctlLoad, ctlLoaded, ctlDone, ctlAbort].all (fun k => (one k {}).inAt 0 0x0E k == some (m k)) = true ∧
      (s {}).isFLeader = true ∧ (s {}).fab.ep.polling = false ∧ (s {}).fab.ep.cur ≤ 1 ∧
      twf 0 (s {}).fab.stPaths = true ∧ (∀ e ∈ (s {}).fab.stPaths, e.1 < 1024) ∧
      (one ctlLoaded { polling := true, loading := true, loadedBy := [0] }).inAt 0 0x0E ctlLoaded = some (m ctlLoaded) ∧
      (one ctlLoaded { polling := true, loading := true, loadedBy := [0] }).fab.ep.loading = true ∧ (s {}).runsGroup = true ∧
      (s { polling := true }).fab.ep.polling = true ∧ (s { polling := true }).fab.ep.loading = false ∧
      (s { polling := true }).fab.ep.asked = false ∧
      5 ∈ (s {}).fab.plan.present ∧ 5 ∉ (s { polling := true, loading := true, loadedBy := [0], asked := true }).fab.ep.loadedBy ∧
      (∀ r ∈ (s { polling := true, asked := true }).fab.ep.round, r.1 ≠ 5) := by decide

/-- R357: a packet whose hop names a port that is not in service is dropped. -/
theorem test_packet_route :
    got (.packetRoute 0) (sfab fun f => { f with router := [at1 { pk 0x03 0 with path := 15, len := 0, data := [] }] })
      (fun t => (t.fab.router.length, t.fab.dropped)) = some (0, 1) := by decide

/-- R366: a response of another generation is stale. -/
theorem test_response :
    got (.response 0) (sfab fun f => { f with
      out := [{ why := .echo, pkt := { pk 0x0E ctlJoin with tag := 9, tgen := 1 }, pinned := 3 }], inbox := [at1 { pk 0x03 0 with tag := 9 }] })
      (fun t => (t.fab.stale, t.fab.out.length)) = some (1, 1) := by decide

/-- R367: a timeout frees the tag. -/
theorem test_transaction_timeout :
    got (.transactionTimeout 9) (sfab fun f => { f with out := [{ why := .echo, pkt := { pk 0x0E ctlJoin with tag := 9 }, pinned := 3 }] })
      (fun t => (t.fab.timeouts, t.fab.out.length, tget 0 t.fab.tgen 9)) = some (1, 0, 1) := by decide

/-- R348: a frame in sequence advances RX by one, modulo 4,096. -/
theorem test_link_frame :
    got (.linkFrame 3 (frame1 4095) true false) (sfab fun f => { f with ports := [(3, { svc := .up, lanes := 4, rxSeq := 4095 })] })
      (fun t => ((t.port 3).rxSeq, (t.port 3).ackSent)) = some (0, some 4095) := by decide +kernel

/-- R374: a loss of signal takes the port down with cause 2. -/
theorem test_port_signal_lost :
    got (.portSignalLost 3) (sfab id) (fun t => ((t.port 3).svc, t.ce.ev.wait.map (fun e => (e.code, e.cause)))) =
      some (.down, [(0x40, 2)]) := by decide

/-- R371: the last JOIN starts the rounds. -/
theorem test_join :
    got (.join 0) (sfab fun f => { f with ep := { joiners := [0] }, inbox := [at1 { pk 0x0E ctlJoin with src := 5 }] })
      (fun t => t.fab.ep.polling) = some true := by decide

/-! ### Time and Echo -/

theorem witness_TickIsKeptAndSent :
    on0.pw.off = false ∧ TState.sends .locked = true ∧ TState.follows .tracking = true ∧
      (let s := { sfab id with tm := { state := .tracking, active := 2, tick := 5000000 * 65536 } }
       s.tm.heard + 5000000 * 65536 ≤ s.tm.tick ∧ s.fab.plan.backup = 0x1F) ∧
      (let s := { sfab (fun f => { f with plan := { f.plan with backup := 3 } }) with tm := { state := .tracking, active := 2, tick := 5000000 * 65536 } }
       s.fab.plan.backup < 16 ∧ s.fab.plan.backup ≠ s.tm.active ∧ (s.port 3).svc = .up) ∧
      (let s := { on0 with tm := { state := .master, pps := true, f := 10000 } }
       s.tm.pps = true ∧ s.tm.f.natAbs ≤ 10000 ∧ s.tm.edge = none) := by decide

theorem witness_TimeMessagesAreFollowed :
    let p : Port := { svc := .up, lanes := 4, samples := List.replicate 16 40, exch := 65535, exchT1 := some 5 }
    let m (k : Nat) (d : List Byte) : AtRouter := at1 { pk 0x0E k with data := padTo 32 d }
    let resp := m 0x12 (List.replicate 10 0 ++ leBytes 2 65535)
    let s (st : TState) (a : AtRouter) : State :=
      { sfab (fun f => { f with ports := [(3, p)], plan := { f.plan with parent := 3 }, inbox := [a] }) with
        tm := { state := st, active := 3, f := -10000 } }
    (s .holdover (m 0x10 [])).inAt 0 0x0E 0x10 = some (m 0x10 []) ∧
      (m 0x10 []).port = some (s .holdover (m 0x10 [])).fab.plan.parent ∧
      (s .locked (m 0x10 [])).inAt 0 0x0E 0x10 = some (m 0x10 []) ∧ (s .locked (m 0x10 [])).tm.active = 3 ∧
      (s .locked (m 0x10 [])).tm.f.natAbs ≤ 10000 ∧ ((s .locked (m 0x10 [])).port 3).delay.isSome = true ∧
      (s .locked (m 0x11 [])).portOk 3 = true ∧ (s .locked (m 0x11 [])).inAt 0 0x0E 0x11 = some (m 0x11 []) ∧
      (s .locked resp).inAt 0 0x0E 0x12 = some resp ∧ ((s .locked resp).port 3).exchT1 = some 5 ∧
      fieldAt resp.pkt.data 10 2 = ((s .locked resp).port 3).exch := by decide

/-- A group of die 0 alone, whose one tile has reached its boundary. -/
def sgrp (mods : Nat) (g : Group) (t : Tile) : State :=
  { one t with
    img := { img0 with groupOf := [(0, 1)], gmods := if mods = 0 then [] else [(0, mods)], jgid := [(0, 77)] }
    groups := [(0, g)]
    tm := { tick := 1000 * 65536 }
    ce := { state := .running, ev := { opened := true } } }

theorem witness_GroupsPassTheirBoundary :
    let b := { sgrp 2 { bnd := .phase8, leader := 9, slowed := false } {} with tm := { tick := 1000 * 65536, slow := 0 } }
    let c := sgrp 1 { bnd := .armed, trel := 960 } {}
    let d (x : Bnd) : State := { sgrp 2 { bnd := x, leader := 0 } {} with tm := { tick := 10 ^ 9 * 65536 } }
    1 < b.gmods 0 ∧ b.leads 0 = false ∧
      (b.group 0).bnd = .phase8 ∧ b.outdated (b.group 0) = false ∧ { b with pw := { b.pw with cutDone := 1 } }.outdated (b.group 0) = true ∧
      (c.group 0).bnd = .armed ∧ c.gmods 0 ≤ 1 ∧ c.groupOf 0 = some 0 ∧ 0 ∉ (c.group 0).released ∧ (c.group 0).trel + 40 ≤ c.now ∧
      1 < (d .arrived).gmods 0 ∧ ((d .arrived).group 0).bnd = .arrived ∧ ((d .done).group 0).bnd = .done ∧ (d .phase8).leads 0 = true ∧
      ((d .done).group 0).slowed = false ∧ ((d .done).group 0).since + (d .done).tm.slow * 1000000 ≤ (d .done).now := by decide

/-- Every tile of the die in one state. -/
def tilesAll (t : Tile) : Tbl Tile := (List.range 240).map fun v => (v, t)

/-- Every tile of the die stands in STEPB, or has ended: the group has arrived. -/
theorem witness_GroupsPassTheirBoundary_arrival :
    let s (mods leader : Nat) (q : Seq) : State := { sgrp mods { bnd := .step, leader := leader } {} with tiles := tilesAll { seq := q } }
    ((s 1 0 .ended).group 0).bnd = .step ∧ ((s 1 0 .ended).groupDies 0).isEmpty = false ∧ (s 1 0 .ended).gmods 0 ≤ 1 ∧
      (s 1 0 (.inStepb 2)).localArrived 0 = true ∧ (s 1 0 (.inStepb 2)).allEndedIn 0 = false ∧ (s 1 0 .ended).localArrived 0 = true ∧
      (s 1 0 .ended).allEndedIn 0 = true ∧ (s 2 9 (.inStepb 2)).localArrived 0 = true ∧ (s 2 9 (.inStepb 2)).allEndedIn 0 = false ∧
      1 < (s 2 9 (.inStepb 2)).gmods 0 ∧ (s 2 9 (.inStepb 2)).leads 0 = false := by decide +kernel

/-- ARRIVE, CUT, DONE, ARM of job group 77 for step 0. -/
def echo (kind : Nat) (trel : Nat) : AtRouter := at1 { pk 0x0E kind with src := 9, data := echoBytes 77 0 trel, len := (echoBytes 77 0 trel).length }

theorem witness_EchoMessagesAreTaken :
    let s (leader : Nat) (b : Bnd) (a : AtRouter) : State :=
      { sgrp 2 { bnd := b, leader := leader, arrives := [0], dones := [0] } {} with fab := { inbox := [a] } }
    let e := { sgrp 3 { bnd := .arrived, leader := 0, arrives := [0], dones := [0] } {} with fab := { inbox := [echo 0x18 0] } }
    (s 0 .arrived (echo 0x18 0)).inAt 0 0x0E 0x18 = some (echo 0x18 0) ∧ (s 0 .arrived (echo 0x18 0)).echoFor (echo 0x18 0).pkt true = some 0 ∧
      (s 3 .arrived (echo 0x18 0)).echoFor (echo 0x18 0).pkt true = none ∧ 9 ∉ ((s 0 .arrived (echo 0x18 0)).group 0).arrives ∧
      ((s 0 .arrived (echo 0x18 0)).group 0).arrives.length + 1 = (s 0 .arrived (echo 0x18 0)).gmods 0 ∧
      ((s 0 .arrived (echo 0x18 0)).group 0).cut = false ∧ (e.group 0).arrives.length + 1 < e.gmods 0 ∧ e.echoFor (echo 0x18 0).pkt true = some 0 ∧
      (e.group 0).dones.length + 1 < e.gmods 0 ∧ (e.group 0).bnd ≠ .idle ∧ (e.group 0).bnd ≠ .step ∧
      (s 9 .arrived (echo 0x19 0)).inAt 0 0x0E 0x19 = some (echo 0x19 0) ∧ (s 9 .arrived (echo 0x19 0)).echoFor (echo 0x19 0).pkt false = some 0 ∧
      (s 0 .arrived (echo 0x19 0)).echoFor (echo 0x19 0).pkt false = none ∧
      (s 0 .done (echo 0x1A 0)).inAt 0 0x0E 0x1A = some (echo 0x1A 0) ∧ (s 0 .done (echo 0x1A 0)).echoFor (echo 0x1A 0).pkt true = some 0 ∧
      (s 9 .done (echo 0x1A 0)).echoFor (echo 0x1A 0).pkt true = none ∧
      9 ∉ ((s 0 .done (echo 0x1A 0)).group 0).dones ∧ ((s 0 .done (echo 0x1A 0)).group 0).dones.length + 1 = (s 0 .done (echo 0x1A 0)).gmods 0 ∧
      (s 9 .done (echo 0x1B 1100)).inAt 0 0x0E 0x1B = some (echo 0x1B 1100) ∧
      (s 9 .done (echo 0x1B 1100)).echoFor (echo 0x1B 1100).pkt false = some 0 ∧ (s 9 .done (echo 0x1B 1100)).now + 100 ≤ 1100 ∧
      fieldAt (echo 0x1B 1099).pkt.data 8 8 < (s 9 .done (echo 0x1B 1099)).now + 100 ∧
      (s 0 .done (echo 0x1B 1100)).echoFor (echo 0x1B 1100).pkt false = none := by decide

/-- R380: with f = s = 0 one TICK_ADVANCE is 10 ns. -/
theorem test_tick_advance : got .tickAdvance on0 (fun t => (t.now, t.tm.frac)) = some (10, 0) := by decide

/-- R384: (T4 - T1) - (T3 - T2). -/
theorem test_delay_resp :
    got (.delayResp 0) (sfab fun f => { f with
      ports := [(3, { svc := .up, lanes := 4, exchT1 := some 100 })]
      inbox := [{ pkt := { pk 0x0E 0x12 with data := padTo 32 (leBytes 8 0 ++ leBytes 2 120 ++ leBytes 6 0 ++ leBytes 8 0 ++ leBytes 2 130) }
                  port := some 3, at_ := 160, node := 8 }] }) (fun t => (t.port 3).samples) = some [50] := by decide

/-- R397: an ARM at 99 ns is late. -/
theorem test_arm_late :
    got (.arm 0) { sgrp 2 { bnd := .done, leader := 9 } {} with fab := { inbox := [echo 0x1B 1099] } }
      (fun t => ((t.group 0).trel, t.tm.late, t.ce.ev.wait.map (·.code))) = some (1100, 1, [0x53]) := by decide

/-! ### Rings -/

theorem witness_RingsAreWritten :
    let e : CqEntry := { bytes := List.replicate 32 1, irq := false, sq := some 2 }
    let r : EvRec := { tick := 0, code := 1, cause := 0, seq := 0, data := [] }
    let ev : EvRing := { en := true, base := 0x2000, size := 128, wb := 0x100, opened := true, wait := [r], unsig := 1, mtime := 1 }
    let s (v : EvRing) : State := { on0 with
      ce := { ev := v, sq := [(2, { en := true, size := 128, busy := true })]
              cq := [(63, { en := true, base := 0x1000, size := 128, wb := 0x200, tail := 127, head := 1, wait := [e], unsig := 1, mtime := 255 })] } }
    ((s ev).cqr 63).wait = [e] ∧ ((s ev).cqr 63).room = true ∧ (s ev).tw.fenced = false ∧ e.bytes.length = 32 ∧
      (s ev).ce.ev.en = true ∧ (s ev).ce.ev.room = true ∧ { ev with lostNew := 3 }.lostNew ≠ 0 ∧ (s ev).ce.ev.lostNew = 0 ∧
      { ev with tail := 127 }.room = false ∧ ((s ev).cqr 63).unsig ≠ 0 ∧ ((s ev).cqr 63).mtime ≠ 0 ∧ (s ev).ce.ev.unsig ≠ 0 ∧
      (s ev).ce.ev.mtime ≠ 0 ∧ ((s ev).sqr 2).en = true ∧ ((s ev).cqr 63).en = true ∧ { on0.sv with expLast := 32 }.expLast ≠ 0 := by decide

/-- R477: the tail wraps, and is written as a 4 B word. -/
theorem test_completion_entry_write :
    got (.completionEntryWrite 0) { on0 with
      ce := { cq := [(0, { en := true, base := 0x1000, size := 128, wb := 0x200, tail := 127, head := 1
                           wait := [{ bytes := List.replicate 32 7, irq := false, sq := none }] })] } }
      (fun t => ((t.cqr 0).tail, t.hostBytes 0x200 4, t.hostBytes 0x1FE0 2)) = some (0, [0, 0, 0, 0], [7, 7]) := by decide +kernel

/-! ### Clocks, power, one frequency for a job -/

theorem witness_ClocksAreWatched :
    let s := { on0 with ck := { critRun := [(0, 1)], lowRun := [(0, 7)] } }
    let p := { on0 with groups := [(2, { bnd := .phase8, target := 3 })] }
    s.pw.off = false ∧ s.ck.refFault = false ∧ s.clockOff 0 = false ∧ (s.die 0).stop.xing = false ∧
      ([7].map (BitVec.toNat (w := 8)))[0]? = some 7 ∧ 7 < s.ck.crit ∧ 1 ≤ tget 0 s.ck.critRun (0 * 16 + 0) ∧ 7 < s.ck.low ∧
      7 ≤ tget 0 s.ck.lowRun (0 * 16 + 0) ∧ tget 0 s.ck.lowAt 0 = 0 ∧
      (∀ g, g < 8 → (s.group g).bnd ≠ .phase8) ∧ s.ce.state = .loaded ∧ stateMhz s.target ≠ s.ck.cur ∧ s.idleClock = true ∧
      (p.group 2).bnd = .phase8 ∧ p.outdated (p.group 2) = false ∧ stateMhz (p.group 2).target ≠ p.ck.cur ∧
      (∀ h, h < 2 → (p.group h).bnd ≠ .phase8) := by
  decide

theorem witness_LimitersMove :
    let s (p : Power) : State := { on0 with pw := { p with off := false }, ce := { state := .ended }, tm := { tick := 2 ^ 60 } }
    let q := [(0, 15, (1100 : BitVec 16)), (0, 0, 1100)].foldl readSensor (s {}).pw
    (s { watts := 450, capSum := 46000, capN := 10 }).pw.watts ≠ 0 ∧ 10 * 450 * 10 < 46000 ∧
      (let p := { on0.pw with watts := 450, capSum := 30000, capN := 10, hyst := 50, calm := 3 }
       p.capSum + 10 * p.hyst * p.capN < 10 * p.watts * p.capN ∧ 3 ≤ p.calm) ∧
      q.temps ≠ [] ∧ tripsAt [0, 15] ((q.temps.filter (fun e => decide (1100 ≤ signedOf 16 (e.2 - 1)))).map (·.1)) [15, 0] = true ∧
      tripsAt [] [0, 15] [15, 0] = false ∧ 1000 ≤ q.hottest.1 ∧
      0 < (s { therm := 3, coolAt := 1 }).pw.therm ∧ (s { therm := 3, coolAt := 1 }).pw.coolAt ≠ 0 ∧
      (s { therm := 3, coolAt := 1 }).pw.coolAt - 1 + 10000000 ≤ (s {}).now ∧ tget 0 (s {}).pw.coolantAt 1 = 0 ∧
      tget 0 (s {}).pw.coolantAt 2 = 0 ∧ tget 0 (s {}).pw.coolantAt 3 = 0 ∧
      (149 : BitVec 16).toInt < 150 ∧ (199 : BitVec 16).toNat < 200 ∧ 250 < (401 : BitVec 16).toInt - (150 : BitVec 16).toInt ∧
      0 < (s { alert := 1, alertAt := 5 }).pw.alert ∧ (s { alert := 1, alertAt := 5 }).pw.alertAt ≤ (s {}).now ∧
      (s { margin := 1, marginAt := 5 }).pw.marginAt ≤ (s {}).now ∧ (s { lock := 14, lockAt := 5 }).pw.lockAt ≤ (s {}).now ∧
      (let g := s { endAt := 1, gateSpad := true }
       g.ce.state = .ended ∧ g.pw.endAt ≠ 0 ∧ g.pw.gateSpad = true ∧ g.pw.spadOff = false ∧
         g.pw.endAt - 1 + g.pw.gateDelay * 1000000 ≤ g.now) := by decide

theorem witness_JobFrequencyIsShared :
    let th : AtRouter := at1 { pk 0x0E 0x20 with src := 9, data := padTo 16 (leBytes 2 77 ++ leBytes 1 15 ++ leBytes 1 0 ++ leBytes 4 5) }
    let jf : AtRouter := at1 { pk 0x0E 0x21 with src := 9, data := padTo 16 (leBytes 2 77 ++ leBytes 1 15) }
    let s (i : AtRouter) : State :=
      { on0 with
        img := { img0 with groupOf := [(0, 1)], gmods := [(0, 2)], jgid := [(0, 77)] }, fab := { inbox := [i] }
        pw := { on0.pw with limits := [(9, 1 + 16 * 5)] } }
    (s th).img.loaded = true ∧ 1 < (s th).gmods 0 ∧ (s th).leads 0 = false ∧ tget 0 (s th).pw.annLim 0 ≠ (s th).pw.localLimit + 1 ∧
      tget 0 (s th).pw.annAt ((s th).group 0).leader = 0 ∧ (s th).groupOfJg (fieldAt th.pkt.data 0 2) = some 0 ∧
      (s th).groupOfJg (fieldAt jf.pkt.data 0 2) = some 0 ∧ (s th).inAt 0 0x0E 0x20 = some th ∧ (s jf).inAt 0 0x0E 0x21 = some jf ∧
      seqPrecedes (fieldAt th.pkt.data 4 4) ((tget 0 (s th).pw.limits (jobKey 0 9) - 1) / 16) = false := by decide

/-- R405: a reference fault stops the dies and leaves HOLDOVER. -/
theorem test_ref_monitor :
    got (.refMonitor false) on0 (fun t => ((t.die 7).stop.ref, t.tm.state, t.ce.ev.wait.any (fun e => e.code == 0x60 && e.cause == 1))) =
      some (true, .holdover, true) := by decide

/-- R419: the margin register keeps 255 minus the least slack. -/
theorem test_margin_sample :
    got (.marginSample 0 (List.replicate 12 200)) on0 (fun t => tget 0 t.ck.marginMin 0) = some 55 := by decide

/-- R432: a window above the cap makes the cap limiter one state slower. -/
theorem test_cap_window :
    got .capWindow { on0 with pw := { on0.pw with watts := 450, capSum := 4600, capN := 1 } } (fun t => t.pw.cap) = some 1 := by decide

/-- R441: at 100.0 °C the module runs at 400 MHz. -/
theorem test_thermal_sample :
    got (.thermalSample [(0, 0, 1000)]) on0 (fun t => (t.ck.cur, t.pw.therm, t.pw.tj)) = some (400, 14, 1000) := by decide

/-- R440: a regulator alert sets P14. -/
theorem test_reg_alert : got (.regAlert 9) on0 (fun t => (t.pw.alert, t.pw.state)) = some (14, 14) := by decide

/-! ### Serving engine -/

/-- A main model 0 whose draft is model 1, both of group 0, with one lane filled for slot 5, its decision made for token 1. -/
def ssv : State :=
  { one t0 with
    img := { img0 with groupOf := [(0, 1)] }
    sv := {
      models := [(0, { vocab := 2, draft := 0x8001 }), (1, { vocab := 2 })]
      entries := [(5, { state := .decode, maxnew := 9 })]
      grants := [(0, { slot := 5, sample := true, kind := 2, rows := [(0, { count := 2, cands := [(1, 0x3F800000)] })] }),
        (32, { slot := 5, isDraft := true, kind := 2, rows := [(0, { tiles := [(0, 0x80)] })] })] } }

/-- An emit header for model 0, lane 0, row 0, VBASE 0, and 16 logits. -/
def slice0 : Slice := { tile := 0, line := 0x80, data := List.replicate 128 0, txn := 4 }

theorem witness_ServingInstructionsAct :
    let u : Txn := { id := 4, from_ := .tile x0, node := 0, bundle := 0, beats := [], landCnt := none, ackCnt := 0, more := true }
    let s := { ssv with
      sv := { ssv.sv with slices := [slice0, { slice0 with data := List.replicate 128 0xFF }] }
      net := { txns := [u] } }
    s.canIssue x0 .nx = true ∧ s.busyRes 0 .nxServe = false ∧ s.modelOfTile 0 0 = true ∧ (s.laneBytes 0 0 0).length ≤ 2 ^ 20 ∧
      Calm 0 s ∧
      (∀ i, i < 16 → s.bankOn 0 ((0x100 + i) % 16384 * 64) = true) ∧
      (∀ i, i < 16 → ∀ b, b < 64 → s.inCode 0 ((0x100 + i) % 16384 * 64 + b) = false) ∧
      (∀ o ∈ (List.range 2).map (fun i => (16383 + i) % 16384 * 64), s.bankOn 0 o = true) ∧ s.txn? 4 = some u ∧
      s.sv.slices[0]? = some slice0 ∧ s.pathUp (slice0.tile / 256) servingDie = true ∧ (cutOff s).pathUp (slice0.tile / 256) servingDie = false ∧
      (emitHeader slice0.data).bad = false ∧ (emitHeader (List.replicate 128 0xFF)).bad = true ∧
      (s.grantAt 0 0).isSome = true ∧ ((s.grantAt 0 0).map (fun g => (g.sample, g.isDraft, g.d))) = some (true, false, 0) ∧
      (emitHeader slice0.data).midx = 0 ∧ (emitHeader slice0.data).lane = 0 ∧ (emitHeader slice0.data).pidx ≤ 0 := by
  unfold Calm
  decide +kernel

theorem witness_GauntletFeed :
    ssv.mainOf 1 = some 0 ∧ ssv.decided 0 0 = some { tokens := [1] } ∧ ssv.turnEnds (ssv.entry 5) [1] = false ∧
      (ssv.grantAt 1 0).map (fun g => (g.isDraft, g.kind, (g.row 0).fed, (g.row 0).tiles)) = some (true, 2, false, [(0, 0x80)]) ∧
      ((ssv.grantAt 1 0).map (fun g => ssv.feedPath (g.row 0))) = some true ∧ ssv.bankOn 0 (0x80 * 64 + 8) = true ∧ (∀ b, b < 16 → ssv.inCode 0 (0x80 * 64 + 8 + b) = false) := by decide +kernel

theorem witness_PromptsParksAndFeeds :
    let e : Entry := { state := .queued, pthead := 2 ^ 31, plen := 1, prompt := 0x1000 }
    let s (e : Entry) : State := { ssv with sv := { ssv.sv with entries := [(65535, e)] } }
    (s e).wantsPrompt e = true ∧ 4 * ((s e).stagedTokens + (s e).nextChunk e) ≤ 16 * 2 ^ 20 ∧ e.retry = false ∧
      (∀ o ∈ (s e).sv.entries, (s e).wantsPrompt o.2 = true → o.2.retry = false → seqBefore o.2.aseq e.aseq = false) ∧
      (s { e with retry := true }).wantsPrompt { e with retry := true } = true ∧
      ((s { e with transfer := .writing [1, 2] [] }).entry 65535).transfer = .writing [1, 2] [] ∧
      ((s { e with transfer := .reading 7 }).entry 65535).transfer = .reading 7 ∧
      { e with state := .parked, expiry := 1 }.xfer = false := by decide +kernel

/-- R283: a slice's malformed header is counted. -/
theorem test_semit_slice :
    got (.semitSlice 0) { ssv with sv := { ssv.sv with slices := [{ slice0 with data := List.replicate 128 0xFF }] } }
      (fun t => (t.sv.emitBad, t.sv.slices.length)) = some (1, 0) := by decide +kernel

/-- R287: the smallest code stands. -/
theorem test_sstop : got (.sstop x0 0 0 7) ssv (fun t => t.sv.sstops) = some [(0, 8)] := by decide +kernel

/-- R299: an expired park frees the entry with the next generation. -/
theorem test_park_expiry :
    got .parkExpiryCheck { ssv with sv := { entries := [(3, { state := .parked, expiry := 1, gen := 65535 })] }, tm := { tick := 2 ^ 20 } }
      (fun t => t.sv.entries) = some [] := by decide +kernel

/-- R298: the image stands at PARKADDR. -/
theorem test_park_writeout :
    got (.parkWriteoutDone 3) { ssv with sv := { entries := [(3, { state := .paused, parkAddr := 0x1000, transfer := .writing [9, 8] [] })] } }
      (fun t => t.hostBytes 0x1000 2) = some [9, 8] := by decide +kernel

/-! ### Twin failover -/

/-- A packet of the twin, MID 9. -/
def tp (type kind seq : Nat) (d : List Byte) : AtRouter := at1 { pk type (kind + 256 * seq) with src := 9, data := padTo 144 d, len := 8 }

/-- A paired module that runs group 0 of model 0, with messages of the twin. -/
def stw (w : Twin) (l : List AtRouter) : State :=
  { one {} with
    img := { img0 with groupOf := [(0, 1)], id := 5 }
    ce := { state := .running, ev := { opened := true } }
    groups := [(0, { bnd := .step })]
    fab := { inbox := l, plan := { have_ := true, peers := [(15, 9 * 256 + 15)] } }
    sv := { models := [(0, { vocab := 2 })], entries := [(5, { state := .paused, shadow := true })] }
    tw := { w with mid := 9, landings := [(0, { seq := 3 })] } }

/-- The message is the first that a state delivers. -/
def firstIn (s : AtRouter → State) (type : Nat) (l : List AtRouter) : Bool :=
  l.all fun a => (s a).inAt 0 type (a.pkt.aux % 256) == some a

theorem witness_TwinsPairAndMirror :
    let pr := tp 0x0E 0x34 0 (leBytes 2 9 ++ leBytes 1 0 ++ leBytes 5 0 ++ leBytes 8 5)
    let e := tp 0x0D 0x01 3 (leBytes 4 6)
    let f := tp 0x0D 0x02 3 (leBytes 4 5)
    let pe := tp 0x0D 0x03 3 (leBytes 1 0)
    let n := tp 0x0D 0x04 3 (leBytes 8 (2 ^ 56 + 5))
    let fw := tp 0x0D 0x05 3 (List.replicate 16 0 ++ leBytes 4 5)
    let at_ (a : AtRouter) : State := stw { paired := true, asking := true, asked := (16, 14) } [a]
    let s := at_ pr
    let l : Landing := { seq := 3, placed := true, ended := some (9, 0, 0), entries := [(7, 1, [])] }
    firstIn at_ 0x0E [pr] = true ∧ firstIn at_ 0x0D [e, f, pe, n, fw] = true ∧ s.img.loaded = true ∧ s.tw.asking = true ∧
      s.peer 15 = some (fieldAt pr.pkt.data 0 2, 15) ∧ fieldAt pr.pkt.data 2 1 = 0 ∧
      fieldAt pr.pkt.data 8 8 = s.img.id ∧ s.fromTwin e.pkt = true ∧ s.ce.state = .running ∧ (s.group 0).bnd ≠ .idle ∧
      s.pointAtOf 0 3 = .live ∧ fieldAt e.pkt.data 8 1 = 0 ∧
      s.groupOfHandle 5 = some 0 ∧ fieldAt f.pkt.data 0 4 = 5 ∧ (s.landing 0).frames = [] ∧ fieldAt pe.pkt.data 0 1 = 0 ∧
      n.pkt.len = 8 ∧ (s.shadowOf (bits (fieldAt n.pkt.data 0 8) 31 0)).isSome = true ∧
      (s.shadowOf (fieldAt fw.pkt.data 16 4)).isSome = true ∧ l.placed = true ∧ l.ended.isSome = true ∧ 7 ∉ l.drop := by decide +kernel

theorem witness_TwinsWatchEachOther :
    let hb (n : Nat) := tp 0x0E 0x30 0 (leBytes 2 0 ++ leBytes 1 n)
    let dp := tp 0x0E 0x31 0 []
    let fe := tp 0x0E 0x32 0 []
    let gr := tp 0x0E 0x33 0 (leBytes 2 3)
    let iq := tp 0x0E 0x40 0 (leBytes 8 0 ++ leBytes 4 241)
    let ic := tp 0x0E 0x41 0 (leBytes 8 0 ++ leBytes 2 240)
    let ie (status got : Nat) := tp 0x0E 0x42 0 (leBytes 8 status ++ leBytes 8 got)
    let at_ (a : AtRouter) : State := { stw { paired := true } [a] with
      img := { img0 with hostSize := 241, hostAddr := 0x1000 }
      tm := { tick := 35000000 * 65536 }
      ce := { state := .loading, excl := some 0x20, load := some { ask := 240 }, ev := { opened := true } } }
    let s := at_ fe
    let back := stw { paired := true, lost := true } []
    firstIn at_ 0x0E [hb 0, hb 1, dp, fe, gr, iq, ic, ie 0 500, ie 0 0, ie 3 0] = true ∧ s.tw.paired = true ∧ s.tw.lost = false ∧
      s.tw.heard + 35000000 ≤ s.now ∧ s.fromTwin (hb 0).pkt = true ∧ fieldAt (hb 0).pkt.data 2 1 % 2 = 0 ∧
      fieldAt (hb 1).pkt.data 2 1 % 2 = 1 ∧ back.tw.lost = true ∧ back.tw.adopt = false ∧ back.tw.back = false ∧ fe.pkt.src = s.tw.mid ∧
      s.tw.fenced = false ∧ fieldAt gr.pkt.data 0 2 / 8 = s.id.mid / 8 ∧
      fieldAt gr.pkt.data 0 2 ≠ s.id.mid ∧ s.img.loaded = true ∧ s.img.hostSize ≠ 0 ∧ on0.img.hostSize = 0 ∧
      s.ce.load = some { ask := 240 } ∧ fieldAt ic.pkt.data 0 8 = 0 ∧ 0 + 240 ≤ 240 ∧ fieldAt (ie 0 500).pkt.data 0 1 = stOk ∧
      0 < fieldAt (ie 0 500).pkt.data 8 8 ∧ fieldAt (ie 3 0).pkt.data 0 1 ≠ stOk ∧ fieldAt (ie 0 0).pkt.data 8 8 ≤ 0 ∧
      (s.ce.load.map (·.heard)) = some false := by decide +kernel

/-- R463: 35 ms of silence lose the twin, with cause 1. -/
theorem test_heartbeat_missed :
    got .heartbeatMissed { stw { paired := true } [] with tm := { tick := 35000000 * 65536 } }
      (fun t => (t.tw.lost, t.ce.ev.wait.any (fun e => e.code == 0x81 && e.cause == 1))) = some (true, true) := by decide +kernel

/-- R466: FENCE stops every compute die. -/
theorem test_fence :
    got (.fence 0) (stw { paired := true } [tp 0x0E 0x32 0 []]) (fun t => (t.tw.fenced, (t.die 7).stop.fenced)) = some (true, true) := by
  decide +kernel

/-- R461: a NOTICE moves EMITPOS of its shadow. -/
theorem test_notice :
    got (.notice 0) (stw { paired := true } [tp 0x0D 0x04 3 (leBytes 8 (2 ^ 56 + 7 * 2 ^ 32 + 5))])
      (fun t => ((t.entry 5).emitpos, (t.entry 5).ev)) = some (7, true) := by decide +kernel

/-! ### Host commands -/

/-- A state whose submission ring 0 holds one packet of an opcode and a payload. -/
def ring (op : Nat) (p : List Byte) (s : State) (flags resv : Nat) : State :=
  let bs := leBytes 2 op ++ leBytes 2 flags ++ leBytes 4 0x77 ++ leBytes 2 p.length ++ leBytes 6 resv ++ p
  { s with
    mem := { s.mem with host := mputs s.mem.host 0x1000 bs }
    ce := { s.ce with sq := [(0, { en := true, base := 0x1000, size := 256, tail := packetEntries p.length })]
                      cq := [(0, { en := true, base := 0x9000, size := 16 })] } }

/-- The packet at the head of ring 0 satisfies what `CmdReady` asks. -/
def rdy (op : Nat) (p : List Byte) (s : State) : Bool :=
  match s.headPacket 0 with
  | some (c, _) => c.payload == p && c.opcode == op && decide (c.length ≤ 4080) && c.flags / 2 == 0 && c.resv == 0 &&
      s.nextRing == some 0 && s.ce.excl == none && s.ce.state != .loading && (op != 0xF0 || s.fw.staging == none)
  | none => false

/-- The Boolean form says it. -/
theorem rdy_ready (op : Nat) (p : List Byte) (s : State) (h : rdy op p s = true) :
    ∃ c n, s.headPacket 0 = some (c, n) ∧ CmdReady s 0 op c ∧ c.payload = p := by
  unfold rdy at h
  split at h
  · rename_i c n hp
    simp only [Bool.and_eq_true, Bool.or_eq_true, beq_iff_eq, decide_eq_true_eq, bne_iff_ne, ne_eq] at h
    obtain ⟨⟨⟨⟨⟨⟨⟨⟨h1, h2⟩, h3⟩, h4⟩, h5⟩, h6⟩, h7⟩, h8⟩, h9⟩ := h
    exact ⟨c, n, hp, ⟨⟨n, hp⟩, h6, h2, ⟨h3, h4, h5⟩, h7, h8, fun o => h9.resolve_left (fun x => x o)⟩, h1⟩
  · simp at h

/-- The state with one packet of a command. -/
def cmd (op : Nat) (p : List Byte) (s : State) : State := ring op p s 0 0

/-- `n` zero bytes. -/
def zs (n : Nat) : List Byte := List.replicate n 0

/-- A state in another module state. -/
def inState (m : ModState) (s : State) : State := { s with ce := { s.ce with state := m } }

/-- A state whose image's die belongs to group 0, which this module leads. -/
def on1 : State := { on0 with img := { img0 with groupOf := [(0, 1)], serving := true }, groups := [(0, { leader := 0 })] }

/-- What the checks look at. -/
def headOf (s : State) : List Nat :=
  match s.headPacket 0 with
  | some (c, _) => [c.opcode, c.length, c.flags / 2, c.resv, s.nextRing.getD 64]
  | none => []

/-- Every clause of the checks has its packet: an undefined opcode, a length, a reserved flag, a busy command, a state. -/
theorem witness_CommandsMeetTheirChecks :
    headOf (cmd 0x0012 [] on0) = [0x12, 0, 0, 0, 0] ∧ opcodes.contains 0x12 = false ∧
      headOf (cmd 0x0010 [0] on0) = [0x10, 1, 0, 0, 0] ∧
      headOf (ring 0x0010 [] on0 2 0) = [0x10, 0, 1, 0, 0] ∧
      headOf (ring 0x0010 [] on0 0 1) = [0x10, 0, 0, 1, 0] ∧
      (cmd 0x0030 [] (inState .loading on0)).cmdBusy
        { opcode := 0x30, lenOk := (· == []), states := (· == .loaded) } = true ∧
      headOf (cmd 0x0030 [] (inState .ended on0)) = [0x30, 0, 0, 0, 0] ∧
      (hostCommands on0 0 true).length = 29 := by decide +kernel

theorem witness_SetupCommandsAct :
    rdy 0x10 [] (cmd 0x10 [] on0) = true ∧
      (let p := leBytes 8 0x20000 ++ leBytes 4 1088 ++ zs 4
       rdy 0x11 p (cmd 0x11 p on0) = true ∧ fieldAt p 0xC 4 = 0 ∧ fieldAt p 0 8 % 8 = 0 ∧ 1088 ≤ fieldAt p 8 4) ∧
      (let p := leBytes 8 0x20000 ++ leBytes 8 0
       rdy 0x20 p (cmd 0x20 p on0) = true ∧ fieldAt p 0 8 % 8 = 0 ∧ fieldAt p 0 8 ≠ 0 ∧ on0.ck.refFault = false ∧
       loadStates on0.ce.state = true) ∧
      rdy 0x21 [] (cmd 0x21 [] (inState .ended on0)) = true := by decide +kernel

theorem witness_SetupCommandsAct_map_and_run :
    (let p : List Byte := [7, 1, 1, 0, 15, 0, 3, 0]
     rdy 0x22 p (cmd 0x22 p on0) = true ∧ mapLen p = true ∧
     (cmd 0x22 p on0).mapRecOk 7 1 ((p.drop 4).take 4) = true) ∧
      rdy 0x30 [] (cmd 0x30 [] on1) = true ∧ on1.usedGroups = [0] ∧ on1.gmods 0 ≤ 1 ∧
      rdy 0x31 [] (cmd 0x31 [] (inState .running on1)) = true ∧
      (let p := leBytes 1 0 ++ leBytes 1 0 ++ leBytes 2 0 ++ leBytes 4 0 ++ leBytes 8 (2 ^ 64 - 1)
       rdy 0x32 p (cmd 0x32 p on1) = true ∧ on1.groupUsed 0 = true ∧ on1.id.mid = 0) := by decide +kernel

theorem witness_SetupCommandsAct_still : (cmd 0x31 [] (inState .running on1)).Still :=
  ⟨fun _ => ⟨rfl, rfl, rfl⟩, fun _ => rfl⟩

theorem witness_SetupCommandsAct_power_and_pool :
    (let p : List Byte := [7, 14, 0xFF, 0] ++ leBytes 2 450 ++ leBytes 2 0
     rdy 0x50 p (cmd 0x50 p on0) = true ∧ wattsOk (fieldAt p 4 2) = true) ∧
      (let p : List Byte := [0, 14, 0, 0, 0, 0, 0, 0]
       rdy 0x51 p (cmd 0x51 p on1) = true ∧ on1.leads 0 = true ∧ on1.ce.state.image = true ∧ on1.groupUsed 0 = true) ∧
      (let p : List Byte := [0, 0] ++ leBytes 2 1 ++ leBytes 2 0 ++ zs 2 ++ leBytes 4 1 ++ zs 4 ++ leBytes 4 0x2000 ++ leBytes 4 1
       rdy 0x60 p (cmd 0x60 p on0) = true ∧ poolLen p = true ∧ poolRanges p = [(0x2000, 1)] ∧
       (cmd 0x60 p on0).rangeOk 0 [] (0x2000, 1) = true ∧ (poolFrames p).length = 0) := by decide +kernel

/-- A SUBMIT of model 0 with completion ring 0. -/
def sub (handle flags : Nat) : List Byte :=
  leBytes 4 handle ++ leBytes 2 0 ++ leBytes 2 flags ++ leBytes 4 3 ++ leBytes 4 9 ++ leBytes 8 0x3000 ++ zs 56

/-- A state whose slot 5 holds a request in a state. -/
def holds (e : Entry) : State := { on1 with sv := { models := [(0, { vocab := 8, kvgeo := 0 })], entries := [(5, e)] } }

/-- `P` of the fields of the payload. -/
def subOk (p : List Byte) (e : Entry) : Bool :=
  let s := cmd 0x40 p (holds e)
  rdy 0x40 p s && s.img.loaded && s.img.serving && firstBad (s.subParams p (subOf p) e) == (0, 0) &&
    !s.staleMask (subOf p).maskh && s.newSlot == some 0 && !s.staleHandle (subOf p).handle

theorem witness_RequestCommandsAct_submit :
    subOk (sub 0 0) {} = true ∧ (subOf (sub 0 0)).cont = false ∧ (subOf (sub 0 0)).pre = 0 ∧
      subOk (sub 5 1) { state := .paused } = true ∧ (subOf (sub 5 1)).cont = true := by decide +kernel

theorem witness_RequestCommandsAct :
    let e : Entry := { state := .decode }
    let i : State := holds e
    (let p := leBytes 4 5 ++ zs 4
     rdy 0x41 p (cmd 0x41 p i) = true ∧ i.staleHandle 5 = false ∧ cancelFrom e = true ∧ i.mirrored 5 = false) ∧
      (let p := leBytes 4 5 ++ leBytes 4 0xFFFFFFFF ++ leBytes 8 8 ++ leBytes 8 (parkSize (i.model 0) 0 0)
       rdy 0x42 p (cmd 0x42 p i) = true ∧ parkFrom e = true ∧ parkSize (i.model 0) e.cls e.w = 0x40) ∧
      (let p := leBytes 4 5 ++ zs 4
       rdy 0x43 p (cmd 0x43 p (holds { state := .parked })) = true) ∧
      (let p := leBytes 4 5 ++ zs 4 ++ leBytes 8 0x3000
       rdy 0x44 p (cmd 0x44 p i) = true) := by decide +kernel

theorem witness_RequestCommandsAct_pins :
    let e : Entry := { state := .decode, pthead := 2 ^ 31, pdone := 1 }
    let pin := leBytes 1 0 ++ zs 3 ++ leBytes 4 5 ++ leBytes 4 1 ++ zs 4
    let unpin := leBytes 1 1 ++ zs 3 ++ leBytes 4 2 ++ zs 8
    (let s := cmd 0x61 pin (holds e)
     rdy 0x61 pin s = true ∧ s.staleHandle 5 = false ∧ refV e.pthead = true ∧
       1 * geoTpp (s.model e.midx).kvgeo ≤ e.w ∧ (∀ r ∈ s.prefixPins e 1, (s.counts r).hpins < 65535) ∧
       s.freePrefix 4095 1 = some 1) ∧
      (let s := { cmd 0x61 unpin (holds e) with sv := { (holds e).sv with prefixes := [(2, { live := true })] } }
       rdy 0x61 unpin s = true ∧ (s.prefixOf 2).isSome = true ∧
       ∀ e ∈ s.sv.entries, e.2.state = .queued → refV e.2.pthead = false → e.2.prefH ≠ 2) := by decide +kernel

/-- A module with a plan and a path to its leader by port 3. -/
def planned : State :=
  { on1 with
    id := { valid := true }
    fab := { plan := { have_ := true, leader := 5 }, paths := [(5, 2 ^ 80 + 3 + 0x1E * 32)], ports := [(3, { svc := .up, lanes := 4 }), (15, { svc := .up, lanes := 4, status := 0 })] } }

/-- A plan command and its image at 0x20000. -/
def planCmd (flags : Nat) (s : State) : State :=
  let size := if flags = 0 then 0xC200 else 0x200
  let s := cmd 0x70 (leBytes 8 0x20000 ++ leBytes 4 size ++ leBytes 4 7 ++ leBytes 2 flags ++ zs 6) s
  { s with mem := { s.mem with host := mputs s.mem.host 0x20000 (zs 6 ++ [0x1F, 0x1F, 7]) } }

/-- The conditions of the plan statement. -/
def planOk (flags : Nat) (s : State) : Bool :=
  let s := planCmd flags s
  let size := if flags = 0 then 0xC200 else 0x200
  rdy 0x70 (leBytes 8 0x20000 ++ leBytes 4 size ++ leBytes 4 7 ++ leBytes 2 flags ++ zs 6) s && !s.switching

theorem witness_FabricCommandsAct_plans :
    planOk 0 (inState .starting planned) = true ∧ planOk 1 (inState .running planned) = true ∧ planOk 0 planned = true ∧
      (planCmd 1 (inState .running planned)).planBad ⟨(planCmd 1 planned).mem.host, 0x20000, 0x200⟩ 7 false = false := by
  decide +kernel

/-- Above every listed byte memory reads as 0. -/
theorem num_above (m : Memory) (n a : Nat) (h : m.all (fun e => decide (e.1 < a)) = true) : leNat (mgets m a n) = 0 := by
  have hg : ∀ b, a ≤ b → mget m b = 0 := by
    intro b hb
    unfold mget
    induction m with
    | nil => rfl
    | cons e l ih =>
      simp only [List.all_cons, Bool.and_eq_true, decide_eq_true_eq] at h
      unfold tget
      split
      · omega
      · exact ih h.2
  have hz : ∀ n b, a ≤ b → leNat (mgets m b n) = 0 := by
    intro n
    induction n with
    | zero => intros; rfl
    | succ n ih => intro b hb; simp only [mgets, leNat, hg b hb, ih (b + 1) (by omega)]; rfl
  exact hz n a (Nat.le_refl a)

theorem witness_FabricCommandsAct_full_plan :
    (planCmd 0 planned).planBad ⟨(planCmd 0 planned).mem.host, 0x20000, 0xC200⟩ 7 true = false := by
  have hm : (planCmd 0 planned).mem.host.all (fun e => decide (e.1 < 0x20200)) = true := by decide +kernel
  have hp : ∀ m, Src.pathEntry ⟨(planCmd 0 planned).mem.host, 0x20000, 0xC200⟩ m = 0 := fun m =>
    num_above _ 16 _ (List.all_eq_true.mpr fun e he => by
      have h := of_decide_eq_true (List.all_eq_true.mp hm e he); exact decide_eq_true (by dsimp only; omega))
  have hg : ∀ g, Src.mcastEntry ⟨(planCmd 0 planned).mem.host, 0x20000, 0xC200⟩ g = 0 := fun g =>
    num_above _ 8 _ (List.all_eq_true.mpr fun e he => by
      have h := of_decide_eq_true (List.all_eq_true.mp hm e he); exact decide_eq_true (by dsimp only; omega))
  have h1 : (planCmd 0 planned).planBad ⟨(planCmd 0 planned).mem.host, 0x20000, 0xC200⟩ 7 false = false := by decide +kernel
  unfold State.planBad at h1 ⊢
  simp only [Bool.false_and, Bool.or_false] at h1
  rw [h1]
  have p0 : pathBad 0 = false := by decide
  have g0 : mcastBad 0 = false := by decide
  simp [hp, hg, p0, g0]

theorem witness_FabricCommandsAct :
    (let p := leBytes 8 0x20000 ++ leBytes 4 272 ++ zs 4
     rdy 0x71 p (cmd 0x71 p planned) = true) ∧
      rdy 0x72 [] (cmd 0x72 [] planned) = true ∧ (planned.pathOf planned.fab.plan.leader).isSome = true ∧
      planned.fab.ep.joined = false ∧ planned.fab.ep.complete = false ∧ planned.fab.ep.silent = none ∧ planned.fab.stPaths = [] ∧
      (let p : List Byte := [1, 8] ++ zs 6 ++ leBytes 16 (3 + 0x1E * 32)
       let s := { cmd 0x80 p planned with img := { img0 with twin := true } }
       rdy 0x80 p s = true ∧ fieldAt p 8 16 % 32 ≠ 15 ∧ fieldAt p 8 16 < 2 ^ 80 ∧ legalPath (fieldAt p 8 16) = true ∧
       s.otherHalfBusy = false ∧ s.twinPortOk = true) ∧
      rdy 0x80 (zs 24) (cmd 0x80 (zs 24) planned) = true ∧
      rdy 0x81 [] (cmd 0x81 [] { planned with tw := { lost := true } }) = true := by decide +kernel

theorem witness_MemoryCommandsAct_scratchpad :
    let ga := 0xFFFF8
    let p := leBytes 8 ga ++ leBytes 4 8 ++ zs 4 ++ leBytes 8 0x20000
    rdy 0x90 p (cmd 0x90 p on1) = true ∧ rdy 0x91 p (cmd 0x91 p on1) = true ∧ on1.gaMine ga = true ∧ gaSpace ga = 0 ∧
      on1.bound (gaDie ga) (gaBlock ga) = true ∧ gaOff ga + 8 ≤ 2 ^ 20 ∧ on1.mem.spadErr = [] ∧
      ∀ i, i < 8 → on1.bankOn (gaDie ga * 256 + gaBlock ga) (gaOff ga + i) = true := by decide +kernel

theorem witness_MemoryCommandsAct_counters :
    let p (set arg : Nat) := leBytes 2 set ++ leBytes 2 arg ++ zs 4 ++ leBytes 8 0x20000 ++ leBytes 4 4096 ++ zs 4
    let c (set arg : Nat) := leBytes 2 set ++ leBytes 2 arg ++ zs 4
    let s := holds {}
    rdy 0xA0 (p 1 0) (cmd 0xA0 (p 1 0) s) = true ∧ rdy 0xA0 (p 4 0) (cmd 0xA0 (p 4 0) s) = true ∧ s.statArg 1 0 = true ∧
      s.statArg 4 0 = true ∧ (s.statSet 1 0).length ≤ 4096 ∧ (s.statSet 4 0).length ≤ 4096 ∧
      rdy 0xA1 (c 2 0) (cmd 0xA1 (c 2 0) s) = true ∧ s.statArg 2 0 = true ∧
      rdy 0xA1 (c 3 7) (cmd 0xA1 (c 3 7) s) = true ∧ s.statArg 3 7 = true := by decide +kernel

theorem witness_MemoryCommandsAct_hardware :
    let r := 0x10000000
    let p := leBytes 4 r ++ zs 4
    let fw (op len a : Nat) := leBytes 1 op ++ zs 3 ++ leBytes 4 len ++ leBytes 8 a
    let s : State := { on1 with fw := { staged := some (3, 4) } }
    rdy 0xB0 p (cmd 0xB0 p on1) = true ∧ residOk r = true ∧ on1.retiredAll = [] ∧
      (let t : State := { on1 with er := { retired := [r] } }
       rdy 0xB1 p (cmd 0xB1 p t) = true ∧ t.retiredAll = [r]) ∧
      rdy 0xF0 (fw 0 256 0x20000) (cmd 0xF0 (fw 0 256 0x20000) s) = true ∧ rdy 0xF0 (fw 1 0 0) (cmd 0xF0 (fw 1 0 0) s) = true := by
  decide +kernel

/-! ### Supplies, start-up, the debug port and the registers -/

theorem witness_NoOperationsAndCset : (one t0).canIssue x0 .ct = true := by decide

theorem witness_SuppliesAndResetsAct :
    let v : EvRing := { opened := true }
    let s (b : Boot) (p : Power) : State := { on0 with boot := b, pw := p, ce := { ev := v } }
    let on : Power := { off := false, pA := true }
    (s {} on).boot.pwrWait = false ∧ (s { pwrWait := true } {}).boot.pwrWait = true ∧ (s {} on).boot.resetN = false ∧
      (s {} { off := true }).pw.pA = false ∧ (s {} { on with pB := true }).pw.pB = true ∧ (s {} { off := false, pB := true }).pw.pA = false ∧
      (s { pwrOk := false } on).boot.pwrOk = false ∧ (s { pwrOk := true } on).boot.pwrOk = true ∧ (s {} on).atWork = false ∧
      { (s {} on) with ce := { state := .running } }.atWork = true ∧
      (s { perst := false } on).boot.perst = false ∧ (s { perst := true, started := false } on).ce.state = .starting ∧
      (s { resetN := true, perst := false } on).boot.perst = false ∧ on0.boot.pcie = true ∧
      { (s { started := true, phase := 0 } on) with fw := { booting := true } }.fw.booting = true ∧
      (s { standby := false } on).boot.standby = false ∧ (s {} on).ce.ev.opened = true := by decide

theorem witness_StartupGoesThroughPhases :
    let s (b : Boot) : State := { on0 with ce := {}, boot := { b with started := true, pwrOk := true } }
    let nb : AtRouter := at1 (pk 0x0E ctlNeighbour)
    let f : State := { s { phase := 7 } with fab := { ports := [(15, { idWait := true })], inbox := [nb] } }
    (s { phase := 0 }).inPhase 0 = true ∧ (s { phase := 1, waitId := false }).inPhase 1 = true ∧ selfTested 0x10000000 = true ∧
      (s { phase := 1, ident := some 15 }).boot.ident = some 15 ∧ (s { phase := 2 }).inPhase 2 = true ∧
      (s { phase := 3 }).inPhase 3 = true ∧ (s { phase := 3, heldPlan := some (63, []) }).boot.heldPlan = some (63, []) ∧
      f.inAt 0 0x0E ctlNeighbour = some nb ∧ nb.port = some 3 ∧ f.inPhase 3 = false ∧ (f.port 15).idWait = true ∧
      (s { phase := 6, checked := true, aligned := false }).inPhase 6 = true := by decide +kernel

theorem witness_SmbusAndHaltsAct :
    let d (st : DieStop) (e : Bool) : State := { on0 with dies := [(0, { stop := st })], dbg := { enabled := e, stepN := 1 } }
    on0.boot.standby = true ∧ { on0 with boot := {} }.boot.standby = false ∧ (15#8).toNat < 16 ∧ 16 ≤ (16#8).toNat ∧
      (d {} true).pw.off = false ∧ ((d {} true).die 0).haltable = true ∧ (d {} true).clockOff 0 = false ∧
      ((d { halted := true } true).die 0).stop.step = none ∧ ((d { halted := true, step := some 0 } true).die 0).stop.halted = true ∧
      { on0 with ce := {}, boot := { standby := true, phase := 1, started := true, waitId := true, pwrOk := true } }.inPhase 1 = true := by decide +kernel

theorem witness_TapScansRegisters :
    let s (f : Debug) : State := { on0 with dbg := f }
    on0.boot.standby = true ∧ (s {}).dbg.enabled = false ∧ (s { enabled := true }).dbg.enabled = true ∧
      bits (3 * 2 ^ 48 + 8 * 2 ^ 32 + 5) 48 32 ≠ 0 ∧ bits (8 * 2 ^ 32 + 2 ^ 49) 48 32 = 8 ∧ bit (8 * 2 ^ 32 + 2 ^ 49) 49 = true ∧
      (s { pendAcc := some (0xFFFF8, true, 3) }).dbg.pendAcc = some (0xFFFF8, true, 3) ∧ on0.pw.off = false ∧
      on0.gaMine 0xFFFF8 = true ∧ on0.gaMine 0xFFFF9 = false ∧ on0.bound 0 0 = true ∧ on0.bankOn 0 0xFFFF8 = true ∧
      (on0.accessSlot 0xFFFF8 true).isSome = true ∧ ({ on0 with tiles := [(0, { used := [15] })] } : State).accessSlot 0xFFFF8 true = none ∧
      bits (16 * 2 ^ 32) 48 32 % 8 = 0 ∧ bit (16 * 2 ^ 32) 49 = false ∧
      on0.mem.spadErr = [] ∧ { on0 with pw := { off := true } }.pw.off = true := by decide +kernel

theorem witness_IdcodeIsCaptured : on0.boot.standby = true := rfl

theorem witness_StrictTakesValueWithoutImage :
    { on0 with img := {} }.boot.pcie = true ∧ { on0 with img := {} }.img.loaded = false ∧ on0.img.loaded = true ∧
      Part.upper ≠ Part.whole ∧ Part.upper ≠ Part.lower := by decide

theorem witness_RegistersTakeWrites :
    let s : State := { on0 with ce := { sq := [(63, { size := 128 })], cq := [(63, { size := 128 })], ev := { size := 128 } } }
    let e : State := { on0 with ce := { sq := [(63, { en := true, size := 128 })] } }
    s.boot.pcie = true ∧ (s.sqr 63).en = false ∧ (s.cqr 63).en = false ∧ s.ce.ev.en = false ∧ (e.sqr 63).en = true ∧
      bits (2 ^ 63 + 127) 12 0 < (e.sqr 63).size ∧ (e.sqr 63).size ≤ bits 128 12 0 ∧ (0x3000 / 8 + 5) < 0x10000 / 8 ∧
      0xE0080 / 8 < 131072 := by decide +kernel

theorem witness_DataRegistersAct :
    let s (v : Serve) : State := { on0 with sv := v }
    on0.boot.pcie = true ∧ (s {}).sv.tblState ≠ 1 ∧ bits (s { tblAddr := 2 ^ 23 - 1 }).sv.tblAddr 63 62 = 0 ∧
      (s {}).sv.staged < 524288 ∧ (s { tblState := 1 }).sv.tblState = 1 ∧ (s { gtAddr := 1023 }).sv.gtAddr < 1024 ∧
      (s {}).sv.gtState ≠ 1 ∧ on0.switching = false ∧
      bits { on0.fab with stAddr := 2 ^ 62 + 4095 * 16 }.stAddr 63 62 = 1 ∧
      tget 0 { on0.bus with latch := [(0x50000, 8)] }.latch 0x50000 = 1 + 7 := by decide +kernel

theorem witness_EmptyQueueLetsACycPass :
    let s : State := { one { seq := .waiting 1 } with dies := [(7, { stop := { fault := true } })] }
    s.pending = [] ∧ twf {} s.tiles = true ∧ s.Still ∧ (s.die 0).runs = true ∧ (s.die 7).runs = false ∧
      (s.tile 0).faultNow = false ∧ (s.tile 0).seq = .waiting (0 + 1) ∧ ((one { seq := .ended }).tile 0).seq = .ended ∧
      { s with fw := { staging := some (0x1000, 256) } }.pending = [] := by
  refine ⟨by decide, by decide, ⟨fun k => ?_, fun d => ?_⟩, by decide, by decide, by decide, by decide, by decide, by decide⟩
  · by_cases h : k = 0
    · subst h; decide
    · simp [State.tile, one, tget, on0, Ne.symm h]
  · by_cases h : d = 7
    · subst h; decide
    · simp [State.die, tget, Ne.symm h]

/-- A lost bank: the fetch and a VCFG claim bank 0 in one cyc. -/
def sbank : State := one { t0 with fetch := true, jobs := [⟨.vx, 0, 0, 3, .cfg { cfg := 0, lines := [0x2000, 0x2040] }⟩] }

theorem witness_BanksServeOneAccess :
    (sbank.tile 0).seq ≠ .faulted ∧ ((sbank.banks 0).rd[0]?).getD [] ≠ [] ∧
      (∃ a ∈ sbank.claims 0, ∃ b ∈ sbank.claims 0, a.bank = b.bank ∧ a.loses (sbank.claims 0) = false ∧
        b.loses (sbank.claims 0) = false) ∧
      (let s := one { t0 with jobs := (sbank.tile 0).jobs }
       (∀ a ∈ s.claims 0, a.loses (s.claims 0) = false) ∧ (s.tile 0).fetch = false ∧ (s.tile 0).jobs.length = 1) := by decide

/-- R68: the VX access loses the bank to the fetch; the tile faults with BANK_CONFLICT and its die stops. -/
theorem test_bank_conflict :
    (match step sbank with | .next t => some ((t.tile 0).seq, (t.tile 0).fault, (t.die 0).stop.fault) | _ => none) =
      some (.faulted, 6, true) := by decide +kernel

/-- R99, R105: in the cyc of issue MSWAP's work is done at the end, and the next bundle issues. -/
theorem test_tick_runs_job :
    (match step (one { t0 with jobs := [⟨.mx, 0, 0, 1, .swap⟩], mx := { shadow := { vlast := 5 } } }) with
      | .next t => some ((t.tile 0).mx.active.vlast, (t.tile 0).jobs.length, (t.tile 0).pc, (t.die 0).cyc)
      | _ => none) = some (5, 0, 1, 1) := by decide +kernel

theorem witness_SlotWordsStandForInstructions :
    (Instr.cset x0 3 0x1FFF).wf = true ∧ (Instr.cset x0 3 0x1FFF).site? = some x0 ∧ slotLegal .ct 0 = true := by decide +kernel

theorem witness_TileStepsKeepMemoriesCanonical :
    let s : State := { one t0 with pending := [.cset x0 3 0x1FFF] }
    s.memWf = true ∧ s.pending = .cset x0 3 0x1FFF :: [] ∧ (Instr.cset x0 3 0x1FFF).site? = some x0 ∧
      (match step s with | .next t => t.memWf | _ => false) = true := by decide +kernel

/-- R524: the code of B0, and of A1. -/
theorem test_idcode :
    got .idcode { on0 with made := { b0 := true } } (fun t => t.dbg.dr) = some 0x2834C5E7 ∧
      got .idcode { on0 with made := { b0 := false } } (fun t => t.dbg.dr) = some 0x1834C5E7 := by decide +kernel

/-- Chapter 15: a ceiling above P14 is P14. -/
theorem test_pw_ceil : got (.pwCeil .whole 15) on0 (fun t => t.pw.ceil) = some 14 := by decide +kernel

/-- Table 20-5: a read of TM_TICK_LO latches the upper half. -/
theorem test_tick_latch :
    got .tmTickLo { on0 with tm := { tick := (2 ^ 32 + 5) * 65536 } } (fun t => (t.bus.rdata, tget 0 t.bus.latch 0x50000)) =
      some (5, 2) := by decide +kernel

/-- R114: CE_MODE keeps its value while an image is loaded. -/
theorem test_ce_mode :
    got (.ceMode .whole 1) on0 (fun t => t.ce.strict) = some false ∧
      got (.ceMode .whole 1) { on0 with img := {} } (fun t => t.ce.strict) = some true := by decide +kernel

/-- Table 21-5: LASTOFF 2 after the last input is lost. -/
theorem test_input_lost : got (.inputLost false) on0 (fun t => (t.boot.lastOff, t.pw.off)) = some (2, true) := by decide +kernel

/-- Chapter 21: a byte with a wrong packet check is not acknowledged. -/
theorem test_debug_en :
    got (.debugEn (some 1) false) on0 (fun t => (t.dbg.enabled, t.bus.smbAck)) = some (false, false) ∧
      got (.debugEn (some 1) true) on0 (fun t => (t.dbg.enabled, t.bus.smbAck)) = some (true, true) := by decide +kernel

/-- Chapter 20: IDENTIFY answers the stepping at 0x18 of its completion entry. -/
theorem test_identify :
    got (.identify 0) { cmd 0x10 [] on0 with made := { b0 := true } }
      (fun t => ((t.cqr 0).wait.map (fun e => (e.bytes.getD 24 9, e.bytes.length)), (t.sqr 0).head)) =
      some ([(0xB0, 32)], 1) := by decide +kernel

/-- A step takes the front command. -/
theorem test_step_front :
    (match step { one t0 with pending := [.bypass, .tapReset] } with | .next t => some (t.pending, t.dbg.ir) | _ => none) =
      some ([.tapReset], 0xFF) := by decide +kernel

end Sys2Proof.Tests
end

section
/-! The settled statements of chapter 4 on CSET (R134) and on CE_MODE (R114), with the rules of the state and of the
registers that they rest on. -/

namespace Sys2Proof.Machine

/-! ### Updates that stay within one tile -/

theorem OnlyTile.trans {k : Nat} {s t u : State} (a : OnlyTile k s t) (b : OnlyTile k t u) : OnlyTile k s u := by
  obtain ⟨frameA, othersA⟩ := a
  obtain ⟨frameB, othersB⟩ := b
  refine ⟨?_, fun j hj => (othersB j hj).trans (othersA j hj)⟩
  rw [frameB, frameA]

theorem onlyTile_modTile (s : State) (k : Nat) (f : Tile → Tile) : OnlyTile k s (s.modTile k f) := by
  refine ⟨rfl, fun j hj => ?_⟩
  rw [State.tile_modTile, if_neg hj]

theorem onlyTile_pass (s : State) (x : Site) (sl : Slot) : OnlyTile x.key s (s.pass x sl) :=
  onlyTile_modTile s x.key _

/-! ### CSET (R134) -/

/-- Where its tile issues, CSET passes the turn of the control slot on and sets its counter. -/
theorem exec_cset_of_canIssue (x : Site) (cnt : BitVec 4) (imm : BitVec 20) (s : State)
    (h : s.canIssue x .ct = true) :
    exec (.cset x cnt imm) s = .next ((s.pass x .ct).modTile x.key fun t =>
      { t with ctr := tset 0 t.ctr cnt.toNat imm }) :=
  congrArg Host.Outcome.next (issue_of x .ct s _ h)

/-- Settles O2: the no-operations are the identity arms of `exec`, and CSET is two updates of its own tile. -/
theorem noOperationsAndCset : Obligations.NoOperationsAndCset := by
  intro x cnt imm s
  refine ⟨rfl, rfl, rfl, rfl, rfl, fun h => ⟨_, exec_cset_of_canIssue x cnt imm s h, ?_, ?_, ?_⟩⟩
  · intro j
    rw [State.tile_modTile_same, tget_tset, State.tile_pass_same]
  · rw [State.tile_modTile_same, State.tile_pass_same, Slot.rank]
  · exact (onlyTile_pass s x .ct).trans (onlyTile_modTile _ x.key _)

/-! ### Writes of CE_MODE (R114, R544) -/

/-- The row of CE_MODE and REGISTER_WRITE of word 0 are the same write through BAR0. -/
theorem exec_ceMode_write {i : Instr} {p : Part} {v : BitVec 64} (s : State)
    (h : i = .ceMode p v ∨ i = .registerWrite 0 p v) : exec i s = .next (barWrite s 0 p v) := by
  obtain rfl | rfl := h
  · rfl
  · rfl

/-- A write that leaves the register, whatever bytes of it reach it, leaves the state. -/
theorem barWrite_of_writeReg_eq (s : State) (off : Nat) (p : Part) (v : BitVec 64)
    (h : ∀ w, wrOf p v = some w → writeReg s off w = s) : barWrite s off p v = s := by
  unfold barWrite
  split
  · split
    · next w hw => exact h w hw
    · rfl
  · rfl

/-- A write of 4 or 8 B through an endpoint that is up reaches its register. -/
theorem barWrite_of_wrOf (s : State) (off : Nat) (p : Part) (v : BitVec 64) (w : Wr)
    (up : s.boot.pcie = true) (h : wrOf p v = some w) : barWrite s off p v = writeReg s off w := by
  simp [barWrite, up, h]

theorem writeReg_ceMode_of_loaded (s : State) (w : Wr) (h : s.img.loaded = true) : writeReg s 0 w = s := by
  simp [writeReg, ceWrite, h]

theorem writeReg_ceMode_of_not_loaded (s : State) (w : Wr) (h : s.img.loaded = false) :
    writeReg s 0 w = { s with ce := { s.ce with strict := w.flag 0 s.ce.strict } } := by
  simp [writeReg, ceWrite, h, State.modCe]

/-- STRICT lies in the lower half: a write of it or of the whole register carries bit 0 of the data. -/
theorem wrOf_flag_zero (p : Part) (v : BitVec 64) (old : Bool) (h : p = .whole ∨ p = .lower) :
    ∃ w, wrOf p v = some w ∧ w.flag 0 old = bit v.toNat 0 := by
  obtain rfl | rfl := h
  · exact ⟨⟨v.toNat, 0, 63⟩, rfl, rfl⟩
  · exact ⟨⟨v.toNat, 0, 31⟩, rfl, rfl⟩

/-- A write of any other part does not carry bit 0. -/
theorem flag_zero_of_wrOf (p : Part) (v : BitVec 64) (old : Bool) (whole : p ≠ .whole) (lower : p ≠ .lower)
    (w : Wr) (h : wrOf p v = some w) : w.flag 0 old = old := by
  cases p with
  | whole => exact absurd rfl whole
  | lower => exact absurd rfl lower
  | upper => obtain rfl := Option.some.inj h; rfl
  | bytes a two => cases h

theorem barWrite_ceMode_of_loaded (s : State) (p : Part) (v : BitVec 64) (h : s.img.loaded = true) :
    barWrite s 0 p v = s :=
  barWrite_of_writeReg_eq s 0 p v fun w _ => writeReg_ceMode_of_loaded s w h

theorem barWrite_ceMode_of_not_loaded (s : State) (p : Part) (v : BitVec 64) (up : s.boot.pcie = true)
    (h : s.img.loaded = false) (part : p = .whole ∨ p = .lower) :
    barWrite s 0 p v = { s with ce := { s.ce with strict := bit v.toNat 0 } } := by
  obtain ⟨w, hw, hflag⟩ := wrOf_flag_zero p v s.ce.strict part
  rw [barWrite_of_wrOf s 0 p v w up hw, writeReg_ceMode_of_not_loaded s w h, hflag]

theorem barWrite_ceMode_of_other_part (s : State) (p : Part) (v : BitVec 64) (whole : p ≠ .whole)
    (lower : p ≠ .lower) : barWrite s 0 p v = s := by
  refine barWrite_of_writeReg_eq s 0 p v fun w hw => ?_
  cases h : s.img.loaded with
  | true => exact writeReg_ceMode_of_loaded s w h
  | false => rw [writeReg_ceMode_of_not_loaded s w h, flag_zero_of_wrOf p v s.ce.strict whole lower w hw]

/-- Settles O53: both rows are one write through BAR0, and the loaded image and the bytes written decide its effect. -/
theorem strictTakesValueWithoutImage : Obligations.StrictTakesValueWithoutImage := by
  intro s p v i hi
  have run := exec_ceMode_write s hi
  refine ⟨fun up unloaded part => ⟨_, run, ?_⟩, fun loaded => ⟨_, run, ?_⟩, fun whole lower => ⟨_, run, ?_⟩⟩
  · exact barWrite_ceMode_of_not_loaded s p v up unloaded part
  · exact barWrite_ceMode_of_loaded s p v loaded
  · exact barWrite_ceMode_of_other_part s p v whole lower

end Sys2Proof.Machine
end

section
/-! The settled statement of chapter 19 on IDCODE (R524), with the rules of the test access port that it rests on. -/

namespace Sys2Proof.Machine

/-- A powered standby domain lets the TAP act. -/
theorem tap_of_standby (s : State) (f : State → State) (h : s.boot.standby = true) : tap s f = f s := if_pos h

/-- The code by its fields: the version by the stepping, the part number, the manufacturer code and the final 1. -/
theorem State.idcode_fields (s : State) :
    bits s.idcode 31 28 = (if s.made.b0 = true then 2 else 1) ∧ bits s.idcode 27 12 = 0x834C ∧
      bits s.idcode 11 1 = 0x2F3 ∧ bits s.idcode 0 0 = 1 := by
  unfold State.idcode
  cases s.made.b0 with
  | true => decide
  | false => decide

/-- Under standby power IDCODE selects its instruction, captures the code and ends EXTEST's drive of the outputs. -/
theorem exec_idcode_of_standby (s : State) (h : s.boot.standby = true) :
    exec .idcode s = .next { s with dbg := { s.dbg with ir := 1, dr := s.idcode, extest := none } } :=
  congrArg Host.Outcome.next (tap_of_standby s _ h)

/-- Settles O52: IDCODE is one capture of the code, whose fields are read off in each stepping. -/
theorem idcodeIsCaptured : Obligations.IdcodeIsCaptured := by
  intro s standby
  obtain ⟨version, part, manufacturer, one⟩ := s.idcode_fields
  exact ⟨_, exec_idcode_of_standby s standby, version, part, manufacturer, one, rfl, rfl, rfl⟩

end Sys2Proof.Machine
end
